-- ==== Sys2Proof/Word.lean ====
section
/-!
DEFINITION. The word types of the machine and their plainest arithmetic. Bit 0 is the least significant bit (spec R4).
-/
namespace Sys2Proof

/-- A 64-bit scalar word (R232). -/
abbrev Word := BitVec 64
/-- A byte of memory (R4). -/
abbrev Byte := BitVec 8
/-- A bundle index, 0 to 4,095 (R66, R217). -/
abbrev Pc := BitVec 12
/-- A vector register or a sidecar, 512 bits (R54). -/
abbrev VWord := BitVec 512
/-- The 512 data bytes of a tile register (R61). -/
abbrev TileBits := BitVec 4096
/-- A segment register, a mailbox message, a barrier object: 128 bits. -/
abbrev Quad := BitVec 128

/-- x[hi:lo] as a natural number (R4). -/
def bitsNat {w : Nat} (x : BitVec w) (hi lo : Nat) : Nat :=
  (x.toNat >>> lo) % 2 ^ (hi + 1 - lo)

/-- One bit of a word (R4). -/
def bitAt {w : Nat} (x : BitVec w) (i : Nat) : Bool := x.getLsbD i

/-- x with bits hi:lo replaced by the low bits of v. -/
def setBits {w : Nat} (x : BitVec w) (hi lo v : Nat) : BitVec w :=
  let m := (2 ^ (hi + 1 - lo) - 1) <<< lo
  (x &&& BitVec.ofNat w (2 ^ w - 1 - m)) ||| BitVec.ofNat w ((v % 2 ^ (hi + 1 - lo)) <<< lo)

/-- A flag as 0 or 1. -/
def b2n (b : Bool) : Nat := if b then 1 else 0

end Sys2Proof
end

