-- ==== Sys2Proof/Types.lean ====
section
/-!
DEFINITION. The closed sets of names and the small records that the fields of instructions and events use.
-/
namespace Sys2Proof

abbrev SReg := Fin 32
abbrev VReg := Fin 32
abbrev PReg := Fin 16
abbrev KReg := Fin 8
abbrev TReg := Fin 16
abbrev GReg := Fin 8
abbrev CReg := Fin 16
abbrev QReg := Fin 8

/-- NEG and PRED of a bundle slot (R218, R219). -/
structure Guard where
  neg : Bool
  pred : PReg
  deriving DecidableEq, Repr

/-- The element formats of Table 8-1 (R180); code 7 is reserved. -/
inductive Fmt where
  | fp64 | fp32 | fp16 | bf16 | e4m3 | e5m2 | e2m1
  | i64 | i32 | i16 | i8 | n64 | n32 | n16 | n8
  deriving DecidableEq, Repr

/-- The rounding-mode codes of Table 8-5 (R191); code 6 is reserved. -/
inductive Rnd where
  | rne | rtz | rup | rdn | rna | sr | dyn
  deriving DecidableEq, Repr

/-- The condition codes of Table 10-3 (R222). -/
inductive Cond where
  | eq | ne | lt | ge | le | gt | ltn | gen | len | gtn | un | ord
  deriving DecidableEq, Repr

/-- The class codes of Table 12-4 (R271). -/
inductive VClass where
  | nan | ninf | nnorm | nsub | nzero | pzero | psub | pnorm | pinf | zero | sub | inf | finite | neg
  deriving DecidableEq, Repr

/-- Patterns of VSHUF (R279). -/
inductive ShufPat where
  | ziplo | ziphi | even | odd
  deriving DecidableEq, Repr

/-- Operations of VRED and VSCAN (Table 12-8). -/
inductive RedOp where
  | sum | min | max | and | or | xor
  deriving DecidableEq, Repr

/-- Group sizes 1, 2 and 4 (R230). -/
inductive GroupSize where
  | g1 | g2 | g4
  deriving DecidableEq, Repr

/-- Modes of TSCALE (R297). -/
inductive ScaleMode where
  | row | col | elem
  deriving DecidableEq, Repr

/-- The atomics of RAOP (Table 14-3). -/
inductive AtomicOp where
  | add | min | max | minn | maxn | and | or | xor | swap | fadd
  deriving DecidableEq, Repr

/-- FENCE scopes (Table 4-2), narrowest first. -/
inductive FenceScope where
  | core | die | package | system
  deriving DecidableEq, Repr

/-- Wire scopes (R152). -/
inductive WireScope where
  | all | row | col
  deriving DecidableEq, Repr

/-- Wire reduction operations (Table 6-3). -/
inductive WireOp where
  | addI64 | addF64 | minI64 | maxI64 | minN64 | maxN64 | and | or | xor
  deriving DecidableEq, Repr

/-- TAMP scopes (R159, R338). -/
inductive TampScope where
  | die | package | domain
  deriving DecidableEq, Repr

/-- Counters of WAITT (R339). -/
inductive Counter where
  | tick | vtick | dtick
  deriving DecidableEq, Repr

/-- The memory operand of R210 and R300: base register, segment register, displacement. -/
structure MemOp where
  base : SReg
  seg : GReg
  disp : BitVec 32
  deriving DecidableEq, Repr

/-- How RECV and RECVT name a landing tag (R334): by the immediate, or by sD. -/
inductive TagSel where
  | imm (sidx : BitVec 8) (seq : BitVec 5)
  | reg
  deriving DecidableEq, Repr

/-- A core of a context: the context number and the logical index in the team (R26). -/
structure CoreKey where
  ctx : Nat
  lidx : Nat
  deriving DecidableEq, Repr

/-- A Juriune frame (R410): the lane it came on, its 16-byte header and its payload words. -/
structure Frame where
  lane : Fin 2
  hdr : Quad
  payload : List Word
  deriving DecidableEq, Repr

/-- What a request frame asks for (R410, R413, R444 to R470). -/
inductive FrameKind where
  | launch | memrd | memwr | attest | bind | unbind | destroy | reset | topen | tclose | trdptr | hostresp | cancel
  | flightrd | slicecfg | dirty | dsnap | slicestop | sliceload | slicerun | sliceclear | digest | healthcfg
  | healthrd | heartbeat | restore | image
  deriving DecidableEq, Repr

/-- An item that reaches a hub die from the external fabric (R167, R342). -/
inductive FabricItem where
  /-- A timetable's window word: group handle, job key of the handle at the sender, sender's rank core,
      tag SEQ, data, destination core, and the DTICK from which its flight counts: that of its issue, and a tick more for each that it
      waited at a link (R161). -/
  | groupWord (handle : BitVec 24) (jobKey : Word) (sender : Nat) (seq : Byte) (data : Word) (dst : CoreKey) (sent : Nat)
  /-- A WSEND word with the sending context's job key, and the same DTICK. -/
  | windowWord (jobKey : Word) (sender : Nat) (seq : Byte) (data : Word) (dst : CoreKey) (sent : Nat)
  /-- An active message with the sending context's job key. -/
  | message (jobKey : Word) (msg : Quad) (dst : CoreKey)
  /-- What one package's drivers tell another's of a team that spans both: every thread of the team's part on the package of a rank has
      halted (R37). The spec names no such item; how packages learn it is the model's (log 74). -/
  | halted (jobKey : Word) (rank : Nat) (dst : CoreKey)
  deriving DecidableEq, Repr

/-- What a start brings from outside the model: BIST and training outcomes and the stored parameters (R457, R459). -/
structure StartOutcome where
  /-- The first step, 1 to 7, that fails; none when every step passes. -/
  failed : Option (Fin 8)
  /-- The stored HBM parameters and their tag are present, match and pass their checks (R459). -/
  storeGood : Bool
  /-- The parameters that full training yields. -/
  params : List Word
  /-- Window flights that link training measured: peer package and ticks of DTICK (R161). -/
  flights : List (Nat × BitVec 32)
  deriving DecidableEq, Repr

/-- An error that the package detects (R72, R217, R442, R465): corrected; or uncorrectable in a granule of a core's pool, in a unit of
its instruction store, or in a granule of global memory. -/
inductive DetectedError where
  | corrected
  | pool (granule : Nat)
  | memory (granule : Nat)
  deriving DecidableEq, Repr

/-- A PTP message that a port timestamps (R157; log 99): the peer-delay exchange, and Sync. -/
inductive PtpMessage where
  /-- The port's own Pdelay_Req leaves. -/
  | request
  /-- The peer's response comes, with the time it held the request. -/
  | response (held : Nat)
  /-- A Sync comes: one-step with its origin time, two-step without. -/
  | sync (origin : Option Nat)
  /-- The Follow_Up of a two-step Sync comes, with its origin time. -/
  | followUp (origin : Nat)
  /-- The port's own Sync leaves, two-step: its stamp goes into the Follow_Up. -/
  | syncLeaves
  /-- The peer's Pdelay_Req comes. -/
  | peerRequest
  /-- The port's own response to it leaves, two-step: the time that the request was held goes into its follow-up. -/
  | responseLeaves
  deriving DecidableEq, Repr

/-- What a port sends after an event message of its own has left, two-step on transmit (R157). -/
inductive PtpSent where
  | followUp (origin : Nat)
  | held (ticks : Nat)
  deriving DecidableEq, Repr

/-- A message at a port of a hub die, and what the PTP servo of the package makes of itself: whether it has settled, the bound that
the firmware forms, and whether the package is grandmaster (R157, R158). -/
structure PtpReport where
  plock : Bool
  skewb : Byte
  grandmaster : Bool
  port : Fin 16
  message : PtpMessage
  deriving DecidableEq, Repr

end Sys2Proof
end

