-- ==== Sys2Proof/Machine/Formats.lean ====
section
/-!
DEFINITION. Codes, widths and kinds of the element formats, and the codes of the other closed sets (R180, R191, R222).
-/
namespace Sys2Proof

/-- The 4-bit code of Table 8-1 (R180). -/
def Fmt.code : Fmt → Nat
  | .fp64 => 0 | .fp32 => 1 | .fp16 => 2 | .bf16 => 3 | .e4m3 => 4 | .e5m2 => 5 | .e2m1 => 6
  | .i64 => 8 | .i32 => 9 | .i16 => 10 | .i8 => 11 | .n64 => 12 | .n32 => 13 | .n16 => 14 | .n8 => 15

/-- The format of a code; code 7 is reserved (R180). -/
def Fmt.ofCode : Nat → Option Fmt
  | 0 => some .fp64 | 1 => some .fp32 | 2 => some .fp16 | 3 => some .bf16 | 4 => some .e4m3 | 5 => some .e5m2
  | 6 => some .e2m1 | 8 => some .i64 | 9 => some .i32 | 10 => some .i16 | 11 => some .i8 | 12 => some .n64
  | 13 => some .n32 | 14 => some .n16 | 15 => some .n8 | _ => none

/-- Element width in bits (Table 8-1). -/
def Fmt.width : Fmt → Nat
  | .fp64 | .i64 | .n64 => 64
  | .fp32 | .i32 | .n32 => 32
  | .fp16 | .bf16 | .i16 | .n16 => 16
  | .e4m3 | .e5m2 | .i8 | .n8 => 8
  | .e2m1 => 4

def Fmt.isFloat : Fmt → Bool
  | .fp64 | .fp32 | .fp16 | .bf16 | .e4m3 | .e5m2 | .e2m1 => true
  | _ => false

def Fmt.isInt (f : Fmt) : Bool := !f.isFloat

/-- I8 to I64 are two's complement (R189). -/
def Fmt.isSigned : Fmt → Bool
  | .i64 | .i32 | .i16 | .i8 => true
  | _ => false

/-- FP64, FP32, FP16 and BF16: codes 0 to 3, the formats of V-slot arithmetic (Table 12-1). -/
def Fmt.isWide : Fmt → Bool
  | .fp64 | .fp32 | .fp16 | .bf16 => true
  | _ => false

/-- Elements of a vector register (R181). -/
def Fmt.lanes (f : Fmt) : Nat := 512 / f.width

/-- Mask lane count nm (R262). -/
def Fmt.maskLanes (f : Fmt) : Nat := 512 / Nat.max f.width 8

/-- Rounding code of Table 8-5. -/
def Rnd.code : Rnd → Nat
  | .rne => 0 | .rtz => 1 | .rup => 2 | .rdn => 3 | .rna => 4 | .sr => 5 | .dyn => 7

def Rnd.ofCode : Nat → Option Rnd
  | 0 => some .rne | 1 => some .rtz | 2 => some .rup | 3 => some .rdn | 4 => some .rna | 5 => some .sr
  | 7 => some .dyn | _ => none

/-- Condition code of Table 10-3. -/
def Cond.code : Cond → Nat
  | .eq => 0 | .ne => 1 | .lt => 2 | .ge => 3 | .le => 4 | .gt => 5 | .ltn => 6 | .gen => 7 | .len => 8
  | .gtn => 9 | .un => 10 | .ord => 11

def Cond.ofCode : Nat → Option Cond
  | 0 => some .eq | 1 => some .ne | 2 => some .lt | 3 => some .ge | 4 => some .le | 5 => some .gt | 6 => some .ltn
  | 7 => some .gen | 8 => some .len | 9 => some .gtn | 10 => some .un | 11 => some .ord | _ => none

/-- Class code of Table 12-4. -/
def VClass.code : VClass → Nat
  | .nan => 0 | .ninf => 1 | .nnorm => 2 | .nsub => 3 | .nzero => 4 | .pzero => 5 | .psub => 6 | .pnorm => 7
  | .pinf => 8 | .zero => 9 | .sub => 10 | .inf => 11 | .finite => 12 | .neg => 13

def VClass.ofCode : Nat → Option VClass
  | 0 => some .nan | 1 => some .ninf | 2 => some .nnorm | 3 => some .nsub | 4 => some .nzero | 5 => some .pzero
  | 6 => some .psub | 7 => some .pnorm | 8 => some .pinf | 9 => some .zero | 10 => some .sub | 11 => some .inf
  | 12 => some .finite | 13 => some .neg | _ => none

def ShufPat.code : ShufPat → Nat
  | .ziplo => 0 | .ziphi => 1 | .even => 2 | .odd => 3

def ShufPat.ofCode : Nat → Option ShufPat
  | 0 => some .ziplo | 1 => some .ziphi | 2 => some .even | 3 => some .odd | _ => none

def RedOp.code : RedOp → Nat
  | .sum => 0 | .min => 1 | .max => 2 | .and => 3 | .or => 4 | .xor => 5

def RedOp.ofCode : Nat → Option RedOp
  | 0 => some .sum | 1 => some .min | 2 => some .max | 3 => some .and | 4 => some .or | 5 => some .xor | _ => none

def GroupSize.code : GroupSize → Nat
  | .g1 => 0 | .g2 => 1 | .g4 => 2

def GroupSize.ofCode : Nat → Option GroupSize
  | 0 => some .g1 | 1 => some .g2 | 2 => some .g4 | _ => none

/-- Number of registers of a group (R230). -/
def GroupSize.size : GroupSize → Nat
  | .g1 => 1 | .g2 => 2 | .g4 => 4

def ScaleMode.code : ScaleMode → Nat
  | .row => 0 | .col => 1 | .elem => 2

def ScaleMode.ofCode : Nat → Option ScaleMode
  | 0 => some .row | 1 => some .col | 2 => some .elem | _ => none

/-- RAOP OP of Table 14-3. -/
def AtomicOp.code : AtomicOp → Nat
  | .add => 0 | .min => 1 | .max => 2 | .minn => 3 | .maxn => 4 | .and => 5 | .or => 6 | .xor => 7 | .swap => 8
  | .fadd => 9

def AtomicOp.ofCode : Nat → Option AtomicOp
  | 0 => some .add | 1 => some .min | 2 => some .max | 3 => some .minn | 4 => some .maxn | 5 => some .and
  | 6 => some .or | 7 => some .xor | 8 => some .swap | 9 => some .fadd | _ => none

def FenceScope.code : FenceScope → Nat
  | .core => 0 | .die => 1 | .package => 2 | .system => 3

def FenceScope.ofCode : Nat → Option FenceScope
  | 0 => some .core | 1 => some .die | 2 => some .package | 3 => some .system | _ => none

def WireScope.code : WireScope → Nat
  | .all => 0 | .row => 1 | .col => 2

def WireScope.ofCode : Nat → Option WireScope
  | 0 => some .all | 1 => some .row | 2 => some .col | _ => none

/-- Table 6-3. -/
def WireOp.code : WireOp → Nat
  | .addI64 => 0 | .addF64 => 1 | .minI64 => 2 | .maxI64 => 3 | .minN64 => 4 | .maxN64 => 5 | .and => 6 | .or => 7
  | .xor => 8

def WireOp.ofCode : Nat → Option WireOp
  | 0 => some .addI64 | 1 => some .addF64 | 2 => some .minI64 | 3 => some .maxI64 | 4 => some .minN64
  | 5 => some .maxN64 | 6 => some .and | 7 => some .or | 8 => some .xor | _ => none

def TampScope.code : TampScope → Nat
  | .die => 0 | .package => 1 | .domain => 2

def TampScope.ofCode : Nat → Option TampScope
  | 0 => some .die | 1 => some .package | 2 => some .domain | _ => none

def Counter.code : Counter → Nat
  | .tick => 0 | .vtick => 1 | .dtick => 2

def Counter.ofCode : Nat → Option Counter
  | 0 => some .tick | 1 => some .vtick | 2 => some .dtick | _ => none

end Sys2Proof
end

