-- ==== Sys2Proof/Syntax.lean ====
section
/-!
DEFINITION. The one inductive of instructions: one constructor for each row of the opcode table. The first 192 are the
instructions of the bundle slots S, V, M, L and X; the others are the package's steps that no bundle names. An immediate
that EXT may extend is held at its extended width (R221).
-/
namespace Sys2Proof

inductive Instr where
  /-- NOP (R235). -/
  | nop
  -- S slot, register forms (R236 to R239): guard, D, A, B
  | add (g : Guard) (d a b : SReg)
  | sub (g : Guard) (d a b : SReg)
  | mul (g : Guard) (d a b : SReg)
  | mulh (g : Guard) (d a b : SReg)
  | mulhn (g : Guard) (d a b : SReg)
  | div (g : Guard) (d a b : SReg)
  | divn (g : Guard) (d a b : SReg)
  | rem (g : Guard) (d a b : SReg)
  | remn (g : Guard) (d a b : SReg)
  | and (g : Guard) (d a b : SReg)
  | or (g : Guard) (d a b : SReg)
  | xor (g : Guard) (d a b : SReg)
  | andn (g : Guard) (d a b : SReg)
  | orn (g : Guard) (d a b : SReg)
  | shl (g : Guard) (d a b : SReg)
  | shr (g : Guard) (d a b : SReg)
  | sra (g : Guard) (d a b : SReg)
  | rol (g : Guard) (d a b : SReg)
  | min (g : Guard) (d a b : SReg)
  | max (g : Guard) (d a b : SReg)
  | minn (g : Guard) (d a b : SReg)
  | maxn (g : Guard) (d a b : SReg)
  | bext (g : Guard) (d a b : SReg)
  | bdep (g : Guard) (d a b : SReg)
  /-- CMP (R243). -/
  | cmp (g : Guard) (cc : Cond) (d : PReg) (a b : SReg)
  /-- SEL (R244). -/
  | sel (g : Guard) (d : SReg) (p : PReg) (a b : SReg)
  /-- LEA (R242). -/
  | lea (g : Guard) (d a b : SReg) (sh : Fin 8) (off : BitVec 17)
  | clz (g : Guard) (d a : SReg)
  | ctz (g : Guard) (d a : SReg)
  | popc (g : Guard) (d a : SReg)
  | brev (g : Guard) (d a : SReg)
  -- immediate forms (R240, R241)
  | addi (g : Guard) (d a : SReg) (imm : BitVec 36)
  | andi (g : Guard) (d a : SReg) (imm : BitVec 36)
  | ori (g : Guard) (d a : SReg) (imm : BitVec 36)
  | xori (g : Guard) (d a : SReg) (imm : BitVec 36)
  | shli (g : Guard) (d a : SReg) (n : Fin 64)
  | shri (g : Guard) (d a : SReg) (n : Fin 64)
  | srai (g : Guard) (d a : SReg) (n : Fin 64)
  | cmpi (g : Guard) (cc : Cond) (d : PReg) (a : SReg) (imm : BitVec 36)
  | li (g : Guard) (d : SReg) (imm : BitVec 36)
  | lih (g : Guard) (d a : SReg) (imm : BitVec 32)
  -- predicate forms (R245)
  | pand (g : Guard) (d a b : PReg)
  | por (g : Guard) (d a b : PReg)
  | pxor (g : Guard) (d a b : PReg)
  | pnot (g : Guard) (d a : PReg)
  | pset (g : Guard) (d : PReg) (v : Bool)
  -- control transfer (R246 to R249)
  | br (g : Guard) (imm : BitVec 36)
  | jmp (g : Guard) (t : Pc)
  | jr (g : Guard) (a : SReg)
  | call (g : Guard) (t : Pc)
  | callr (g : Guard) (a : SReg)
  | ret (g : Guard)
  | loop (g : Guard) (imm : BitVec 36)
  | lset (g : Guard) (a : SReg) (ec : Byte)
  -- threads and traps (R251 to R256)
  | spawn (g : Guard) (d a : SReg) (entry : Pc) (u : Fin 8)
  | halt (g : Guard)
  | trap (g : Guard) (imm : BitVec 36)
  | eret (g : Guard)
  | park (g : Guard) (a : SReg) (c : CReg)
  -- control, shared and segment registers (R257 to R261)
  | mfc (g : Guard) (d : SReg) (n : BitVec 12)
  | mtc (g : Guard) (n : BitVec 12) (a : SReg)
  | mfs (g : Guard) (d : SReg) (c : CReg)
  | mts (g : Guard) (c : CReg) (a : SReg)
  | segset (g : Guard) (n : GReg) (a b : SReg)
  | segget (g : Guard) (d : SReg) (n : GReg)
  -- V slot, floating point (R267 to R271)
  | vadd (g : Guard) (d a b : VReg) (k : KReg) (f : Fmt) (r : Rnd)
  | vsub (g : Guard) (d a b : VReg) (k : KReg) (f : Fmt) (r : Rnd)
  | vmul (g : Guard) (d a b : VReg) (k : KReg) (f : Fmt) (r : Rnd)
  | vfma (g : Guard) (d a b c : VReg) (k : KReg) (f : Fmt) (r : Rnd)
  | vfms (g : Guard) (d a b c : VReg) (k : KReg) (f : Fmt) (r : Rnd)
  | vfnma (g : Guard) (d a b c : VReg) (k : KReg) (f : Fmt) (r : Rnd)
  | vdiv (g : Guard) (d a b : VReg) (k : KReg) (f : Fmt) (r : Rnd)
  | vsqrt (g : Guard) (d a : VReg) (k : KReg) (f : Fmt) (r : Rnd)
  | vrcp (g : Guard) (d a : VReg) (k : KReg) (f : Fmt) (r : Rnd)
  | vrsq (g : Guard) (d a : VReg) (k : KReg) (f : Fmt) (r : Rnd)
  | vmin (g : Guard) (d a b : VReg) (k : KReg) (f : Fmt)
  | vmax (g : Guard) (d a b : VReg) (k : KReg) (f : Fmt)
  | vabs (g : Guard) (d a : VReg) (k : KReg) (f : Fmt)
  | vneg (g : Guard) (d a : VReg) (k : KReg) (f : Fmt)
  | vcpys (g : Guard) (d a b : VReg) (k : KReg) (f : Fmt)
  | vexp2 (g : Guard) (d a : VReg) (k : KReg) (f : Fmt) (r : Rnd)
  | vlog2 (g : Guard) (d a : VReg) (k : KReg) (f : Fmt) (r : Rnd)
  | vcmp (g : Guard) (cc : Cond) (d : KReg) (a b : VReg) (k : KReg) (f : Fmt)
  | vclass (g : Guard) (c : VClass) (d : KReg) (a : VReg) (k : KReg) (f : Fmt)
  -- V slot, integer, shift and logic (R272, R273)
  | viadd (g : Guard) (d a b : VReg) (k : KReg) (f : Fmt) (sat : Bool)
  | visub (g : Guard) (d a b : VReg) (k : KReg) (f : Fmt) (sat : Bool)
  | vimul (g : Guard) (d a b : VReg) (k : KReg) (f : Fmt) (sat : Bool)
  | vimulh (g : Guard) (d a b : VReg) (k : KReg) (f : Fmt)
  | vimin (g : Guard) (d a b : VReg) (k : KReg) (f : Fmt)
  | vimax (g : Guard) (d a b : VReg) (k : KReg) (f : Fmt)
  | viabs (g : Guard) (d a : VReg) (k : KReg) (f : Fmt) (sat : Bool)
  | vshl (g : Guard) (d a b : VReg) (k : KReg) (f : Fmt)
  | vshr (g : Guard) (d a b : VReg) (k : KReg) (f : Fmt)
  | vsra (g : Guard) (d a b : VReg) (k : KReg) (f : Fmt)
  | vand (g : Guard) (d a b : VReg) (k : KReg) (f : Fmt)
  | vor (g : Guard) (d a b : VReg) (k : KReg) (f : Fmt)
  | vxor (g : Guard) (d a b : VReg) (k : KReg) (f : Fmt)
  | vandn (g : Guard) (d a b : VReg) (k : KReg) (f : Fmt)
  | vpopc (g : Guard) (d a : VReg) (k : KReg) (f : Fmt)
  -- V slot, conversion (R274 to R276): destination format, source format, rounding, option bit
  | vcvt (g : Guard) (d a : VReg) (k : KReg) (dst src : Fmt) (r : Rnd) (opt : Bool)
  | vpack (g : Guard) (d a b : VReg) (k : KReg) (dst src : Fmt) (r : Rnd) (opt : Bool)
  | vunpk (g : Guard) (d a : VReg) (k : KReg) (dst src : Fmt)
  -- V slot, moves and permutations (R277 to R280)
  | vmov (g : Guard) (d a : VReg) (k : KReg) (f : Fmt) (n : GroupSize)
  | vsel (g : Guard) (d a b : VReg) (k : KReg) (f : Fmt)
  | vbcast (g : Guard) (d : VReg) (a : SReg) (k : KReg) (f : Fmt)
  | vins (g : Guard) (d : VReg) (a : SReg) (f : Fmt) (j : BitVec 21)
  | vext (g : Guard) (d : SReg) (a : VReg) (f : Fmt) (j : BitVec 21)
  | vperm (g : Guard) (d a b : VReg) (k : KReg) (f : Fmt)
  | vshuf (g : Guard) (pat : ShufPat) (d a b : VReg) (k : KReg) (f : Fmt)
  | vrot (g : Guard) (d a : VReg) (k : KReg) (f : Fmt) (j : BitVec 21)
  | vcomp (g : Guard) (d a : VReg) (k : KReg) (f : Fmt)
  | vexpd (g : Guard) (d a : VReg) (k : KReg) (f : Fmt)
  | vred (g : Guard) (op : RedOp) (d a : VReg) (k : KReg) (f : Fmt) (r : Rnd) (sat : Bool)
  | vscan (g : Guard) (op : RedOp) (d a : VReg) (k : KReg) (f : Fmt) (r : Rnd) (sat : Bool)
  | viota (g : Guard) (d : VReg) (k : KReg) (f : Fmt)
  | vdot (g : Guard) (d a b : VReg) (k : KReg) (acc inp : Fmt) (r : Rnd)
  -- V slot, masks and hash (R283, R284)
  | kand (g : Guard) (d a b : KReg) (f : Fmt)
  | kor (g : Guard) (d a b : KReg) (f : Fmt)
  | kxor (g : Guard) (d a b : KReg) (f : Fmt)
  | knot (g : Guard) (d a : KReg) (f : Fmt)
  | kmov (g : Guard) (d a : KReg) (f : Fmt)
  | kpopc (g : Guard) (d : SReg) (a : KReg) (f : Fmt)
  | vhash (g : Guard) (d a : VReg) (k : KReg) (f : Fmt) (b : Fin 32)
  -- M slot (R291 to R298)
  | mma (g : Guard) (d a b : TReg) (grp : Fin 8) (f : Fmt)
  | mmaz (g : Guard) (d a b : TReg) (grp : Fin 8) (f : Fmt)
  | tzero (g : Guard) (d : TReg)
  | tcfg (g : Guard) (d : TReg) (f : Fmt) (rows cols : Byte)
  | tmov (g : Guard) (d a : TReg)
  | ttrn (g : Guard) (d a : TReg)
  | tcvt (g : Guard) (d a : TReg) (dst : Fmt) (r : Rnd)
  | tadd (g : Guard) (d a b : TReg) (f : Fmt) (r : Rnd)
  | trowi (g : Guard) (d : TReg) (v : VReg) (row : Fin 8)
  | trowx (g : Guard) (v : VReg) (src : TReg) (row : Fin 8)
  | tinv (g : Guard) (d : TReg)
  | tscale (g : Guard) (mode : ScaleMode) (d a b : TReg) (f : Fmt)
  -- L slot, loads and stores (R306 to R310)
  | ld (g : Guard) (d : SReg) (m : MemOp) (x : SReg) (sz : Fin 4) (sgn scl : Bool)
  | st (g : Guard) (d : SReg) (m : MemOp) (x : SReg) (sz : Fin 4) (scl : Bool)
  | ldv (g : Guard) (d : VReg) (m : MemOp) (x : SReg) (k : KReg) (lw : Fin 4) (n : GroupSize) (scl : Bool)
  | stv (g : Guard) (d : VReg) (m : MemOp) (x : SReg) (k : KReg) (lw : Fin 4) (n : GroupSize) (scl : Bool)
  | ldvg (g : Guard) (d : VReg) (m : MemOp) (x : VReg) (k : KReg) (lw : Fin 4) (scl : Bool)
  | stvs (g : Guard) (d : VReg) (m : MemOp) (x : VReg) (k : KReg) (lw : Fin 4) (scl : Bool)
  | ldt (g : Guard) (d : TReg) (m : MemOp) (x : SReg) (scl : Bool)
  | stt (g : Guard) (d : TReg) (m : MemOp) (x : SReg) (scl : Bool)
  | stnb (g : Guard) (d : SReg) (m : MemOp) (x : SReg) (hi nidx : Bool)
  -- L slot, remote access (R311 to R313)
  | rld (g : Guard) (d : SReg) (m : MemOp) (x : SReg) (sz : Fin 4) (sgn scl : Bool)
  | rst (g : Guard) (d : SReg) (m : MemOp) (x : SReg) (sz : Fin 4) (scl : Bool)
  | rstnb (g : Guard) (d : SReg) (m : MemOp) (x : SReg) (hi nidx : Bool)
  | raop (g : Guard) (op : AtomicOp) (d : SReg) (m : MemOp) (x : SReg) (w64 : Bool)
  -- L slot, bank-unit atomics (R314)
  | aadd (g : Guard) (d : SReg) (m : MemOp) (x : SReg) (w64 : Bool)
  | amin (g : Guard) (d : SReg) (m : MemOp) (x : SReg) (w64 : Bool)
  | amax (g : Guard) (d : SReg) (m : MemOp) (x : SReg) (w64 : Bool)
  | aminn (g : Guard) (d : SReg) (m : MemOp) (x : SReg) (w64 : Bool)
  | amaxn (g : Guard) (d : SReg) (m : MemOp) (x : SReg) (w64 : Bool)
  | aand (g : Guard) (d : SReg) (m : MemOp) (x : SReg) (w64 : Bool)
  | aor (g : Guard) (d : SReg) (m : MemOp) (x : SReg) (w64 : Bool)
  | axor (g : Guard) (d : SReg) (m : MemOp) (x : SReg) (w64 : Bool)
  | aswap (g : Guard) (d : SReg) (m : MemOp) (x : SReg) (w64 : Bool)
  | acas (g : Guard) (d : SReg) (m : MemOp) (x : SReg) (w64 : Bool)
  | afadd (g : Guard) (d : SReg) (m : MemOp) (x : SReg) (w64 : Bool)
  -- L slot, queues and dependence counters (R317 to R320)
  | qrsv (g : Guard) (d : SReg) (m : MemOp)
  | qpub (g : Guard) (d : SReg) (m : MemOp)
  | qtake (g : Guard) (d : SReg) (m : MemOp)
  | depdec (g : Guard) (d : SReg) (m : MemOp)
  -- L slot, engine commands (R321): busy predicate, number of the request quad
  | copy (g : Guard) (d : PReg) (q : Fin 8)
  | gath (g : Guard) (d : PReg) (q : Fin 8)
  | scat (g : Guard) (d : PReg) (q : Fin 8)
  | iload (g : Guard) (d : PReg) (q : Fin 8)
  -- L slot, barrier objects and mailbox (R323 to R327)
  | boinit (g : Guard) (d : SReg) (m : MemOp) (x : SReg)
  | boexp (g : Guard) (d : SReg) (m : MemOp) (x : SReg)
  | boarr (g : Guard) (m : MemOp)
  | bwait (g : Guard) (m : MemOp) (x : SReg)
  | btest (g : Guard) (d : PReg) (m : MemOp) (x : SReg)
  | mwait (g : Guard)
  | mpop (g : Guard) (d : SReg)
  | mpeek (g : Guard) (d : SReg)
  -- L slot, FENCE and ACSNAP (R328, R329)
  | fence (g : Guard) (sc : FenceScope)
  | acsnap (g : Guard) (m : MemOp) (x : SReg)
  -- X slot (R333 to R348)
  | send (g : Guard) (a : SReg) (dst : BitVec 8) (seq : BitVec 5)
  | recv (g : Guard) (d : SReg) (tag : TagSel)
  | recvt (g : Guard) (d a : SReg) (b : PReg) (tag : TagSel)
  | barw (g : Guard) (sc : WireScope)
  | barwr (g : Guard) (op : WireOp) (sc : WireScope) (d a : SReg)
  | tamp (g : Guard) (sc : TampScope) (a : SReg) (imm : BitVec 30)
  | waitt (g : Guard) (c : Counter) (d : PReg) (a : SReg) (imm : BitVec 30)
  | wsend (g : Guard) (a b : SReg) (seq : Byte) (nw : Option (BitVec 5))
  | amsg (g : Guard) (a b : SReg) (tag : BitVec 14)
  | qpush (g : Guard) (q : QReg) (b : SReg) (prio : Fin 8)
  | qpop (g : Guard) (d : SReg) (q : QReg) (cnt : Bool)
  | carm (g : Guard) (d : PReg) (a : SReg)
  | cfire (g : Guard) (a b : SReg)
  | trig (g : Guard) (a : SReg) (n : Byte)
  -- steps of a core (R31 to R53, R152 to R165, R305, R332)
  | longResultReady (c : CoreKey) (t : Fin 8)
  | deferredTrap (c : CoreKey) (t : Fin 8)
  | holdRelease (c : CoreKey) (t : Fin 8)
  | waitRetry (c : CoreKey) (t : Fin 8)
  | recvRetry (c : CoreKey) (t : Fin 8)
  | recvtDeadline (c : CoreKey) (t : Fin 8)
  | parkWake (c : CoreKey) (t : Fin 8)
  | wireRelease (ep : Nat)
  | wiretoExpiry (ep : Nat)
  | tampRelease (c : CoreKey) (t : Fin 8)
  | waittReached (c : CoreKey) (t : Fin 8)
  -- arrivals (R87, R147, R161, R167, R341), each naming an item in flight
  | remoteAccessArrival (id : Nat)
  | remoteReplyArrival (id : Nat)
  | scheduledWordLanding (id : Nat)
  | windowWordLanding (id : Nat)
  | hubWordArrival (hub : Fin 2) (port : Fin 16) (item : FabricItem)
  | activeMessageArrival (id : Nat)
  -- transfer engine (R130 to R139), naming a core and a request
  | engineRequestStart (c : CoreKey)
  | engineUnitAdmission (c : CoreKey) (req : Nat)
  | engineUnitAccess (c : CoreKey) (req : Nat)
  | engineSublist (c : CoreKey) (req : Nat)
  | engineRequestComplete (c : CoreKey) (req : Nat)
  | mailboxHeldPost (c : CoreKey)
  -- translation faults and shootdowns (R435 to R440)
  | faultService (die : Fin 10)
  | faultAnswerPoll (slice : Fin 8)
  | faultTimeout (slice : Fin 8)
  | shootdownPages (slice : Fin 8)
  | shootdownAsid (slice : Fin 8)
  | shootdownSlice (slice : Fin 8)
  | shootdownAck (slice : Fin 8)
  -- alignment, timetables, channels, trace (R157, R158, R170 to R173, R344, R355)
  | alignStampExchange (die : Fin 10)
  | ptpTimestamp (hub : Fin 2) (rep : PtpReport)
  | timetablePut (c : CoreKey) (hdr : Nat)
  | timetableGet (c : CoreKey) (hdr : Nat)
  | timetableAcc (c : CoreKey) (hdr : Nat)
  | timetableEntryWake (c : CoreKey) (hdr : Nat)
  | carmCheckComplete (c : CoreKey) (hdr : Nat)
  | channelResponsePost (c : CoreKey)
  | tracePulse (session : Nat)
  -- launches and pre-emption (R418, R419, R423, R424)
  | placerRun (slice : Fin 8)
  | creditExpiry (slice : Fin 8)
  | freezeBoundary (c : CoreKey)
  | quiesce (ctx : Nat)
  | streamOut (c : CoreKey)
  | resume (ctx : Nat)
  | elasticEviction (c : CoreKey)
  | coreReturn (c : CoreKey)
  | debugStopRequest (c : CoreKey) (t : Fin 8)
  | debugResume (c : CoreKey) (t : Fin 8)
  | serviceClockSwitch (hub : Fin 2)
  -- Juriune frames (R412, R413, R416, R444 to R455, R460, R462, R466 to R470)
  | launch (f : Frame)
  | memrd (f : Frame)
  | memwr (f : Frame)
  | attest (f : Frame)
  | bind (f : Frame)
  | unbind (f : Frame)
  | destroy (f : Frame)
  | reset (f : Frame)
  | topen (f : Frame)
  | tclose (f : Frame)
  | trdptr (f : Frame)
  | hostresp (f : Frame)
  | cancel (f : Frame)
  | flightrd (f : Frame)
  | slicecfg (f : Frame)
  | dirty (f : Frame)
  | dsnap (f : Frame)
  | slicestop (f : Frame)
  | sliceload (f : Frame)
  | slicerun (f : Frame)
  | sliceclear (f : Frame)
  | digest (f : Frame)
  | healthcfg (f : Frame)
  | healthrd (f : Frame)
  | heartbeat (f : Frame)
  | restore (f : Frame)
  | image (f : Frame)
  -- start-up, power and health (R457, R464, R465, R468)
  | coldStart (o : StartOutcome)
  | warmStart (o : StartOutcome)
  | thermalLimit
  | thermalCritical
  | thermalClear
  | errorEvent (rid : BitVec 32)
  | resourceRemoval (rid : BitVec 32)
  deriving DecidableEq, Repr

/-- A decoded bundle (Table 10-1): RP, the delay counts and one instruction for each slot; NOP for an empty slot. -/
structure Bundle where
  rp : Bool
  dlyS : BitVec 4
  dlyV : BitVec 4
  dlyL : BitVec 4
  s : Instr
  v : Instr
  m : Instr
  l : Instr
  x : Instr
  deriving DecidableEq, Repr

end Sys2Proof
end

