-- ==== Sys2Proof/WellFormed.lean ====
section
/-!
DEFINITION. Which terms of Instr an encoding can express and no rule refuses: the checks of R228 that depend on the
instruction alone. What depends on PART, the slot or the team is checked when the bundle is decoded in its thread.
-/
namespace Sys2Proof

/-- A group of g registers begins at a multiple of g (R230). -/
def groupAligned (n : Nat) (g : GroupSize) : Bool := n % g.size == 0

/-- VCMP's accepted codes (R270). -/
def Cond.okFor (c : Cond) (f : Fmt) : Bool :=
  if f.isWide then c.code ≤ 5 || c.code ≥ 10 else f.isInt && c.code ≤ 9

/-- OPT of Table 12-6. See log 39. -/
def convOptOk (dst src : Fmt) (opt : Bool) : Bool :=
  !opt || (dst == .e5m2 && src.isFloat) || (dst.isInt && src.isInt)

/-- RND is RSVD on the pairs that do not round, integer to integer (R264, R274; log 39). -/
def convRndOk (dst src : Fmt) (r : Rnd) : Bool := dst.isFloat || src.isFloat || r == .rne

/-- Table 12-7. -/
def unpackPair (dst src : Fmt) : Bool :=
  match src, dst with
  | .fp32, .fp64 | .fp16, .fp32 | .bf16, .fp32 | .e4m3, .fp16 | .e5m2, .fp16 | .e2m1, .e4m3
  | .i8, .i16 | .i16, .i32 | .i32, .i64 | .n8, .n16 | .n16, .n32 | .n32, .n64 => true
  | _, _ => false

/-- Table 12-10. -/
def dotPair (acc inp : Fmt) : Bool :=
  match inp, acc with
  | .fp32, .fp64 | .bf16, .fp32 | .fp16, .fp32 | .e4m3, .fp32 | .e5m2, .fp32 | .e2m1, .fp32 | .i8, .i32
  | .n8, .n32 => true
  | _, _ => false

/-- VRED and VSCAN: which operations, SAT and RND stand with a format (R281). -/
def redOk (op : RedOp) (f : Fmt) (r : Rnd) (sat : Bool) : Bool :=
  (f.isWide || f.isInt)
  && (f.isInt || op == .sum || op == .min || op == .max)
  && (!sat || (f.isInt && op == .sum))
  && (r == .rne || (f.isWide && op == .sum))

/-- Input formats of MMA (Table 13-2). -/
def mmaFmt (f : Fmt) : Bool := f.isFloat || f == .i8

/-- TADD's formats (R296). -/
def taddOk (f : Fmt) (r : Rnd) : Bool :=
  f.isWide || ((f == .i64 || f == .i32 || f == .n64 || f == .n32) && r == .rne)

/-- TCFG's shape (R292). -/
def tcfgOk (f : Fmt) (rows cols : Byte) : Bool :=
  1 ≤ rows.toNat && rows.toNat ≤ 128 && 1 ≤ cols.toNat && cols.toNat ≤ 128
  && rows.toNat * cols.toNat * f.width ≤ 4096

/-- The lane formats that permutations accept: all but E2M1 (Table 12-1). -/
def notE2m1 (f : Fmt) : Bool := f != .e2m1

/-- The pair of registers of MPOP, MPEEK and SEGGET: even and not s0 (R230). -/
def pairOk (d : SReg) : Bool := d.val % 2 == 0 && d.val != 0

/-- A payload of at most 512 words (R410). -/
def Frame.wf (f : Frame) : Bool := f.payload.length ≤ 512

/-- The well-formed instructions. -/
def Instr.wf : Instr → Bool
  | .cmp _ cc _ _ _ | .cmpi _ cc _ _ _ => cc.code ≤ 9
  | .segget _ d _ | .mpop _ d | .mpeek _ d => pairOk d
  | .vadd _ _ _ _ _ f _ | .vsub _ _ _ _ _ f _ | .vmul _ _ _ _ _ f _ | .vdiv _ _ _ _ _ f _ => f.isWide
  | .vfma _ _ _ _ _ _ f _ | .vfms _ _ _ _ _ _ f _ | .vfnma _ _ _ _ _ _ f _ => f.isWide
  | .vsqrt _ _ _ _ f _ | .vrcp _ _ _ _ f _ | .vrsq _ _ _ _ f _ | .vexp2 _ _ _ _ f _ | .vlog2 _ _ _ _ f _ =>
    f.isWide
  | .vmin _ _ _ _ _ f | .vmax _ _ _ _ _ f | .vcpys _ _ _ _ _ f => f.isWide
  | .vabs _ _ _ _ f | .vneg _ _ _ _ f => f.isWide
  | .vcmp _ cc _ _ _ _ f => cc.okFor f
  | .vclass _ _ _ _ _ f => f.isFloat && notE2m1 f
  | .viadd _ _ _ _ _ f _ | .visub _ _ _ _ _ f _ | .vimul _ _ _ _ _ f _ => f.isInt
  | .vimulh _ _ _ _ _ f | .vimin _ _ _ _ _ f | .vimax _ _ _ _ _ f => f.isInt
  | .viabs _ _ _ _ f _ => f.isSigned
  | .vshl _ _ _ _ _ f | .vshr _ _ _ _ _ f | .vsra _ _ _ _ _ f | .vand _ _ _ _ _ f | .vor _ _ _ _ _ f
  | .vxor _ _ _ _ _ f | .vandn _ _ _ _ _ f => f.isInt
  | .vpopc _ _ _ _ f => f.isInt
  | .vcvt _ _ _ _ dst src r opt => convOptOk dst src opt && convRndOk dst src r
  | .vpack _ _ _ _ _ dst src r opt =>
    src.width == 2 * dst.width && (src.isFloat == dst.isFloat) && convOptOk dst src opt && convRndOk dst src r
  | .vunpk _ d _ _ dst src => unpackPair dst src && d.val % 2 == 0
  | .vmov _ d a _ _ n => groupAligned d.val n && groupAligned a.val n
  | .vins _ _ _ f j | .vext _ _ _ f j => j.toNat < f.lanes
  | .vperm _ _ _ _ _ f | .vshuf _ _ _ _ _ _ f => notE2m1 f
  | .vrot _ _ _ _ f _ => notE2m1 f
  | .vcomp _ _ _ _ f | .vexpd _ _ _ _ f => notE2m1 f
  | .vred _ op _ _ _ f r sat | .vscan _ op _ _ _ f r sat => redOk op f r sat
  | .viota _ _ _ f => f.isInt
  | .vdot _ _ _ _ _ acc inp r => dotPair acc inp && (acc.isFloat || r == .rne)
  | .vhash _ _ _ _ f _ => f == .i64 || f == .i32 || f == .n64 || f == .n32
  | .mma _ _ _ _ _ f | .mmaz _ _ _ _ _ f => mmaFmt f
  | .tcfg _ _ f rows cols => tcfgOk f rows cols
  | .tadd _ _ _ _ f r => taddOk f r
  | .tscale _ _ _ _ _ f => f.isWide
  | .ld _ _ _ _ sz sgn _ | .rld _ _ _ _ sz sgn _ => !(sgn && sz.val == 3)
  | .ldv _ d _ _ _ _ n _ | .stv _ d _ _ _ _ n _ => groupAligned d.val n
  | .stnb _ _ _ _ hi nidx | .rstnb _ _ _ _ hi nidx => !(hi && nidx)
  | .copy _ _ q | .gath _ _ q | .scat _ _ q | .iload _ _ q => q.val != 0
  | .qpush _ q _ prio => q.val == 0 || prio.val == 0
  | .trig _ _ n => n.toNat != 0
  | .launch f | .memrd f | .memwr f | .attest f | .bind f | .unbind f | .destroy f | .reset f | .topen f | .tclose f
  | .trdptr f | .hostresp f | .cancel f | .flightrd f | .slicecfg f | .dirty f | .dsnap f | .slicestop f
  | .sliceload f | .slicerun f | .sliceclear f | .digest f | .healthcfg f | .healthrd f | .heartbeat f | .restore f
  | .image f => f.wf
  | _ => true

end Sys2Proof
end

