-- ==== Sys2Proof/Decode.lean ====
section
/-!
DEFINITION. The decoder of bundles, slots and frames, total on any bits, and the encoder written from the same tables
(R216 to R231, Tables 10-1 to 10-7, R410, R413). A slot is cut into its fields, high to low, as Table 10-2 lists them.
-/
namespace Sys2Proof

/-! ## Fields -/

/-- Cut a word into fields of the given widths, the highest field first. -/
def unpack : List Nat → Nat → List Nat
  | [], _ => []
  | w :: ws, n => n / 2 ^ ws.sum % 2 ^ w :: unpack ws n

/-- Join fields, the highest first, each with its width. -/
def pack : List (Nat × Nat) → Nat
  | [] => 0
  | (w, v) :: fs => v % 2 ^ w * 2 ^ (fs.map (·.1)).sum + pack fs

/-- Table 10-2, S: NEG PRED OP D A B IMM. -/
def sWidths : List Nat := [1, 4, 8, 5, 5, 5, 20]
/-- Table 10-2, V: NEG PRED OP VD VA VB VC K FMT RND AUX. -/
def vWidths : List Nat := [1, 4, 8, 5, 5, 5, 5, 3, 4, 3, 5]
/-- Table 10-2, M: NEG PRED OP TD TA TB G FMT AUX. -/
def mWidths : List Nat := [1, 4, 5, 4, 4, 4, 3, 4, 3]
/-- Table 10-2, L: NEG PRED OP DC D A SEG X IMM16 SZ/FL. -/
def lWidths : List Nat := [1, 4, 8, 1, 5, 5, 3, 5, 16, 8]
/-- Table 10-2, X: NEG PRED OP D A B IMM14. -/
def xWidths : List Nat := [1, 4, 6, 5, 5, 5, 14]

def mkGuard (neg pred : Nat) : Guard := ⟨neg == 1, Fin.ofNat 16 pred⟩

/-- A decoded form stands when its RSVD fields are zero and no rule refuses it (R228). -/
def accept (c : Bool) (i : Instr) : Option Instr := if c && i.wf then some i else none

/-- A signed extendable immediate of w bits held at w + 16 bits (R221). -/
def immS (w : Nat) (field : Nat) (ext : Option Nat) : BitVec (w + 16) :=
  match ext with
  | none => (BitVec.ofNat w field).signExtend (w + 16)
  | some e => BitVec.ofNat (w + 16) (e * 2 ^ w + field)

/-- An unsigned extendable immediate (R221). -/
def immN (w : Nat) (field : Nat) (ext : Option Nat) : BitVec (w + 16) :=
  match ext with
  | none => BitVec.ofNat (w + 16) field
  | some e => BitVec.ofNat (w + 16) (e * 2 ^ w + field)

/-- The field and EXT of a signed immediate: EXT stands exactly when the value does not fit the field (R211, R221). -/
def splitS (w : Nat) (v : BitVec (w + 16)) : Nat × Option Nat :=
  if (BitVec.ofNat w v.toNat).signExtend (w + 16) = v then (v.toNat % 2 ^ w, none)
  else (v.toNat % 2 ^ w, some (v.toNat / 2 ^ w))

def splitN (w : Nat) (v : BitVec (w + 16)) : Nat × Option Nat :=
  if v.toNat < 2 ^ w then (v.toNat, none) else (v.toNat % 2 ^ w, some (v.toNat / 2 ^ w))

/-! ## The S slot (Table 10-4) -/

/-- The S slot's fields to an instruction; ext is EXT when EXTSEL names the slot. -/
def decodeSFields (g : Guard) (op d a b imm : Nat) (ext : Option Nat) : Option Instr :=
  let sd := Fin.ofNat 32 d
  let sa := Fin.ofNat 32 a
  let sb := Fin.ofNat 32 b
  let pd := Fin.ofNat 16 d
  let pa := Fin.ofNat 16 a
  let pb := Fin.ofNat 16 b
  let ne := ext.isNone
  let r3 (i : Instr) := accept (ne && imm == 0) i
  let r2 (i : Instr) := accept (ne && imm == 0 && b == 0) i
  let c16 := Fin.ofNat 16 imm
  match op with
  | 0x01 => r3 (.add g sd sa sb)
  | 0x02 => r3 (.sub g sd sa sb)
  | 0x03 => r3 (.mul g sd sa sb)
  | 0x04 => r3 (.mulh g sd sa sb)
  | 0x05 => r3 (.mulhn g sd sa sb)
  | 0x06 => r3 (.div g sd sa sb)
  | 0x07 => r3 (.divn g sd sa sb)
  | 0x08 => r3 (.rem g sd sa sb)
  | 0x09 => r3 (.remn g sd sa sb)
  | 0x0A => r3 (.and g sd sa sb)
  | 0x0B => r3 (.or g sd sa sb)
  | 0x0C => r3 (.xor g sd sa sb)
  | 0x0D => r3 (.andn g sd sa sb)
  | 0x0E => r3 (.orn g sd sa sb)
  | 0x10 => r3 (.shl g sd sa sb)
  | 0x11 => r3 (.shr g sd sa sb)
  | 0x12 => r3 (.sra g sd sa sb)
  | 0x13 => r3 (.rol g sd sa sb)
  | 0x14 => r3 (.min g sd sa sb)
  | 0x15 => r3 (.max g sd sa sb)
  | 0x16 => r3 (.minn g sd sa sb)
  | 0x17 => r3 (.maxn g sd sa sb)
  | 0x18 => r3 (.bext g sd sa sb)
  | 0x19 => r3 (.bdep g sd sa sb)
  | 0x1A => (Cond.ofCode (imm % 16)).bind fun cc => accept (ne && imm < 16 && d < 16) (.cmp g cc pd sa sb)
  | 0x1B => accept (ne && imm < 16) (.sel g sd c16 sa sb)
  | 0x1C => accept ne (.lea g sd sa sb (Fin.ofNat 8 (imm / 2 ^ 17)) (BitVec.ofNat 17 imm))
  | 0x20 => r2 (.clz g sd sa)
  | 0x21 => r2 (.ctz g sd sa)
  | 0x22 => r2 (.popc g sd sa)
  | 0x23 => r2 (.brev g sd sa)
  | 0x30 => accept (b == 0) (.addi g sd sa (immS 20 imm ext))
  | 0x31 => accept (b == 0) (.andi g sd sa (immN 20 imm ext))
  | 0x32 => accept (b == 0) (.ori g sd sa (immN 20 imm ext))
  | 0x33 => accept (b == 0) (.xori g sd sa (immN 20 imm ext))
  | 0x34 => accept (ne && b == 0 && imm < 64) (.shli g sd sa (Fin.ofNat 64 imm))
  | 0x35 => accept (ne && b == 0 && imm < 64) (.shri g sd sa (Fin.ofNat 64 imm))
  | 0x36 => accept (ne && b == 0 && imm < 64) (.srai g sd sa (Fin.ofNat 64 imm))
  | 0x37 => (Cond.ofCode (b % 16)).bind fun cc => accept (b < 16 && d < 16) (.cmpi g cc pd sa (immS 20 imm ext))
  | 0x38 => accept (a == 0 && b == 0) (.li g sd (immS 20 imm ext))
  | 0x39 => accept (b == 0 && (immN 20 imm ext).toNat < 2 ^ 32) (.lih g sd sa (BitVec.ofNat 32 (immN 20 imm ext).toNat))
  | 0x40 => accept (ne && imm == 0 && d < 16 && a < 16 && b < 16) (.pand g pd pa pb)
  | 0x41 => accept (ne && imm == 0 && d < 16 && a < 16 && b < 16) (.por g pd pa pb)
  | 0x42 => accept (ne && imm == 0 && d < 16 && a < 16 && b < 16) (.pxor g pd pa pb)
  | 0x43 => accept (ne && imm == 0 && d < 16 && a < 16 && b == 0) (.pnot g pd pa)
  | 0x44 => accept (ne && imm < 2 && d < 16 && a == 0 && b == 0) (.pset g pd (imm == 1))
  | 0x50 => accept (d == 0 && a == 0 && b == 0) (.br g (immS 20 imm ext))
  | 0x51 => accept (ne && d == 0 && a == 0 && b == 0 && imm < 4096) (.jmp g (BitVec.ofNat 12 imm))
  | 0x52 => accept (ne && d == 0 && b == 0 && imm == 0) (.jr g sa)
  | 0x53 => accept (ne && d == 0 && a == 0 && b == 0 && imm < 4096) (.call g (BitVec.ofNat 12 imm))
  | 0x54 => accept (ne && d == 0 && b == 0 && imm == 0) (.callr g sa)
  | 0x55 => accept (ne && d == 0 && a == 0 && b == 0 && imm == 0) (.ret g)
  | 0x58 => accept (d == 0 && a == 0 && b == 0) (.loop g (immS 20 imm ext))
  | 0x59 => accept (ne && d == 0 && b == 0 && imm < 256) (.lset g sa (BitVec.ofNat 8 imm))
  | 0x60 => accept (ne && b == 0 && imm / 8 % 32 == 0)
      (.spawn g sd sa (BitVec.ofNat 12 (imm / 256)) (Fin.ofNat 8 imm))
  | 0x61 => accept (ne && d == 0 && a == 0 && b == 0 && imm == 0) (.halt g)
  | 0x62 => accept (d == 0 && a == 0 && b == 0) (.trap g (immN 20 imm ext))
  | 0x63 => accept (ne && d == 0 && a == 0 && b == 0 && imm == 0) (.eret g)
  | 0x64 => accept (ne && d == 0 && b == 0 && imm < 16) (.park g sa c16)
  | 0x68 => accept (ne && a == 0 && b == 0 && imm < 4096) (.mfc g sd (BitVec.ofNat 12 imm))
  | 0x69 => accept (ne && d == 0 && b == 0 && imm < 4096) (.mtc g (BitVec.ofNat 12 imm) sa)
  | 0x6A => accept (ne && a == 0 && b == 0 && imm < 16) (.mfs g sd c16)
  | 0x6B => accept (ne && d == 0 && b == 0 && imm < 16) (.mts g c16 sa)
  | 0x6C => accept (ne && d == 0 && imm < 8) (.segset g (Fin.ofNat 8 imm) sa sb)
  | 0x6D => accept (ne && a == 0 && b == 0 && imm < 8) (.segget g sd (Fin.ofNat 8 imm))
  | _ => none

/-! ## The V slot (Table 10-5) -/

/-- The V slot's fields to an instruction (Tables 10-5 and 12-1). -/
def decodeVFields (g : Guard) (op vd va vb vc k fmt rnd aux : Nat) (ext : Option Nat) : Option Instr :=
  let d := Fin.ofNat 32 vd
  let a := Fin.ofNat 32 va
  let b := Fin.ofNat 32 vb
  let c := Fin.ofNat 32 vc
  let kk := Fin.ofNat 8 k
  let kd := Fin.ofNat 8 vd
  let ka := Fin.ofNat 8 va
  let kb := Fin.ofNat 8 vb
  let ne := ext.isNone
  let j : BitVec 21 := immN 5 aux ext
  (Fmt.ofCode fmt).bind fun f => (Rnd.ofCode rnd).bind fun r =>
  let r0 := rnd == 0
  let bin (i : Instr) := accept (ne && vc == 0 && aux == 0) i
  let binN (i : Instr) := accept (ne && vc == 0 && r0 && aux == 0) i
  let un (i : Instr) := accept (ne && vb == 0 && vc == 0 && aux == 0) i
  let unN (i : Instr) := accept (ne && vb == 0 && vc == 0 && r0 && aux == 0) i
  let sat (i : Instr) := accept (ne && vc == 0 && r0 && aux < 2) i
  match op with
  | 0x01 => bin (.vadd g d a b kk f r)
  | 0x02 => bin (.vsub g d a b kk f r)
  | 0x03 => bin (.vmul g d a b kk f r)
  | 0x04 => accept (ne && aux == 0) (.vfma g d a b c kk f r)
  | 0x05 => accept (ne && aux == 0) (.vfms g d a b c kk f r)
  | 0x06 => accept (ne && aux == 0) (.vfnma g d a b c kk f r)
  | 0x07 => bin (.vdiv g d a b kk f r)
  | 0x08 => un (.vsqrt g d a kk f r)
  | 0x09 => un (.vrcp g d a kk f r)
  | 0x0A => un (.vrsq g d a kk f r)
  | 0x0B => binN (.vmin g d a b kk f)
  | 0x0C => binN (.vmax g d a b kk f)
  | 0x0D => unN (.vabs g d a kk f)
  | 0x0E => unN (.vneg g d a kk f)
  | 0x0F => binN (.vcpys g d a b kk f)
  | 0x10 => un (.vexp2 g d a kk f r)
  | 0x11 => un (.vlog2 g d a kk f r)
  | 0x12 => (Cond.ofCode aux).bind fun cc => accept (ne && vd < 8 && vc == 0 && r0) (.vcmp g cc kd a b kk f)
  | 0x13 => (VClass.ofCode aux).bind fun cl =>
      accept (ne && vd < 8 && vb == 0 && vc == 0 && r0) (.vclass g cl kd a kk f)
  | 0x20 => sat (.viadd g d a b kk f (aux == 1))
  | 0x21 => sat (.visub g d a b kk f (aux == 1))
  | 0x22 => sat (.vimul g d a b kk f (aux == 1))
  | 0x23 => binN (.vimulh g d a b kk f)
  | 0x24 => binN (.vimin g d a b kk f)
  | 0x25 => binN (.vimax g d a b kk f)
  | 0x26 => accept (ne && vb == 0 && vc == 0 && r0 && aux < 2) (.viabs g d a kk f (aux == 1))
  | 0x27 => binN (.vshl g d a b kk f)
  | 0x28 => binN (.vshr g d a b kk f)
  | 0x29 => binN (.vsra g d a b kk f)
  | 0x2A => binN (.vand g d a b kk f)
  | 0x2B => binN (.vor g d a b kk f)
  | 0x2C => binN (.vxor g d a b kk f)
  | 0x2D => binN (.vandn g d a b kk f)
  | 0x2E => unN (.vpopc g d a kk f)
  | 0x30 => (Fmt.ofCode (aux % 16)).bind fun s =>
      accept (ne && vb == 0 && vc == 0) (.vcvt g d a kk f s r (aux / 16 == 1))
  | 0x31 => (Fmt.ofCode (aux % 16)).bind fun s => accept (ne && vc == 0) (.vpack g d a b kk f s r (aux / 16 == 1))
  | 0x32 => (Fmt.ofCode (aux % 16)).bind fun s =>
      accept (ne && vb == 0 && vc == 0 && r0 && aux < 16) (.vunpk g d a kk f s)
  | 0x40 => (GroupSize.ofCode aux).bind fun n => accept (ne && vb == 0 && vc == 0 && r0) (.vmov g d a kk f n)
  | 0x41 => binN (.vsel g d a b kk f)
  | 0x42 => unN (.vbcast g d a kk f)
  | 0x43 => accept (vb == 0 && vc == 0 && k == 0 && r0) (.vins g d a f j)
  | 0x44 => accept (vb == 0 && vc == 0 && k == 0 && r0) (.vext g d a f j)
  | 0x45 => binN (.vperm g d a b kk f)
  | 0x46 => (ShufPat.ofCode aux).bind fun p => accept (ne && vc == 0 && r0) (.vshuf g p d a b kk f)
  | 0x47 => accept (vb == 0 && vc == 0 && r0) (.vrot g d a kk f j)
  | 0x48 => unN (.vcomp g d a kk f)
  | 0x49 => unN (.vexpd g d a kk f)
  | 0x50 => (RedOp.ofCode (aux % 8)).bind fun o =>
      accept (ne && vb == 0 && vc == 0 && aux < 16) (.vred g o d a kk f r (aux / 8 == 1))
  | 0x51 => (RedOp.ofCode (aux % 8)).bind fun o =>
      accept (ne && vb == 0 && vc == 0 && aux < 16) (.vscan g o d a kk f r (aux / 8 == 1))
  | 0x52 => accept (ne && va == 0 && vb == 0 && vc == 0 && r0 && aux == 0) (.viota g d kk f)
  | 0x53 => (Fmt.ofCode aux).bind fun s => accept (ne && vc == 0) (.vdot g d a b kk f s r)
  | 0x60 => accept (ne && vd < 8 && va < 8 && vb < 8 && vc == 0 && k == 0 && r0 && aux == 0) (.kand g kd ka kb f)
  | 0x61 => accept (ne && vd < 8 && va < 8 && vb < 8 && vc == 0 && k == 0 && r0 && aux == 0) (.kor g kd ka kb f)
  | 0x62 => accept (ne && vd < 8 && va < 8 && vb < 8 && vc == 0 && k == 0 && r0 && aux == 0) (.kxor g kd ka kb f)
  | 0x63 => accept (ne && vd < 8 && va < 8 && vb == 0 && vc == 0 && k == 0 && r0 && aux == 0) (.knot g kd ka f)
  | 0x64 => accept (ne && vd < 8 && va < 8 && vb == 0 && vc == 0 && k == 0 && r0 && aux == 0) (.kmov g kd ka f)
  | 0x65 => accept (ne && va < 8 && vb == 0 && vc == 0 && k == 0 && r0 && aux == 0) (.kpopc g d ka f)
  | 0x70 => accept (ne && vb == 0 && vc == 0 && r0) (.vhash g d a kk f (Fin.ofNat 32 aux))
  | _ => none

/-! ## The M slot (Table 10-6a) -/

/-- The M slot's fields to an instruction (Tables 10-6a and 13-1). -/
def decodeMFields (g : Guard) (op td ta tb grp fmt aux : Nat) (ext : Option Nat) : Option Instr :=
  let d := Fin.ofNat 16 td
  let a := Fin.ofNat 16 ta
  let b := Fin.ofNat 16 tb
  let n := Fin.ofNat 8 grp
  let vn := Fin.ofNat 32 (tb * 16 + ta)
  let ne := ext.isNone
  match op with
  | 0x01 => (Fmt.ofCode fmt).bind fun f => accept (ne && aux == 0) (.mma g d a b n f)
  | 0x02 => (Fmt.ofCode fmt).bind fun f => accept (ne && aux == 0) (.mmaz g d a b n f)
  | 0x03 => accept (ne && ta == 0 && tb == 0 && grp == 0 && fmt == 0 && aux == 0) (.tzero g d)
  | 0x04 => (Fmt.ofCode fmt).bind fun f => ext.bind fun e =>
      let imm := e * 8 + aux
      accept (ta == 0 && tb == 0 && grp == 0 && imm < 65536)
        (.tcfg g d f (BitVec.ofNat 8 (imm / 256)) (BitVec.ofNat 8 imm))
  | 0x05 => accept (ne && tb == 0 && grp == 0 && fmt == 0 && aux == 0) (.tmov g d a)
  | 0x06 => accept (ne && tb == 0 && grp == 0 && fmt == 0 && aux == 0) (.ttrn g d a)
  | 0x07 => (Fmt.ofCode fmt).bind fun f => (Rnd.ofCode aux).bind fun r =>
      accept (ne && tb == 0 && grp == 0) (.tcvt g d a f r)
  | 0x08 => (Fmt.ofCode fmt).bind fun f => (Rnd.ofCode aux).bind fun r =>
      accept (ne && grp == 0) (.tadd g d a b f r)
  | 0x09 => accept (ne && tb < 2 && fmt == 0 && aux == 0) (.trowi g d vn n)
  | 0x0A => accept (ne && td == 0 && tb < 2 && aux == 0) (.trowx g vn (Fin.ofNat 16 fmt) n)
  | 0x0B => accept (ne && ta == 0 && tb == 0 && grp == 0 && fmt == 0 && aux == 0) (.tinv g d)
  | 0x0C => (Fmt.ofCode fmt).bind fun f => (ScaleMode.ofCode aux).bind fun md =>
      accept (ne && grp == 0) (.tscale g md d a b f)
  | _ => none

/-! ## The L slot (Table 10-6) -/

/-- The L slot's fields to an instruction (Tables 10-6 and 14-1). -/
def decodeLFields (g : Guard) (op dc d a seg x imm sz : Nat) (ext : Option Nat) : Option Instr :=
  let sd := Fin.ofNat 32 d
  let sx := Fin.ofNat 32 x
  let m : MemOp := ⟨Fin.ofNat 32 a, Fin.ofNat 8 seg, immS 16 imm ext⟩
  let ne := ext.isNone
  let c0 := dc == 0
  let c1 := dc == 1
  let b0 := sz % 2 == 1
  let b1 := sz / 2 % 2 == 1
  let b2 := sz / 4 % 2 == 1
  let b3 := sz / 8 % 2 == 1
  let sz2 := Fin.ofNat 4 sz
  let lw := Fin.ofNat 4 (sz / 8)
  let k := Fin.ofNat 8 (sz / 32)
  let w64 := sz % 2 == 1
  let eng (i : Instr) :=
    accept (ne && c1 && d < 16 && a % 4 == 0 && seg == 0 && x == 0 && imm == 0 && sz == 0) i
  let q := Fin.ofNat 8 (a / 4)
  let nomem := ne && a == 0 && seg == 0 && x == 0 && imm == 0
  match op with
  | 0x01 => accept (c0 && sz < 16) (.ld g sd m sx sz2 b2 b3)
  | 0x02 => accept (c0 && sz < 16 && !b2) (.st g sd m sx sz2 b3)
  | 0x03 => (GroupSize.ofCode (sz / 2 % 4)).bind fun n => accept c1 (.ldv g sd m sx k lw n b0)
  | 0x04 => (GroupSize.ofCode (sz / 2 % 4)).bind fun n => accept c1 (.stv g sd m sx k lw n b0)
  | 0x05 => accept (c1 && sz % 4 == 0) (.ldvg g sd m sx k lw b2)
  | 0x06 => accept (c1 && sz % 4 == 0) (.stvs g sd m sx k lw b2)
  | 0x07 => accept (c1 && d < 16 && sz < 2) (.ldt g (Fin.ofNat 16 d) m sx b0)
  | 0x08 => accept (c1 && d < 16 && sz < 2) (.stt g (Fin.ofNat 16 d) m sx b0)
  | 0x09 => accept (c0 && sz < 4) (.stnb g sd m sx b0 b1)
  | 0x10 => accept (c0 && sz < 16) (.rld g sd m sx sz2 b2 b3)
  | 0x11 => accept (c0 && sz < 16 && !b2) (.rst g sd m sx sz2 b3)
  | 0x12 => accept (c0 && sz < 4) (.rstnb g sd m sx b0 b1)
  | 0x13 => (AtomicOp.ofCode (sz % 16)).bind fun o =>
      accept (c0 && (sz / 16 == 2 || sz / 16 == 3)) (.raop g o sd m sx (sz / 16 == 3))
  | 0x20 => accept (c0 && (sz == 2 || sz == 3)) (.aadd g sd m sx w64)
  | 0x21 => accept (c0 && (sz == 2 || sz == 3)) (.amin g sd m sx w64)
  | 0x22 => accept (c0 && (sz == 2 || sz == 3)) (.amax g sd m sx w64)
  | 0x23 => accept (c0 && (sz == 2 || sz == 3)) (.aminn g sd m sx w64)
  | 0x24 => accept (c0 && (sz == 2 || sz == 3)) (.amaxn g sd m sx w64)
  | 0x25 => accept (c0 && (sz == 2 || sz == 3)) (.aand g sd m sx w64)
  | 0x26 => accept (c0 && (sz == 2 || sz == 3)) (.aor g sd m sx w64)
  | 0x27 => accept (c0 && (sz == 2 || sz == 3)) (.axor g sd m sx w64)
  | 0x28 => accept (c0 && (sz == 2 || sz == 3)) (.aswap g sd m sx w64)
  | 0x29 => accept (c0 && (sz == 2 || sz == 3)) (.acas g sd m sx w64)
  | 0x2A => accept (c0 && (sz == 2 || sz == 3)) (.afadd g sd m sx w64)
  | 0x30 => accept (c0 && x == 0 && sz == 0) (.qrsv g sd m)
  | 0x31 => accept (c0 && x == 0 && sz == 0) (.qpub g sd m)
  | 0x32 => accept (c0 && x == 0 && sz == 0) (.qtake g sd m)
  | 0x33 => accept (c0 && x == 0 && sz == 0) (.depdec g sd m)
  | 0x40 => eng (.copy g (Fin.ofNat 16 d) q)
  | 0x41 => eng (.gath g (Fin.ofNat 16 d) q)
  | 0x42 => eng (.scat g (Fin.ofNat 16 d) q)
  | 0x43 => eng (.iload g (Fin.ofNat 16 d) q)
  | 0x50 => accept (c0 && sz == 0) (.boinit g sd m sx)
  | 0x51 => accept (c0 && sz == 0) (.boexp g sd m sx)
  | 0x52 => accept (c0 && d == 0 && x == 0 && sz == 0) (.boarr g m)
  | 0x53 => accept (c0 && d == 0 && sz == 0) (.bwait g m sx)
  | 0x54 => accept (c1 && d < 16 && sz == 0) (.btest g (Fin.ofNat 16 d) m sx)
  | 0x58 => accept (nomem && c0 && d == 0 && sz == 0) (.mwait g)
  | 0x59 => accept (nomem && c0 && sz == 0) (.mpop g sd)
  | 0x5A => accept (nomem && c0 && sz == 0) (.mpeek g sd)
  | 0x60 => (FenceScope.ofCode sz).bind fun sc => accept (nomem && c0 && d == 0) (.fence g sc)
  | 0x61 => accept (c0 && d == 0 && sz == 0) (.acsnap g m sx)
  | _ => none

/-! ## The X slot (Table 10-7) -/

/-- The tag of RECV and RECVT (Table 15-2). -/
def decodeTag (imm : Nat) : Option TagSel :=
  if imm / 2 ^ 13 = 0 then some (.imm (BitVec.ofNat 8 (imm / 32)) (BitVec.ofNat 5 imm))
  else if imm = 2 ^ 13 then some .reg else none

/-- The X slot's fields to an instruction (Tables 10-7, 15-1 and 15-2). -/
def decodeXFields (g : Guard) (op d a b imm : Nat) (ext : Option Nat) : Option Instr :=
  let sd := Fin.ofNat 32 d
  let sa := Fin.ofNat 32 a
  let sb := Fin.ofNat 32 b
  let pd := Fin.ofNat 16 d
  let ne := ext.isNone
  match op with
  | 0x01 => accept (ne && d == 0 && b == 0 && imm < 2 ^ 13)
      (.send g sa (BitVec.ofNat 8 (imm / 32)) (BitVec.ofNat 5 imm))
  | 0x02 => (decodeTag imm).bind fun t => accept (ne && a == 0 && b == 0) (.recv g sd t)
  | 0x03 => (decodeTag imm).bind fun t => accept (ne && b < 16) (.recvt g sd sa (Fin.ofNat 16 b) t)
  | 0x04 => (WireScope.ofCode imm).bind fun s => accept (ne && d == 0 && a == 0 && b == 0) (.barw g s)
  | 0x05 => (WireScope.ofCode (imm % 4)).bind fun s => (WireOp.ofCode (imm / 4)).bind fun o =>
      accept (ne && b == 0) (.barwr g o s sd sa)
  | 0x06 => (TampScope.ofCode b).bind fun s => accept (d == 0) (.tamp g s sa (immS 14 imm ext))
  | 0x07 => (Counter.ofCode b).bind fun c => accept (d < 16) (.waitt g c pd sa (immS 14 imm ext))
  | 0x08 =>
      if imm / 2 ^ 13 = 1 then accept (ne && d == 0)
        (.wsend g sa sb (BitVec.ofNat 8 imm) (some (BitVec.ofNat 5 (imm / 256))))
      else accept (ne && d == 0 && imm < 256) (.wsend g sa sb (BitVec.ofNat 8 imm) none)
  | 0x09 => accept (ne && d == 0) (.amsg g sa sb (BitVec.ofNat 14 imm))
  | 0x0A => accept (ne && d == 0 && a < 8 && imm < 8) (.qpush g (Fin.ofNat 8 a) sb (Fin.ofNat 8 imm))
  | 0x0B => accept (ne && a < 8 && b == 0 && imm < 2) (.qpop g sd (Fin.ofNat 8 a) (imm == 1))
  | 0x0C => accept (ne && d < 16 && b == 0 && imm == 0) (.carm g pd sa)
  | 0x0D => accept (ne && d == 0 && imm == 0) (.cfire g sa sb)
  | 0x0E => accept (ne && d == 0 && b == 0 && imm < 256) (.trig g sa (BitVec.ofNat 8 imm))
  | _ => none

/-! ## Slots and bundles -/

/-- The S slot: all zero is NOP; opcode 0 with another field nonzero, or an EXT, is refused (R228, R221). -/
def decodeS (w : BitVec 48) (ext : Option (BitVec 16)) : Option Instr :=
  if w.toNat = 0 then (if ext.isNone then some .nop else none)
  else match unpack sWidths w.toNat with
    | [n, p, op, d, a, b, imm] => decodeSFields (mkGuard n p) op d a b imm (ext.map BitVec.toNat)
    | _ => none

def decodeV (w : BitVec 48) (ext : Option (BitVec 16)) : Option Instr :=
  if w.toNat = 0 then (if ext.isNone then some .nop else none)
  else match unpack vWidths w.toNat with
    | [n, p, op, d, a, b, c, k, f, r, x] => decodeVFields (mkGuard n p) op d a b c k f r x (ext.map BitVec.toNat)
    | _ => none

def decodeM (w : BitVec 32) (ext : Option (BitVec 16)) : Option Instr :=
  if w.toNat = 0 then (if ext.isNone then some .nop else none)
  else match unpack mWidths w.toNat with
    | [n, p, op, d, a, b, c, f, x] => decodeMFields (mkGuard n p) op d a b c f x (ext.map BitVec.toNat)
    | _ => none

def decodeL (w : BitVec 56) (ext : Option (BitVec 16)) : Option Instr :=
  if w.toNat = 0 then (if ext.isNone then some .nop else none)
  else match unpack lWidths w.toNat with
    | [n, p, op, dc, d, a, s, x, i, z] => decodeLFields (mkGuard n p) op dc d a s x i z (ext.map BitVec.toNat)
    | _ => none

def decodeX (w : BitVec 40) (ext : Option (BitVec 16)) : Option Instr :=
  if w.toNat = 0 then (if ext.isNone then some .nop else none)
  else match unpack xWidths w.toNat with
    | [n, p, op, d, a, b, imm] => decodeXFields (mkGuard n p) op d a b imm (ext.map BitVec.toNat)
    | _ => none

/-- A wait instruction of Table 2-4. -/
def Instr.isWait : Instr → Bool
  | .bwait .. | .mwait .. | .qtake .. | .recv .. | .recvt .. | .barw .. | .barwr .. | .tamp .. | .waitt .. | .park .. => true
  | _ => false

/-- The bundle's fields (Table 10-1). -/
def bundleFields (w : BitVec 256) : List Nat := unpack [1, 3, 4, 4, 4, 48, 48, 32, 56, 40, 16] w.toNat

/-- A bundle: every slot decodes, EXT is zero when EXTSEL is 0 (R221), EXTSEL is not 6 or 7, and at most one slot holds
a wait instruction (R331). -/
def decodeBundle (w : BitVec 256) : Option Bundle :=
  match bundleFields w with
  | [rp, sel, ds, dv, dl, fs, fv, fm, fl, fx, ext] =>
    if sel ≥ 6 || (sel == 0 && ext != 0) then none else
    let e (n : Nat) : Option (BitVec 16) := if sel = n then some (BitVec.ofNat 16 ext) else none
    (decodeS (BitVec.ofNat 48 fs) (e 1)).bind fun s =>
    (decodeV (BitVec.ofNat 48 fv) (e 2)).bind fun v =>
    (decodeM (BitVec.ofNat 32 fm) (e 3)).bind fun m =>
    (decodeL (BitVec.ofNat 56 fl) (e 4)).bind fun l =>
    (decodeX (BitVec.ofNat 40 fx) (e 5)).bind fun x =>
    if b2n s.isWait + b2n l.isWait + b2n x.isWait ≥ 2 then none else
    some ⟨rp == 1, BitVec.ofNat 4 ds, BitVec.ofNat 4 dv, BitVec.ofNat 4 dl, s, v, m, l, x⟩
  | _ => none

/-! ## The encoder -/

def gf (g : Guard) : List (Nat × Nat) := [(1, b2n g.neg), (4, g.pred.val)]

def sPack (g : Guard) (op d a b imm : Nat) : BitVec 48 :=
  BitVec.ofNat 48 (pack (gf g ++ [(8, op), (5, d), (5, a), (5, b), (20, imm)]))

def vPack (g : Guard) (op d a b c k fmt rnd aux : Nat) : BitVec 48 :=
  BitVec.ofNat 48 (pack (gf g ++ [(8, op), (5, d), (5, a), (5, b), (5, c), (3, k), (4, fmt), (3, rnd), (5, aux)]))

def mPack (g : Guard) (op d a b grp fmt aux : Nat) : BitVec 32 :=
  BitVec.ofNat 32 (pack (gf g ++ [(5, op), (4, d), (4, a), (4, b), (3, grp), (4, fmt), (3, aux)]))

def lPack (g : Guard) (op dc d a seg x imm sz : Nat) : BitVec 56 :=
  BitVec.ofNat 56 (pack (gf g ++ [(8, op), (1, dc), (5, d), (5, a), (3, seg), (5, x), (16, imm), (8, sz)]))

def xPack (g : Guard) (op d a b imm : Nat) : BitVec 40 :=
  BitVec.ofNat 40 (pack (gf g ++ [(6, op), (5, d), (5, a), (5, b), (14, imm)]))

def extOf (e : Option Nat) : Option (BitVec 16) := e.map (BitVec.ofNat 16)

/-- A form without EXT. -/
def bare {w : Nat} (x : BitVec w) : Option (BitVec w × Option (BitVec 16)) := some (x, none)

/-- The S-slot word and EXT of an instruction of the S slot, NOP being 0; none for any other. -/
def encodeS (i : Instr) : Option (BitVec 48 × Option (BitVec 16)) :=
  let r3 (op : Nat) (g : Guard) (d a b : SReg) := bare (sPack g op d.val a.val b.val 0)
  let r2 (op : Nat) (g : Guard) (d a : SReg) := bare (sPack g op d.val a.val 0 0)
  let is (op : Nat) (g : Guard) (d a b : Nat) (v : BitVec 36) :=
    some (sPack g op d a b (splitS 20 v).1, extOf (splitS 20 v).2)
  let iu (op : Nat) (g : Guard) (d a b : Nat) (v : BitVec 36) :=
    some (sPack g op d a b (splitN 20 v).1, extOf (splitN 20 v).2)
  match i with
  | .nop => some (0, none)
  | .add g d a b => r3 0x01 g d a b
  | .sub g d a b => r3 0x02 g d a b
  | .mul g d a b => r3 0x03 g d a b
  | .mulh g d a b => r3 0x04 g d a b
  | .mulhn g d a b => r3 0x05 g d a b
  | .div g d a b => r3 0x06 g d a b
  | .divn g d a b => r3 0x07 g d a b
  | .rem g d a b => r3 0x08 g d a b
  | .remn g d a b => r3 0x09 g d a b
  | .and g d a b => r3 0x0A g d a b
  | .or g d a b => r3 0x0B g d a b
  | .xor g d a b => r3 0x0C g d a b
  | .andn g d a b => r3 0x0D g d a b
  | .orn g d a b => r3 0x0E g d a b
  | .shl g d a b => r3 0x10 g d a b
  | .shr g d a b => r3 0x11 g d a b
  | .sra g d a b => r3 0x12 g d a b
  | .rol g d a b => r3 0x13 g d a b
  | .min g d a b => r3 0x14 g d a b
  | .max g d a b => r3 0x15 g d a b
  | .minn g d a b => r3 0x16 g d a b
  | .maxn g d a b => r3 0x17 g d a b
  | .bext g d a b => r3 0x18 g d a b
  | .bdep g d a b => r3 0x19 g d a b
  | .cmp g cc d a b => bare (sPack g 0x1A d.val a.val b.val cc.code)
  | .sel g d p a b => bare (sPack g 0x1B d.val a.val b.val p.val)
  | .lea g d a b sh off => bare (sPack g 0x1C d.val a.val b.val (sh.val * 2 ^ 17 + off.toNat))
  | .clz g d a => r2 0x20 g d a
  | .ctz g d a => r2 0x21 g d a
  | .popc g d a => r2 0x22 g d a
  | .brev g d a => r2 0x23 g d a
  | .addi g d a v => is 0x30 g d.val a.val 0 v
  | .andi g d a v => iu 0x31 g d.val a.val 0 v
  | .ori g d a v => iu 0x32 g d.val a.val 0 v
  | .xori g d a v => iu 0x33 g d.val a.val 0 v
  | .shli g d a n => bare (sPack g 0x34 d.val a.val 0 n.val)
  | .shri g d a n => bare (sPack g 0x35 d.val a.val 0 n.val)
  | .srai g d a n => bare (sPack g 0x36 d.val a.val 0 n.val)
  | .cmpi g cc d a v => is 0x37 g d.val a.val cc.code v
  | .li g d v => is 0x38 g d.val 0 0 v
  | .lih g d a v => iu 0x39 g d.val a.val 0 (v.zeroExtend 36)
  | .pand g d a b => bare (sPack g 0x40 d.val a.val b.val 0)
  | .por g d a b => bare (sPack g 0x41 d.val a.val b.val 0)
  | .pxor g d a b => bare (sPack g 0x42 d.val a.val b.val 0)
  | .pnot g d a => bare (sPack g 0x43 d.val a.val 0 0)
  | .pset g d v => bare (sPack g 0x44 d.val 0 0 (b2n v))
  | .br g v => is 0x50 g 0 0 0 v
  | .jmp g t => bare (sPack g 0x51 0 0 0 t.toNat)
  | .jr g a => bare (sPack g 0x52 0 a.val 0 0)
  | .call g t => bare (sPack g 0x53 0 0 0 t.toNat)
  | .callr g a => bare (sPack g 0x54 0 a.val 0 0)
  | .ret g => bare (sPack g 0x55 0 0 0 0)
  | .loop g v => is 0x58 g 0 0 0 v
  | .lset g a ec => bare (sPack g 0x59 0 a.val 0 ec.toNat)
  | .spawn g d a entry u => bare (sPack g 0x60 d.val a.val 0 (entry.toNat * 256 + u.val))
  | .halt g => bare (sPack g 0x61 0 0 0 0)
  | .trap g v => iu 0x62 g 0 0 0 v
  | .eret g => bare (sPack g 0x63 0 0 0 0)
  | .park g a c => bare (sPack g 0x64 0 a.val 0 c.val)
  | .mfc g d n => bare (sPack g 0x68 d.val 0 0 n.toNat)
  | .mtc g n a => bare (sPack g 0x69 0 a.val 0 n.toNat)
  | .mfs g d c => bare (sPack g 0x6A d.val 0 0 c.val)
  | .mts g c a => bare (sPack g 0x6B 0 a.val 0 c.val)
  | .segset g n a b => bare (sPack g 0x6C 0 a.val b.val n.val)
  | .segget g d n => bare (sPack g 0x6D d.val 0 0 n.val)
  | _ => none

/-- The V-slot word and EXT of an instruction of the V slot. -/
def encodeV (i : Instr) : Option (BitVec 48 × Option (BitVec 16)) :=
  let bin (op : Nat) (g : Guard) (d a b : VReg) (k : KReg) (f : Fmt) (r aux : Nat) :=
    bare (vPack g op d.val a.val b.val 0 k.val f.code r aux)
  let un (op : Nat) (g : Guard) (d a : VReg) (k : KReg) (f : Fmt) (r aux : Nat) :=
    bare (vPack g op d.val a.val 0 0 k.val f.code r aux)
  let tri (op : Nat) (g : Guard) (d a b c : VReg) (k : KReg) (f : Fmt) (r : Rnd) :=
    bare (vPack g op d.val a.val b.val c.val k.val f.code r.code 0)
  let ix (op : Nat) (g : Guard) (d a k : Nat) (f : Fmt) (j : BitVec 21) :=
    some (vPack g op d a 0 0 k f.code 0 (splitN 5 j).1, extOf (splitN 5 j).2)
  let km (op : Nat) (g : Guard) (d a b : Nat) (f : Fmt) := bare (vPack g op d a b 0 0 f.code 0 0)
  match i with
  | .nop => some (0, none)
  | .vadd g d a b k f r => bin 0x01 g d a b k f r.code 0
  | .vsub g d a b k f r => bin 0x02 g d a b k f r.code 0
  | .vmul g d a b k f r => bin 0x03 g d a b k f r.code 0
  | .vfma g d a b c k f r => tri 0x04 g d a b c k f r
  | .vfms g d a b c k f r => tri 0x05 g d a b c k f r
  | .vfnma g d a b c k f r => tri 0x06 g d a b c k f r
  | .vdiv g d a b k f r => bin 0x07 g d a b k f r.code 0
  | .vsqrt g d a k f r => un 0x08 g d a k f r.code 0
  | .vrcp g d a k f r => un 0x09 g d a k f r.code 0
  | .vrsq g d a k f r => un 0x0A g d a k f r.code 0
  | .vmin g d a b k f => bin 0x0B g d a b k f 0 0
  | .vmax g d a b k f => bin 0x0C g d a b k f 0 0
  | .vabs g d a k f => un 0x0D g d a k f 0 0
  | .vneg g d a k f => un 0x0E g d a k f 0 0
  | .vcpys g d a b k f => bin 0x0F g d a b k f 0 0
  | .vexp2 g d a k f r => un 0x10 g d a k f r.code 0
  | .vlog2 g d a k f r => un 0x11 g d a k f r.code 0
  | .vcmp g cc d a b k f => bare (vPack g 0x12 d.val a.val b.val 0 k.val f.code 0 cc.code)
  | .vclass g c d a k f => bare (vPack g 0x13 d.val a.val 0 0 k.val f.code 0 c.code)
  | .viadd g d a b k f s => bin 0x20 g d a b k f 0 (b2n s)
  | .visub g d a b k f s => bin 0x21 g d a b k f 0 (b2n s)
  | .vimul g d a b k f s => bin 0x22 g d a b k f 0 (b2n s)
  | .vimulh g d a b k f => bin 0x23 g d a b k f 0 0
  | .vimin g d a b k f => bin 0x24 g d a b k f 0 0
  | .vimax g d a b k f => bin 0x25 g d a b k f 0 0
  | .viabs g d a k f s => un 0x26 g d a k f 0 (b2n s)
  | .vshl g d a b k f => bin 0x27 g d a b k f 0 0
  | .vshr g d a b k f => bin 0x28 g d a b k f 0 0
  | .vsra g d a b k f => bin 0x29 g d a b k f 0 0
  | .vand g d a b k f => bin 0x2A g d a b k f 0 0
  | .vor g d a b k f => bin 0x2B g d a b k f 0 0
  | .vxor g d a b k f => bin 0x2C g d a b k f 0 0
  | .vandn g d a b k f => bin 0x2D g d a b k f 0 0
  | .vpopc g d a k f => un 0x2E g d a k f 0 0
  | .vcvt g d a k dst src r o => un 0x30 g d a k dst r.code (b2n o * 16 + src.code)
  | .vpack g d a b k dst src r o => bin 0x31 g d a b k dst r.code (b2n o * 16 + src.code)
  | .vunpk g d a k dst src => un 0x32 g d a k dst 0 src.code
  | .vmov g d a k f n => un 0x40 g d a k f 0 n.code
  | .vsel g d a b k f => bin 0x41 g d a b k f 0 0
  | .vbcast g d a k f => un 0x42 g d a k f 0 0
  | .vins g d a f j => ix 0x43 g d.val a.val 0 f j
  | .vext g d a f j => ix 0x44 g d.val a.val 0 f j
  | .vperm g d a b k f => bin 0x45 g d a b k f 0 0
  | .vshuf g p d a b k f => bin 0x46 g d a b k f 0 p.code
  | .vrot g d a k f j => ix 0x47 g d.val a.val k.val f j
  | .vcomp g d a k f => un 0x48 g d a k f 0 0
  | .vexpd g d a k f => un 0x49 g d a k f 0 0
  | .vred g o d a k f r s => un 0x50 g d a k f r.code (b2n s * 8 + o.code)
  | .vscan g o d a k f r s => un 0x51 g d a k f r.code (b2n s * 8 + o.code)
  | .viota g d k f => bare (vPack g 0x52 d.val 0 0 0 k.val f.code 0 0)
  | .vdot g d a b k acc inp r => bin 0x53 g d a b k acc r.code inp.code
  | .kand g d a b f => km 0x60 g d.val a.val b.val f
  | .kor g d a b f => km 0x61 g d.val a.val b.val f
  | .kxor g d a b f => km 0x62 g d.val a.val b.val f
  | .knot g d a f => km 0x63 g d.val a.val 0 f
  | .kmov g d a f => km 0x64 g d.val a.val 0 f
  | .kpopc g d a f => km 0x65 g d.val a.val 0 f
  | .vhash g d a k f b => un 0x70 g d a k f 0 b.val
  | _ => none

/-- The M-slot word and EXT of an instruction of the M slot. -/
def encodeM (i : Instr) : Option (BitVec 32 × Option (BitVec 16)) :=
  match i with
  | .nop => some (0, none)
  | .mma g d a b n f => bare (mPack g 0x01 d.val a.val b.val n.val f.code 0)
  | .mmaz g d a b n f => bare (mPack g 0x02 d.val a.val b.val n.val f.code 0)
  | .tzero g d => bare (mPack g 0x03 d.val 0 0 0 0 0)
  | .tcfg g d f rows cols =>
    let imm := rows.toNat * 256 + cols.toNat
    some (mPack g 0x04 d.val 0 0 0 f.code (imm % 8), some (BitVec.ofNat 16 (imm / 8)))
  | .tmov g d a => bare (mPack g 0x05 d.val a.val 0 0 0 0)
  | .ttrn g d a => bare (mPack g 0x06 d.val a.val 0 0 0 0)
  | .tcvt g d a f r => bare (mPack g 0x07 d.val a.val 0 0 f.code r.code)
  | .tadd g d a b f r => bare (mPack g 0x08 d.val a.val b.val 0 f.code r.code)
  | .trowi g d v n => bare (mPack g 0x09 d.val (v.val % 16) (v.val / 16) n.val 0 0)
  | .trowx g v t n => bare (mPack g 0x0A 0 (v.val % 16) (v.val / 16) n.val t.val 0)
  | .tinv g d => bare (mPack g 0x0B d.val 0 0 0 0 0)
  | .tscale g md d a b f => bare (mPack g 0x0C d.val a.val b.val 0 f.code md.code)
  | _ => none

/-- The L-slot word and EXT of an instruction of the L slot. -/
def encodeL (i : Instr) : Option (BitVec 56 × Option (BitVec 16)) :=
  let mem (op dc : Nat) (g : Guard) (d : Nat) (m : MemOp) (x sz : Nat) :=
    some (lPack g op dc d m.base.val m.seg.val x (splitS 16 m.disp).1 sz, extOf (splitS 16 m.disp).2)
  let szf (sz : Fin 4) (sgn scl : Bool) := sz.val + b2n sgn * 4 + b2n scl * 8
  let vf (k : KReg) (lw : Fin 4) (n : GroupSize) (scl : Bool) := k.val * 32 + lw.val * 8 + n.code * 2 + b2n scl
  let vg (k : KReg) (lw : Fin 4) (scl : Bool) := k.val * 32 + lw.val * 8 + b2n scl * 4
  let at2 (op : Nat) (g : Guard) (d : SReg) (m : MemOp) (x : SReg) (w : Bool) := mem op 0 g d.val m x.val (2 + b2n w)
  let eng (op : Nat) (g : Guard) (d : PReg) (q : Fin 8) := bare (lPack g op 1 d.val (q.val * 4) 0 0 0 0)
  match i with
  | .nop => some (0, none)
  | .ld g d m x sz sgn scl => mem 0x01 0 g d.val m x.val (szf sz sgn scl)
  | .st g d m x sz scl => mem 0x02 0 g d.val m x.val (szf sz false scl)
  | .ldv g d m x k lw n scl => mem 0x03 1 g d.val m x.val (vf k lw n scl)
  | .stv g d m x k lw n scl => mem 0x04 1 g d.val m x.val (vf k lw n scl)
  | .ldvg g d m x k lw scl => mem 0x05 1 g d.val m x.val (vg k lw scl)
  | .stvs g d m x k lw scl => mem 0x06 1 g d.val m x.val (vg k lw scl)
  | .ldt g d m x scl => mem 0x07 1 g d.val m x.val (b2n scl)
  | .stt g d m x scl => mem 0x08 1 g d.val m x.val (b2n scl)
  | .stnb g d m x hi nidx => mem 0x09 0 g d.val m x.val (b2n hi + b2n nidx * 2)
  | .rld g d m x sz sgn scl => mem 0x10 0 g d.val m x.val (szf sz sgn scl)
  | .rst g d m x sz scl => mem 0x11 0 g d.val m x.val (szf sz false scl)
  | .rstnb g d m x hi nidx => mem 0x12 0 g d.val m x.val (b2n hi + b2n nidx * 2)
  | .raop g o d m x w => mem 0x13 0 g d.val m x.val ((2 + b2n w) * 16 + o.code)
  | .aadd g d m x w => at2 0x20 g d m x w
  | .amin g d m x w => at2 0x21 g d m x w
  | .amax g d m x w => at2 0x22 g d m x w
  | .aminn g d m x w => at2 0x23 g d m x w
  | .amaxn g d m x w => at2 0x24 g d m x w
  | .aand g d m x w => at2 0x25 g d m x w
  | .aor g d m x w => at2 0x26 g d m x w
  | .axor g d m x w => at2 0x27 g d m x w
  | .aswap g d m x w => at2 0x28 g d m x w
  | .acas g d m x w => at2 0x29 g d m x w
  | .afadd g d m x w => at2 0x2A g d m x w
  | .qrsv g d m => mem 0x30 0 g d.val m 0 0
  | .qpub g d m => mem 0x31 0 g d.val m 0 0
  | .qtake g d m => mem 0x32 0 g d.val m 0 0
  | .depdec g d m => mem 0x33 0 g d.val m 0 0
  | .copy g d q => eng 0x40 g d q
  | .gath g d q => eng 0x41 g d q
  | .scat g d q => eng 0x42 g d q
  | .iload g d q => eng 0x43 g d q
  | .boinit g d m x => mem 0x50 0 g d.val m x.val 0
  | .boexp g d m x => mem 0x51 0 g d.val m x.val 0
  | .boarr g m => mem 0x52 0 g 0 m 0 0
  | .bwait g m x => mem 0x53 0 g 0 m x.val 0
  | .btest g d m x => mem 0x54 1 g d.val m x.val 0
  | .mwait g => bare (lPack g 0x58 0 0 0 0 0 0 0)
  | .mpop g d => bare (lPack g 0x59 0 d.val 0 0 0 0 0)
  | .mpeek g d => bare (lPack g 0x5A 0 d.val 0 0 0 0 0)
  | .fence g sc => bare (lPack g 0x60 0 0 0 0 0 0 sc.code)
  | .acsnap g m x => mem 0x61 0 g 0 m x.val 0
  | _ => none

def encodeTag : TagSel → Nat
  | .imm s q => s.toNat * 32 + q.toNat
  | .reg => 2 ^ 13

/-- The X-slot word and EXT of an instruction of the X slot. -/
def encodeX (i : Instr) : Option (BitVec 40 × Option (BitVec 16)) :=
  match i with
  | .nop => some (0, none)
  | .send g a dst seq => bare (xPack g 0x01 0 a.val 0 (dst.toNat * 32 + seq.toNat))
  | .recv g d t => bare (xPack g 0x02 d.val 0 0 (encodeTag t))
  | .recvt g d a b t => bare (xPack g 0x03 d.val a.val b.val (encodeTag t))
  | .barw g s => bare (xPack g 0x04 0 0 0 s.code)
  | .barwr g o s d a => bare (xPack g 0x05 d.val a.val 0 (o.code * 4 + s.code))
  | .tamp g s a v => some (xPack g 0x06 0 a.val s.code (splitS 14 v).1, extOf (splitS 14 v).2)
  | .waitt g c d a v => some (xPack g 0x07 d.val a.val c.code (splitS 14 v).1, extOf (splitS 14 v).2)
  | .wsend g a b seq none => bare (xPack g 0x08 0 a.val b.val seq.toNat)
  | .wsend g a b seq (some nw) => bare (xPack g 0x08 0 a.val b.val (2 ^ 13 + nw.toNat * 256 + seq.toNat))
  | .amsg g a b t => bare (xPack g 0x09 0 a.val b.val t.toNat)
  | .qpush g q b p => bare (xPack g 0x0A 0 q.val b.val p.val)
  | .qpop g d q c => bare (xPack g 0x0B d.val q.val 0 (b2n c))
  | .carm g d a => bare (xPack g 0x0C d.val a.val 0 0)
  | .cfire g a b => bare (xPack g 0x0D 0 a.val b.val 0)
  | .trig g a n => bare (xPack g 0x0E 0 a.val 0 n.toNat)
  | _ => none

/-! ## Frames (R410, R413) -/

/-- TYPE of a frame header (Table 23-1). -/
def Frame.type (f : Frame) : Nat := bitsNat f.hdr 127 124
def Frame.resp (f : Frame) : Bool := bitAt f.hdr 123
def Frame.slice (f : Frame) : Nat := bitsNat f.hdr 122 120
def Frame.asid (f : Frame) : Nat := bitsNat f.hdr 119 104
def Frame.status (f : Frame) : Nat := bitsNat f.hdr 103 96
def Frame.seq (f : Frame) : Nat := bitsNat f.hdr 95 64
def Frame.len8 (f : Frame) : Nat := bitsNat f.hdr 63 54
def Frame.rsvd (f : Frame) : Nat := bitsNat f.hdr 53 52
def Frame.addr (f : Frame) : Nat := bitsNat f.hdr 51 0
/-- Word n of the payload, 0 past its end. -/
def Frame.word (f : Frame) (n : Nat) : Word := f.payload.getD n 0
/-- The CTRL opcode in payload bits 63:56 of the first word (R413). -/
def Frame.ctrlOp (f : Frame) : Nat := bitsNat (f.word 0) 63 56

/-- The CTRL opcodes of Table 23-2, R444 to R455, R460 and R466 to R470. -/
def ctrlKind (op : Nat) : Option FrameKind :=
  match op with
  | 1 => some .bind | 2 => some .unbind | 3 => some .destroy | 4 => some .reset
  | 5 => some .topen | 6 => some .tclose | 7 => some .trdptr | 8 => some .hostresp
  | 9 => some .cancel | 28 => some .flightrd | 16 => some .slicecfg | 17 => some .dirty
  | 18 => some .dsnap | 19 => some .slicestop | 20 => some .sliceload | 21 => some .slicerun
  | 22 => some .sliceclear | 23 => some .digest | 24 => some .healthcfg | 25 => some .healthrd
  | 26 => some .heartbeat | 27 => some .restore | 32 => some .image
  | _ => none

/-- The step that a request frame asks for; none for a reserved TYPE, an unknown opcode, and EVENT, which only the
package sends. -/
def Frame.kind (f : Frame) : Option FrameKind :=
  match f.type with
  | 0 => some .launch | 1 => some .memrd | 2 => some .memwr | 4 => some .attest
  | 5 => ctrlKind f.ctrlOp
  | _ => none

/-- LEN8 suits TYPE: a MEMRD carries no payload, every other request as many words as LEN8 says. -/
def Frame.lenOk (f : Frame) : Bool :=
  decide (f.len8 ≤ 512) && (match f.type with
    | 0 => f.len8 == 16 && f.payload.length == 16
    | 1 => f.payload.isEmpty
    | 2 => f.payload.length == f.len8
    | 4 => f.len8 == 4 && f.payload.length == 4
    | 5 => decide (1 ≤ f.len8) && f.payload.length == f.len8
    | _ => false)

/-- A frame that R410 does not drop. -/
def Frame.accepted (f : Frame) : Bool := !f.resp && f.rsvd == 0 && f.lenOk

/-- The slice that a frame names. -/
def Frame.sliceNo (f : Frame) : Fin 8 := Fin.ofNat 8 f.slice

/-- Operand i of a CTRL frame: payload word i (log 26). -/
def Frame.operand (f : Frame) (i : Nat) : Nat := (f.word i).toNat

/-! ## The host's reading of one table word -/

/-- The bundle that holds one slot word: the M word of 32 bits at bundle bit 112, and likewise the other widths.
TCFG's operand word lies in EXT, and EXTSEL must name the M slot (R225): ROWS 1, COLS 8 plus the AUX bits. -/
def tableBundle (nbits w : Nat) : BitVec 256 :=
  match nbits with
  | 32 =>
    if w / 2 ^ 22 % 32 = 4 then BitVec.ofNat 256 (3 * 2 ^ 252 + w % 2 ^ 32 * 2 ^ 112 + 0x21)
    else BitVec.ofNat 256 (w % 2 ^ 32 * 2 ^ 112)
  | 40 => BitVec.ofNat 256 (w % 2 ^ 40 * 2 ^ 16)
  | 56 => BitVec.ofNat 256 (w % 2 ^ 56 * 2 ^ 56)
  | 48 => BitVec.ofNat 256 (w % 2 ^ 48 * 2 ^ 192)
  | _ => BitVec.ofNat 256 w

/-- The first slot that holds an instruction, in the order S, V, M, L, X; NOP when none does. -/
def Bundle.first (b : Bundle) : Instr :=
  if b.s != .nop then b.s else if b.v != .nop then b.v else if b.m != .nop then b.m else if b.l != .nop then b.l else b.x

/-- The instruction that the decoder reads from a word of the opcode table. -/
def decodeTableWord (nbits w : Nat) : Option Instr := (decodeBundle (tableBundle nbits w)).map Bundle.first

end Sys2Proof
end

