-- ==== Sys2Proof/Config.lean ====
section
/-!
DEFINITION. What an implementation or the outside fixes, and the free values: constants with no body, of which nothing
can be proved. A statement that holds of this model holds whatever they are. The assumption log names each.
-/
namespace Sys2Proof.Config

/-- Package index in the system (Table 3-5, COREXY.PKG). -/
opaque packageIndex : BitVec 12

/-- The n-th free choice of a run: engine order and times, die interleaving, firmware times (log 4, log 5). -/
opaque freeChoice : Nat → Nat

/-- The hub die, 0 or 1, by which the words of a die go to a package (R167; log 14). -/
opaque hubOf : Nat → Nat → Nat

/-- The port of a hub die, 0 to 15 of it, by which items go to a package (R467; log 69). -/
opaque portOf : Nat → Nat → Nat

/-- The index of the package that holds a package rank of a job's teams (R161, R170; log 54). -/
opaque packageOfRank : BitVec 64 → Nat → Nat

/-- The n-th free byte: what a destination byte holds whose source byte changed under the request (R96, R119; log 6). -/
opaque freeByte : Nat → BitVec 8

/-- The fused device secret of 64 bytes (R461; log 21). -/
opaque fusedSecret : Vector (BitVec 8) 64

/-- The Ed448 public key of 57 bytes of a secret of 57 bytes (R461; log 21). -/
opaque ed448Public : List (BitVec 8) → Vector (BitVec 8) 57

/-- The Ed448 signature of 114 bytes over a message under a secret of 57 bytes (R462; log 21). -/
opaque ed448Sign : List (BitVec 8) → List (BitVec 8) → Vector (BitVec 8) 114

/-- Whether a signature of 114 bytes over a digest verifies under the fused public key (R460; log 21). -/
opaque imageVerify : List (BitVec 8) → List (BitVec 8) → Bool

/-- Whether a fixup has been written, from the data image and the entry: the spec does not say how the firmware tells (R403; log 28). -/
opaque fixupWritten : List (BitVec 8) → Nat → Bool

/-- VERSION of the slice-image format of this firmware (Table 25-5; log 22). -/
opaque imageFormatVersion : BitVec 16

/-- The rank list that a BIND names by its address, from the listed bytes of memory (R166, Table 23-2; log 24). -/
opaque rankList : List (Nat × BitVec 8) → BitVec 64 → List Nat

end Sys2Proof.Config
end

