-- ==== Sys2Proof/Machine/State.lean ====
section
/-!
DEFINITION. The state of the machine as plain data, its fault and refusal names, and the state after reset.
-/
namespace Sys2Proof.Machine

open Sys2Proof

/-- Byte memory: address and byte pairs in canonical form, addresses rising, no listed byte 0 (log 2). -/
abbrev Memory := List Host.Cell

/-- Why the machine stops. -/
inductive Fault where
  /-- A frame kind or a work item names a core, context or item that is not there: raised by `step` only, never by an
  instruction of a bundle. Safe: the model stops where the package has nothing to do. -/
  | nothingThere
  deriving DecidableEq, Repr

/-- Instructions with no meaning yet. -/
inductive Refusal where
  /-- Raised by an arm of exec whose meaning is not written. Safe: nothing is claimed of it. -/
  | notModelled (mnemonic : String)
  deriving DecidableEq, Repr

/-- A physical register of a thread. -/
inductive Ref where
  | s (n : SReg) | p (n : PReg) | v (n : VReg) | k (n : KReg) | t (n : TReg)
  deriving DecidableEq, Repr

/-- A tile register: data, sidecar and the fields of TDESC (R61, Table 3-2). -/
structure Tile where
  data : TileBits
  side : VWord
  valid : Bool
  dirty : Bool
  infl : Bool
  fmt : BitVec 4
  rows : Byte
  cols : Byte
  deriving DecidableEq, Repr

/-- The causes of Table 16-1 that a charge names. -/
inductive Cause where
  | issue | null | waitObject | waitMail | waitRecv | waitWire | waitTick | waitQueue | hold | trapEntry
  | debugHalt | freeze | vacant | notResident | faultPark
  deriving DecidableEq, Repr

/-- What a decided cause does to the bundle: trap, hold for a rotation (R33, R123), or stop the thread (R361). -/
inductive TrapAct where
  | trap | hold | stop
  deriving DecidableEq, Repr

/-- A trap as it is decided: stage (0 F, 1 D, 2 E1, 3 E3, 4 E5, 5 W), code, lane and bundle slot order the choice (R45);
the other fields are what Table 2-5 records. -/
structure Trap where
  stage : Nat
  code : Byte
  lane : Nat
  slot : Nat
  next : Bool
  taddr : Word
  tlane : BitVec 6
  act : TrapAct
  deriving DecidableEq, Repr

/-- An open delay window (R32): its destination, the bundles left and the PC of the bundle that opened it. -/
structure Window where
  reg : Ref
  left : Nat
  pc : Pc
  deriving DecidableEq, Repr

/-- The value a pending result brings. -/
inductive PendVal where
  | scalar (v : Word)
  /-- Vector result: value and the bits it covers (R263). -/
  | vector (v mask : VWord)
  deriving DecidableEq, Repr

/-- A pending long result (R31, R33): destination (none when discarded), value, the VTICK of the rotation from which it is
read (none until a reply comes), PC, VTICK and TICK of issue, raised classes by lane, and the granule of a poisoned reply. -/
structure Pend where
  id : Nat
  reg : Option Ref
  val : PendVal
  ready : Option Nat
  pc : Pc
  issue : Nat
  raised : List (Nat × BitVec 5)
  traps : Bool
  poison : Option Nat
  deriving DecidableEq, Repr

/-- A deferred trap that is due (R46), in issue order. -/
structure Deferred where
  issue : Nat
  code : Byte
  taddr : Word
  tlane : BitVec 6
  deriving DecidableEq, Repr

/-- What a thread waits for (Table 2-4), with what the wait needs at its later evaluations. -/
inductive WaitKind where
  | bwait (loc : Nat) (off : Word) (phase : BitVec 16)
  | mwait
  | qtake (loc : Nat) (off : Word) (room : Nat) (d : SReg)
  | recv (tag : BitVec 32) (d : SReg)
  | recvt (tag : BitVec 32) (d : SReg) (deadline : Word) (b : PReg)
  | wire (ep : Nat) (d : Option SReg)
  | tamp (sc : TampScope) (n : Word)
  | waitt (c : Counter) (v : Word) (d : PReg)
  | park (a : Word) (c : CReg)
  deriving DecidableEq, Repr

/-- A wait in progress: kind, PC, VTICK of issue, the PC of the next bundle, and the cycle in which it ended. -/
structure Wait where
  kind : WaitKind
  pc : Pc
  issue : Nat
  done : Option Nat
  deriving DecidableEq, Repr

/-- What a thread slot holds. -/
inductive Phase where
  | vacant
  | ready
  | waiting (w : Wait)
  /-- A double trap stopped the thread at this PC (R48). -/
  | parked (pc : Pc)
  deriving DecidableEq, Repr

/-- An access that one to come follows (R94): a write into a source of a request in progress, by its number; all that was counted
into a phase of an object of a core, or into an earlier one; or all of a request. The model's own (log 6). -/
inductive Known where
  | write (id : Nat)
  | phase (core : CoreKey) (loc n : Nat)
  | request (id : Nat)
  deriving DecidableEq, Repr

/-- A thread slot of a core of a context, with the registers that keep their storage when the slot is vacant (R69). -/
structure Thread where
  phase : Phase
  /-- No issue before this VTICK: a spawned thread's first cycle (R36). In a vacant slot, the W of the HALT (R37). -/
  start : Nat
  pc : Pc
  s : Vector Word 32
  p : Vector Bool 16
  k : Vector Word 8
  g : Vector Quad 8
  v : Vector VWord 32
  t : Vector Tile 16
  sdead : BitVec 32
  vdead : BitVec 32
  trapped : Bool
  chk : Bool
  deadtrap : Bool
  deadseen : Bool
  tvec : Pc
  tcause : Byte
  tpc : Pc
  taddr : Word
  tlane : BitVec 6
  lastrp : Pc
  rrb : BitVec 3
  lc : Word
  ec : Byte
  deadm : Word
  fpctl : Word
  seed : Word
  wireto : BitVec 32
  bkpt : Vector Word 4
  acct : Vector (BitVec 48) 16
  windows : List Window
  pending : List Pend
  deferred : List Deferred
  /-- The last FENCE of scope above CORE: its cycle F as a TICK and its PC (R100). -/
  fence : Option (Nat × Pc)
  /-- The latest performing cycle of the remote accesses issued (R99), as a TICK. -/
  lastRemote : Option Nat
  /-- PC breakpoints do not fire on the next bundle (R47, R359). -/
  skipBreak : Bool
  /-- Held by R33 or R123: its bundle did not issue in the slot's latest cycle. -/
  held : Bool
  /-- The VTICK from which the debugger's stop holds the thread (R361). -/
  stopped : Option Nat
  /-- The VTICK boundary at which a debugger's request acts: a stop, or a resume when the thread is stopped. -/
  stopAsked : Option Nat
  /-- The VTICK boundary at which the thread resumes, once it is past; its slot's cycle ends the stop. -/
  resumed : Option Nat
  /-- A trap decided while the thread waits, which it takes when the wait ends (R45). -/
  recorded : Option Trap
  lastCause : Cause
  lastPc : Option Pc
  /-- The wait episode in progress: cause and rotations (R362). -/
  episode : Option (Cause × Nat)
  /-- Releases of the thread's TAMPs, newest first, one for each scope: the boundary's TICK and, once it is past, its DTICK
  (R160, R170). -/
  tampAt : List (TampScope × Nat × Option Nat)
  /-- What the thread has acquired (R94); the number that stood next at its last FENCE of scope above CORE; what its remote accesses
  after that FENCE follow, and what those that have performed since followed (R117). The model's own (log 6). -/
  known : List Known
  fenceId : Nat
  fenced : List Known
  performed : List Known
  /-- The result of a wire that came while the debugger held the thread, which takes it when it resumes (R361). -/
  got : Option Word
  deriving DecidableEq, Repr

/-- A landing-buffer entry (Table 6-1). -/
structure Landed where
  data : Word
  sender : BitVec 24
  seq : Byte
  origin : BitVec 2
  deriving DecidableEq, Repr

/-- An item held because the mailbox is full (R139): ready cycle, class (0 completion, 1 timetable, 2 active message), its
order within the class, and the message. -/
structure HeldItem where
  cycle : Nat
  cls : Nat
  order : Nat
  msg : Quad
  deriving DecidableEq, Repr

/-- Engine operations. -/
inductive EngOp where
  | copy | gath | scat | iload
  deriving DecidableEq, Repr

/-- A FENCE mark (R99, R122): scope, cycle F as a TICK, the FENCE's slot, the number that stood next when it issued (an item with a
lower one was sent before it, R117), and what those of its thread's earlier accesses that have performed followed. -/
structure Mark where
  scope : FenceScope
  f : Nat
  slot : Fin 8
  issue : Nat
  known : List Known
  deriving DecidableEq, Repr

/-- How a request stands. -/
inductive ReqState where
  | queued | started
  /-- Every unit has landed or the request stopped; the completion is due. -/
  | finishing
  /-- The completion message is held at a full mailbox. -/
  | held
  deriving DecidableEq, Repr

/-- A unit that a memory port has admitted (R433): its virtual address, physical address, bytes, direction, the die's TICK of
its arrival, the page of the translation it uses, whether a shootdown has dropped that translation (R439), and whether the unit
has waited in the fault queue (R362). -/
structure PortUnit where
  va : Nat
  pa : Nat
  len : Nat
  write : Bool
  since : Nat
  page : Nat × Nat
  dropped : Bool
  waited : Bool
  deriving DecidableEq, Repr

/-- Eight source bytes that the engine has read and not yet written: where they lay, and their value. -/
structure ReadUnit where
  space : Nat
  src : Nat
  val : Nat
  deriving DecidableEq, Repr

/-- A write into a source of a request in progress (R96): where, its number, and of a request's write the request and the object and
phase that it was counted into. -/
structure Stain where
  space : Nat
  addr : Nat
  len : Nat
  id : Nat
  req : Option Nat
  counted : Option (CoreKey × Nat × Nat)
  deriving DecidableEq, Repr

/-- A landed unit (R96, R125): source and destination, the object and phase it was counted into, and the bytes that a write of
their source still makes undefined. -/
structure MovedUnit where
  space : Nat
  src : Nat
  dspace : Nat
  dst : Nat
  counted : Option (CoreKey × Nat × Nat)
  open' : BitVec 8
  deriving DecidableEq, Repr

/-- A request in the command FIFO (R129 to R145). Segment values are those it was checked against (R260). COPY and ILOAD advance
the OFFSETs of w0 and w1 as they go (R144). -/
structure Request where
  id : Nat
  op : EngOp
  slot : Fin 8
  w0 : Word
  w1 : Word
  w2 : Word
  w3 : Word
  dseg : Quad
  sseg : Quad
  iseg : Quad
  marks : List Mark
  state : ReqState
  /-- COPY, ILOAD: rows left, the current one included, and bytes left in it (Table 5-7). -/
  rowsLeft : Nat
  rowLeft : Nat
  /-- GATH, SCAT: the element in progress, its index value once it is read, and how many of its units have landed. -/
  next : Nat
  idx : Option Nat
  unit : Nat
  /-- What is read and not yet written, oldest first. -/
  buf : List ReadUnit
  /-- Multicast: the receivers, and how many of them have the oldest unit of buf. -/
  recv : List Nat
  turn : Nat
  /-- STATUS, ERRIDX and OFFSET of an abnormal end (R143). -/
  status : BitVec 4
  errIdx : Nat
  errOff : Word
  /-- Writes into its source since the push that were not ordered before it when they came (R96). -/
  stained : List Stain
  /-- What its accesses follow (R94). -/
  known : List Known
  moved : List MovedUnit
  /-- The units admitted at the port and not yet completed. -/
  admitted : List PortUnit
  /-- The unit is parked in a fault queue, or was returned to the engine. -/
  parked : Bool
  /-- The request has started (STARTED of Table 5-7), and the source offset of a poisoned granule that it has met: it stops there once
  what it read before is written (Table 5-6). -/
  begun : Bool
  bad : Option Nat
  /-- The command image of a request that a freeze has captured: w0 to w3 and the progress word (Table 5-7). -/
  image : Option (Vector Word 5)
  deriving DecidableEq, Repr

/-- A timetable that holds a place of the sequencer (R169 to R176, R347): header offset, check in progress with the cycle
in which it ends, run in progress with base, entry index, words taken and bytes written. -/
structure Timetable where
  hdr : Nat
  checking : Option Nat
  /-- The header or an entry was written during the check. -/
  touched : Bool
  running : Bool
  base : Nat
  onDtick : Bool
  entry : Nat
  taken : Nat
  bytes : Nat
  asleep : Bool
  deriving DecidableEq, Repr

/-- Minimum, maximum and 16 buckets of a monitor (R362). -/
structure Monitor where
  min : BitVec 32
  max : BitVec 32
  buckets : Vector (BitVec 32) 16
  deriving DecidableEq, Repr

/-- What a remote access does at its owner (R110). -/
inductive RemoteOp where
  | store (loc : Nat) (size : Nat) (val : Word)
  | nibble (loc : Nat) (hi : Bool) (val : BitVec 4)
  | load (loc : Nat) (size : Nat) (sgn : Bool)
  | atomic (op : AtomicOp) (loc : Nat) (w64 : Bool) (val : Word) (rnd : Rnd) (seed vt : Word) (lidx : Nat) (thr : Nat)
  | qpub (loc : Nat) (room : Nat) (n : BitVec 24)
  | depdec (loc : Nat) (task : Word)
  | boarr (loc : Nat)
  deriving DecidableEq, Repr

/-- What a word on the scheduled plane is. -/
inductive FlightKind where
  | word (seq : Byte) (data : Word)
  | access (op : RemoteOp) (slot : Fin 8) (pend : Option Nat)
  | reply (slot : Fin 8) (pend : Nat) (val : Word) (poison : Option Nat) (classes : BitVec 5)
  deriving DecidableEq, Repr

/-- A word on the scheduled plane (R146 to R150, R383), timed on its die's TICK. -/
structure Flight where
  id : Nat
  kind : FlightKind
  ctx : Nat
  src : Nat
  dst : Nat
  /-- Rank among words that meet (R148): bundle issue TICK, 0 for a reply and 1 for an own word, sender, place in bundle. -/
  issue : Nat
  cls : Nat
  order : Nat
  /-- Links crossed, links of the route, and the cycle in which it needs the next link, or lands. -/
  crossed : Nat
  hops : Nat
  due : Nat
  /-- Held since its owner was frozen or evicted at its performing cycle (R91, R92), or waiting at a full buffer (R150). -/
  held : Bool
  /-- What the access that it carries follows (R94), and the number of its thread's last FENCE before it (R117). -/
  known : List Known
  fence : Nat
  deriving DecidableEq, Repr

/-- How a window word stands at the end of its route: on its way, waiting at the die's window port for an entry of a full landing
buffer, or landed in this cycle after it waited (R150). -/
inductive WindowStand where
  | moving | waiting | landed
  deriving DecidableEq, Repr

/-- A word on the window fabric (R161, R340), timed on the sending die's TICK. -/
structure WindowWord where
  id : Nat
  ctx : Nat
  sender : Nat
  srcDie : Nat
  dst : Nat
  seq : Byte
  data : Word
  origin : BitVec 2
  /-- Group handle of a timetable's word, none for a WSEND word. -/
  handle : Option (BitVec 24)
  /-- The job key it carries to another package. -/
  jobKey : Word
  /-- Dies of the route still to be left, the first being where it stands. -/
  route : List Nat
  issue : Nat
  /-- Place in its block (R161). -/
  order : Nat
  crossed : Nat
  /-- The TICK of the entry's die at which it reached the entry of its next link, or its core's die at its flight's end. -/
  reached : Option Nat
  waited : Nat
  /-- DTICK of its issue; and for a word from another package the DTICK at which its flight ends (R161). -/
  sent : Nat
  due : Option Nat
  stand : WindowStand
  deriving DecidableEq, Repr

/-- An active message in transit (R341). -/
structure Message where
  id : Nat
  ctx : Nat
  src : Nat
  dst : Nat
  msg : Quad
  deriving DecidableEq, Repr

/-- How a core of a context stands (R50, R53, R423, R424). -/
inductive Residency where
  | running
  /-- Stopped at its boundary; resident, charged FREEZE. -/
  | frozen
  /-- State streamed to the save area; not resident from the boundary L given on a die's TICK and DTICK (R424); on another package
  when the context has come by a slice image, L then being the image's DL (R453). -/
  | away (die : Fin 10) (tick dtick : Nat) (foreign : Bool)
  deriving DecidableEq, Repr

/-- A core of a context. -/
structure Core where
  key : CoreKey
  die : Fin 10
  x : Fin 16
  y : Fin 16
  res : Residency
  /-- VTICK of the cycle whose E3 work the core does now. -/
  vx : Nat
  /-- TICK and DTICK at the context's first rotation boundary on this core (R27, R170). -/
  tick0 : Nat
  dtick0 : Nat
  /-- The boundary B, in VTICK, at which the core stops (R423). -/
  stopAt : Option Nat
  /-- The TICK of the boundary at which it stopped last. -/
  frozenAt : Nat
  /-- The boundary, on the die's TICK, at which a frozen core resumes (R424). -/
  resumeAt : Option Nat
  slots : Vector Thread 8
  c : Vector Word 16
  /-- Writes of shared registers on their way: VTICK of issue, register, value (R30, R59). -/
  cPend : List (Nat × CReg × Word)
  q : Vector Word 8
  /-- Responses posted and not yet popped, by channel, oldest first. -/
  resp : List (QReg × Word)
  /-- Pushes whose response is not posted, oldest first: number, channel and, once known, the response (R343, R344). -/
  asked : List (Nat × QReg × Option Word)
  watch : Vector Word 4
  watchPend : List (Nat × Fin 4 × Word)
  /-- WATCH0 to WATCH3 at the latest cycles, newest first: MFC reads them at D (R64). -/
  watchHist : List (Vector Word 4)
  sp : Memory
  /-- Poisoned 64-byte granules of the pool, by pool offset / 64, rising. -/
  poison : List Nat
  istore : Memory
  /-- 8-byte units of the instruction store with an uncorrectable error (R217). -/
  istoreBad : List Nat
  /-- What ILOADs have overwritten in the latest cycles, newest first: VTICK, unit, old bytes, and whether they were bad (R97). -/
  overwritten : List (Nat × Nat × Nat × Bool)
  landing : List Landed
  mailbox : List Quad
  heldMail : List HeldItem
  fifo : List Request
  marks : List Mark
  /-- What the elements of the core's total order to come follow; what the requests that counted into a phase of an object followed;
  what their completion messages, with the requests' numbers, bring to the thread that takes them; and what the publishing of a queue's
  entry followed, by the entry's place (R94, R105). The model's own (log 6). -/
  known : List Known
  phases : List (Nat × Nat × List Known)
  done : List (Nat × Quad × List Known)
  entries : List (Nat × List Known)
  tables : List Timetable
  monitors : Vector Monitor 7
  deriving DecidableEq, Repr

/-- The open bundle: the bundle that a thread of the focused core is executing. -/
structure Cur where
  slot : Fin 8
  pc : Pc
  /-- VTICK, TICK and DTICK of the issue cycle. -/
  vt : Nat
  tick : Nat
  dtick : Nat
  /-- The thread as its bundle's D stage reads it (R231). -/
  pre : Thread
  dlyS : Nat
  dlyV : Nat
  dlyL : Nat
  /-- The core's poisoned granules as D finds them (R72). -/
  poison : List Nat
  /-- The PC of the bundle the thread issues next. -/
  next : Pc
  trap : Option Trap
  /-- The physical predicate that a taken LOOP of the bundle writes last (R250). -/
  loopPred : Option PReg
  executed : Bool
  deriving DecidableEq, Repr

/-- A participant of a wire episode: core, payload (none for BARW), operation, arrival TICK. -/
structure Arrival where
  lidx : Nat
  payload : Option Word
  op : WireOp
  cycle : Nat
  deriving DecidableEq, Repr

/-- A wire episode (R152 to R155): team rectangle and scope, its arrivals, the threads that wait in it with the VTICK at
which each one's WIRETO expires. -/
structure Episode where
  id : Nat
  ctx : Nat
  die : Fin 10
  scope : WireScope
  /-- Row or column number within the rectangle; 0 for ALL. -/
  line : Nat
  arrivals : List Arrival
  waiters : List (CoreKey × Fin 8 × Option Nat)
  deriving DecidableEq, Repr

/-- A cached translation (R432): ASID, virtual page base, size, physical base, rights. -/
structure Xlate where
  asid : Nat
  va : Nat
  size : Nat
  pa : Nat
  rd : Bool
  wr : Bool
  deriving DecidableEq, Repr

/-- A walk's fault kinds (Table 24-4). -/
inductive WalkFault where
  | notMapped | rights | badEntry | hole | tPoison
  deriving DecidableEq, Repr

/-- A unit in a port's fault queue (R435, R437). -/
structure Parked where
  core : CoreKey
  req : Nat
  slot : Fin 8
  asid : Nat
  va : Nat
  segOff : Nat
  write : Bool
  dtick : Nat
  /-- The order in which units parked (R437). -/
  order : Nat
  /-- SEQ of its record once one is appended, and the DTICK at which it was. -/
  record : Option (Nat × Nat)
  deriving DecidableEq, Repr

/-- A die (R13 to R15). -/
structure Die where
  /-- The time of the clock's next edge, and what the copy of DTICK reads above that time, in millionths of a tick of 3.6 GHz:
  the model's own (R18, R156; log 5). -/
  edge : Nat
  ahead : Nat
  tick : Nat
  dtick : Nat
  /-- DTICK of the latest cycles, newest first: MFC reads the count of the issue cycle (R64). -/
  dhist : List Nat
  /-- ALIGNCTL of the latest cycles, newest first: MFC reads it at D (R64). -/
  alignHist : List Word
  alock : Bool
  rate : BitVec 16
  slow : BitVec 4
  errb : Byte
  /-- By how much the estimates of the compute dies' TICKs lag, and the own TICK of the latest stamps (R158; log 5). -/
  estimates : List Nat
  stampAt : Nat
  /-- Hub dies: the own TICK and the compute dies' from which RATE counts (R158; log 5). -/
  rateFrom : Nat × List Nat
  cache : List Xlate
  faults : List Parked
  /-- ASIDs whose requests the port returns while its fault queue is full (R436). -/
  refused : List Nat
  latency : Monitor
  /-- Hub dies: the service cores run at 1.8 GHz (R463). -/
  slowClock : Bool
  removedCores : List (Nat × Nat)
  outOfService : Bool
  /-- Removals waiting until the core or die is free (R468). -/
  pendingRemoval : List (BitVec 32)
  /-- Wait monitors of cores that hold no context now: x, y and the values (R362). -/
  kept : List (Nat × Nat × Vector Monitor 7)
  deriving DecidableEq, Repr

/-- The fields of a launch record that live on (R415), and the frame it came by. -/
structure Record where
  jobKey : Word
  imgVa : Nat
  segVa : Nat
  part : Word
  seed : Word
  asid : Nat
  prio : Nat
  slice : Nat
  elastic : Bool
  diag : Bool
  chan : Bool
  m : Nat
  n : Nat
  d : Nat
  dieMask : Nat
  mask : Byte
  pkgRank : Nat
  npkg : Nat
  rm : BitVec 3
  en : BitVec 5
  wireto : BitVec 32
  depCnt : Nat
  ltoken : Nat
  notify0 : Nat
  notify1 : Nat
  tvec : Pc
  entries : Vector Pc 8
  segs : Vector Quad 8
  /-- The image's code and data bytes as they were read (R398, R401). -/
  code : List Byte
  data : List Byte
  deriving DecidableEq, Repr

/-- Where a launch came from: a frame of a lane, or a QPUSH of q0. -/
inductive Origin where
  | frame (lane : Fin 2) (seq : Nat)
  | child (parent : CoreKey) (push : Nat)
  deriving DecidableEq, Repr

/-- A queued launch or a pre-empted team waiting for cores (R417, R419). -/
structure Queued where
  record : Record
  origin : Origin
  /-- Order of arrival, and the DTICK from which its aging counts. -/
  arrival : Nat
  since : Nat
  dep : Nat
  /-- The context to resume, for a pre-empted team. -/
  team : Option Nat
  deriving DecidableEq, Repr

/-- How the team of a context stands. -/
inductive TeamState where
  | running
  /-- Its cores have a boundary to stop at, or have stopped and finish step 3 of R423. -/
  | freezing
  /-- Step 4 is done: the cores that are wanted stream. -/
  | quiesced
  /-- Every core is streamed or frozen in place. -/
  | frozen
  /-- It has cores again: those that were streamed stream in. -/
  | placed
  /-- Every core is there and has a boundary at which it resumes. -/
  | resuming
  deriving DecidableEq, Repr

/-- A context (R27, R415, R421). -/
structure Context where
  num : Nat
  record : Record
  origin : Origin
  arrival : Nat
  state : TeamState
  /-- The dies of the ranks and the south-west corner of each rectangle. -/
  ranks : List (Fin 10 × Nat × Nat)
  /-- The team's cores that the placer wants, by logical index (R419). -/
  victim : List Nat
  /-- The freeze was asked for by a thermal limit (R464) or by SLICESTOP, not by the placer. -/
  thermal : Bool
  /-- The team is frozen, or freezes, as a whole: what is in flight for it stands still (R51, R451). -/
  whole : Bool
  /-- The DTICK of its latest freeze (R419). -/
  frozenSince : Nat
  /-- DESTROY or RESET came while its team was freezing: it ends once the team is quiesced (R425). -/
  doomed : Bool
  /-- Of a team that spans packages: the ranks of the packages whose part has halted, and whether the others know that this one's has
  (R37). The model's own (log 74). -/
  heard : List Nat
  told : Bool
  /-- SHAKE256 of the code and data as loaded at launch (Table 26-3). -/
  digest : List Byte
  deriving DecidableEq, Repr

/-- A bound group handle (R166). -/
structure Handle where
  handle : BitVec 24
  jobKey : Word
  ranks : List Nat
  deriving DecidableEq, Repr

/-- A slice (R443, R444). -/
structure Slice where
  dieMask : Byte
  asidBase : Nat
  asidCnt : Nat
  cap0b : Nat
  cap0n : Nat
  cap1b : Nat
  cap1n : Nat
  stopped : Bool
  queue : List Queued
  /-- Credits for tokens not queued: token and the DTICK at which it came (R418). -/
  credits : List (Nat × Nat)
  /-- The DTICK at which the slice stopped (R453). -/
  stoppedAt : Nat
  /-- A shootdown command has dropped its translations and waits for the units that use them (R439). -/
  shoot : Bool
  /-- A SLICESTOP in progress: lane and SEQ of its frame, image base and length limit (R451). -/
  stop : Option (Fin 2 × Nat × Nat × Nat)
  /-- The bitmap that each die's port sets bits in, and a DSNAP in progress: lane and SEQ of its frame, and the ports that have
  not flipped (R449). -/
  ports : BitVec 10
  snap : Option (Fin 2 × Nat × List (Fin 10))
  deriving DecidableEq, Repr

/-- What a slice image holds (R451, Table 25-5): the queue, the contexts with their cores and what is in flight for them, the
bindings, and the counters of the fault log and the command ring. -/
structure SliceImage where
  dies : Nat
  dl : Nat
  queue : List Queued
  credits : List (Nat × Nat)
  contexts : List Context
  cores : List Core
  flights : List Flight
  windows : List WindowWord
  messages : List Message
  episodes : List Episode
  submitted : List (CoreKey × Nat × List Byte × Nat)
  handles : List Handle
  counters : List Nat
  deriving DecidableEq, Repr

/-- A trace session (R354 to R358). -/
structure Session where
  id : Nat
  slice : Nat
  ctx : Nat
  /-- The context's ASID: records name it to the session's end (Table 16-3). -/
  asid : Nat
  die : Fin 10
  k : Nat
  base : Nat
  size : Nat
  rd : Nat
  wr : Nat
  seq : Nat
  lost : Nat
  /-- The next record's place among 64, the first of which is KEY, and whether it must be KEY besides. -/
  sinceKey : Nat
  needKey : Bool
  /-- The entries of the latest record, one number for each core. -/
  last : List Nat
  deriving DecidableEq, Repr

/-- What the package offers (R457). -/
inductive Service where
  | boot | reduced | full
  | failed (step : Nat)
  deriving DecidableEq, Repr

/-- The timestamp unit of a fabric port (R157): the stamp of its Pdelay_Req, the link's delay, the stamp of a two-step Sync that waits
for its Follow_Up, that of its own Sync, and that of a peer's Pdelay_Req that waits for its response. -/
structure PtpPort where
  asked : Option Nat
  delay : Nat
  came : Option Nat
  left : Option Nat
  peer : Option Nat
  deriving DecidableEq, Repr

/-- Start-up, trust, power and health state (26, 27). -/
structure Firm where
  service : Service
  /-- The start step that has been passed last. -/
  step : Nat
  minVersion : Nat
  version : Nat
  fwDigest : List Byte
  imageBytes : List (Nat × List Byte)
  accepted : Bool
  /-- MINV of the accepted image, raised into the fuses after step 7. -/
  minvNext : Nat
  storedParams : List Word
  storedTag : List Byte
  /-- A start in progress: whether it is a warm one, and what it brings (R457). -/
  starting : Option (Bool × StartOutcome)
  plock : Bool
  skewb : Byte
  /-- The timestamp units of the 32 ports, and the servo's latest offset from the grandmaster, in ticks (R157). -/
  ptp : Vector PtpPort 32
  offset : Int
  /-- What the package's PTP clock, which disciplines the dies' copies of DTICK, reads above the time of the edges, and what the servo
  has still to slew, in millionths of a tick: the model's own (R156, R157; log 5). -/
  clock : Int
  slew : Int
  /-- What the ports have sent, newest first: port and message. -/
  ptpOut : List (Nat × PtpSent)
  flights : List (Nat × BitVec 32)
  thermalHold : Bool
  /-- The critical thermal condition stands (R464). -/
  critical : Bool
  thresholds : Vector Nat 3
  /-- DTICKs of the latest events by RID, newest first (R466). -/
  events : List (BitVec 32 × List Nat)
  lasting : List (BitVec 32)
  removals : List (BitVec 32)
  /-- The tag of the stored list of removals (R468). -/
  removalTag : List Byte
  restores : List (BitVec 32)
  dropped : Nat
  wordsDropped : Nat
  deriving DecidableEq, Repr

/-- What the outside brings: a frame on a lane, or an event. -/
inductive Input where
  | frame (f : Frame)
  | event (i : Instr)
  deriving DecidableEq, Repr

/-- One piece of work of a die cycle. -/
inductive Work where
  /-- A core's cycle: what becomes due in it, and what its slot does. -/
  | turn (c : CoreKey)
  /-- The slot's thread fetches, decodes and executes its bundle. -/
  | bundle (c : CoreKey)
  /-- The arrivals of a die's cycle, after the turns of its cores. -/
  | arrivals (d : Fin 10)
  /-- The engines, the sequencers and the end of a die's cycle. -/
  | close (d : Fin 10)
  /-- A step that the outside asks for. -/
  | ev (i : Instr)
  deriving DecidableEq, Repr

/-- The machine. -/
structure State where
  /-- The core in focus, and every other core of every context: each core has one home. -/
  core : Core
  others : List Core
  cur : Cur
  agenda : List Work
  inputs : List Input
  /-- Frames sent on each lane, newest first (R410, R414). -/
  out : List Frame
  /-- Items sent to other packages: package and item. -/
  fabricOut : List (Nat × FabricItem)
  /-- Counter of the free values, the model's own (log 4). -/
  free : Nat
  /-- Next identifier of an item in flight, a request, an episode or a session, the model's own. -/
  fresh : Nat
  /-- Next context number. -/
  nextCtx : Nat
  /-- Order of arrival of launches. -/
  arrivals : Nat
  dies : Vector Die 10
  mem : Memory
  /-- Poisoned granules of global memory, physical address / 64, rising. -/
  memPoison : List Nat
  flights : List Flight
  windows : List WindowWord
  messages : List Message
  /-- Launch records pushed on q0 that the firmware has not yet checked: core, push, the record's bytes, priority (R344). -/
  submitted : List (CoreKey × Nat × List Byte × Nat)
  episodes : List Episode
  contexts : List Context
  slices : Vector Slice 8
  handles : List Handle
  sessions : List Session
  /-- What the slice images hold that SLICESTOP has written (R451). -/
  images : List SliceImage
  firm : Firm
  seqOut : Vector Nat 2
  /-- The SEQ that comes next on each lane, once a frame has come (R411). -/
  seqIn : Vector (Option Nat) 2
  deriving DecidableEq, Repr

/-! ## Reset -/

def Tile.reset : Tile := ⟨0, 0, false, false, false, 0, 0, 0⟩

def Monitor.reset : Monitor := ⟨0, 0, Vector.replicate 16 0⟩

/-- A slot that no thread has occupied: every register at its Reset column, L fields 0 (log 3). -/
def Thread.reset : Thread where
  phase := .vacant
  start := 0
  pc := 0
  s := Vector.replicate 32 0
  p := (Vector.replicate 16 false).set 0 true
  k := (Vector.replicate 8 0).set 0 (BitVec.allOnes 64)
  g := Vector.replicate 8 0
  v := Vector.replicate 32 0
  t := Vector.replicate 16 Tile.reset
  sdead := 0
  vdead := 0
  trapped := false
  chk := false
  deadtrap := false
  deadseen := false
  tvec := 0
  tcause := 0
  tpc := 0
  taddr := 0
  tlane := 0
  lastrp := 0
  rrb := 0
  lc := 0
  ec := 0
  deadm := 0
  fpctl := 0
  seed := 0
  wireto := 0
  bkpt := Vector.replicate 4 0
  acct := Vector.replicate 16 0
  windows := []
  pending := []
  deferred := []
  fence := none
  lastRemote := none
  skipBreak := false
  held := false
  stopped := none
  stopAsked := none
  resumed := none
  recorded := none
  lastCause := .vacant
  lastPc := none
  episode := none
  tampAt := []
  known := []
  fenceId := 0
  fenced := []
  performed := []
  got := none

/-- A core with no context: context number 0 is never given out. -/
def Core.reset : Core where
  key := ⟨0, 0⟩
  die := 0
  x := 0
  y := 0
  res := .frozen
  vx := 0
  tick0 := 0
  dtick0 := 0
  stopAt := none
  frozenAt := 0
  resumeAt := none
  slots := Vector.replicate 8 Thread.reset
  c := Vector.replicate 16 0
  cPend := []
  q := Vector.replicate 8 0
  resp := []
  asked := []
  watch := Vector.replicate 4 0
  watchPend := []
  watchHist := []
  sp := []
  poison := []
  istore := []
  istoreBad := []
  overwritten := []
  landing := []
  mailbox := []
  heldMail := []
  fifo := []
  marks := []
  known := []
  phases := []
  done := []
  entries := []
  tables := []
  monitors := Vector.replicate 7 Monitor.reset

def Cur.reset : Cur := ⟨0, 0, 0, 0, 0, Thread.reset, 0, 0, 0, [], 0, none, none, false⟩

/-- A die right after start-up: TICK 0, alignment locked (R457 step 6; log 1). -/
def Die.reset : Die where
  edge := 0
  ahead := 0
  tick := 0
  dtick := 0
  dhist := []
  alignHist := []
  alock := true
  rate := 0
  slow := 0
  errb := 2
  estimates := List.replicate 8 0
  stampAt := 0
  rateFrom := (0, [])
  cache := []
  faults := []
  refused := []
  latency := Monitor.reset
  slowClock := false
  removedCores := []
  outOfService := false
  pendingRemoval := []
  kept := []

/-- An unconfigured slice (R444). -/
def Slice.reset : Slice := ⟨0, 0, 0, 0, 0, 0, 0, false, [], [], 0, false, none, 0, none⟩

def PtpPort.reset : PtpPort := ⟨none, 0, none, none, none⟩

def Firm.reset : Firm where
  service := .full
  step := 7
  minVersion := 0
  version := 0
  fwDigest := List.replicate 64 0
  imageBytes := []
  accepted := true
  minvNext := 0
  storedParams := []
  storedTag := []
  starting := none
  plock := false
  skewb := 255
  ptp := Vector.replicate 32 PtpPort.reset
  offset := 0
  clock := 0
  slew := 0
  ptpOut := []
  flights := []
  thermalHold := false
  critical := false
  thresholds := #v[3, 16, 64]
  events := []
  lasting := []
  removals := []
  removalTag := []
  restores := []
  dropped := 0
  wordsDropped := 0

/-- The package right after a cold start, at the start of its full service: no context, no slice, every counter 0. -/
def State.reset : State where
  core := Core.reset
  others := []
  cur := Cur.reset
  agenda := []
  inputs := []
  out := []
  fabricOut := []
  free := 0
  fresh := 1
  nextCtx := 1
  arrivals := 0
  dies := Vector.replicate 10 Die.reset
  mem := []
  memPoison := []
  flights := []
  windows := []
  messages := []
  submitted := []
  episodes := []
  contexts := []
  slices := Vector.replicate 8 Slice.reset
  handles := []
  sessions := []
  images := []
  firm := Firm.reset
  seqOut := #v[0, 0]
  seqIn := #v[none, none]

end Sys2Proof.Machine
end

