-- ==== Sys2Proof/Machine/Ops.lean ====
section
/-!
DEFINITION. The named operations over memory, registers, cores and threads, and the one trap entry that every trapping
instruction takes (R43 to R48).
-/
namespace Sys2Proof.Machine

open Sys2Proof

/-- The outcome of an instruction. -/
abbrev Out := Host.Outcome State Fault Refusal

/-! ## Byte memory -/

/-- The canonical form: addresses strictly rising and no byte equal to 0, which an unlisted address reads as (log 2). -/
def Memory.wf : Memory → Bool
  | [] => true
  | [(_, v)] => v != 0
  | (a, v) :: (b, w) :: m => v != 0 && a < b && Memory.wf ((b, w) :: m)

/-- The byte at an address. -/
def memGet : Memory → Nat → Byte
  | [], _ => 0
  | (b, x) :: m, a => if a = b then x else memGet m a

/-- Write one byte, keeping the canonical form. -/
def memSet : Memory → Nat → Byte → Memory
  | [], a, v => if v = 0 then [] else [(a, v)]
  | (b, x) :: m, a, v =>
    if a < b then (if v = 0 then (b, x) :: m else (a, v) :: (b, x) :: m)
    else if a = b then (if v = 0 then m else (a, v) :: m)
    else (b, x) :: memSet m a v

/-- A memory's canonical form. -/
def Memory.canonical (m : Memory) : Memory := m.foldl (fun n c => memSet n c.1 c.2) []

/-- n bytes from a, little-endian (R4). -/
def memRead (m : Memory) (a : Nat) : Nat → Nat
  | 0 => 0
  | n + 1 => (memGet m a).toNat + 256 * memRead m (a + 1) n

/-- Write the low n bytes of v from a, little-endian (R4). -/
def memWrite (m : Memory) (a : Nat) : Nat → Nat → Memory
  | 0, _ => m
  | n + 1, v => memWrite (memSet m a (BitVec.ofNat 8 v)) (a + 1) n (v / 256)

/-- Bytes as a list, for images and frames. -/
def memBytes (m : Memory) (a : Nat) : Nat → List Byte
  | 0 => []
  | n + 1 => memGet m a :: memBytes m (a + 1) n

def memPut (m : Memory) (a : Nat) : List Byte → Memory
  | [] => m
  | b :: bs => memPut (memSet m a b) (a + 1) bs

/-- Bytes of a number, lowest first. -/
def leBytes : Nat → Nat → List Byte
  | 0, _ => []
  | n + 1, v => BitVec.ofNat 8 v :: leBytes n (v / 256)

/-- A number from bytes, lowest first. -/
def ofLeBytes : List Byte → Nat
  | [] => 0
  | b :: bs => b.toNat + 256 * ofLeBytes bs

/-- Insert into a rising list without repeats. -/
def insertNat (n : Nat) : List Nat → List Nat
  | [] => [n]
  | m :: l => if n < m then n :: m :: l else if n = m then m :: l else m :: insertNat n l

/-- The granules of a poison list that a byte range touches. -/
def poisonIn (p : List Nat) (a n : Nat) : List Nat :=
  p.filter fun g => decide (g * 64 < a + n) && decide (a < g * 64 + 64)

/-- A single write of n bytes at a clears each granule it covers whole (R72). -/
def poisonClear (p : List Nat) (a n : Nat) : List Nat :=
  p.filter fun g => !(decide (a ≤ g * 64) && decide (g * 64 + 64 ≤ a + n))

/-! ## Small helpers -/

/-- Replace the elements of a list that a test picks. -/
def mapIf {α : Type} (c : α → Bool) (f : α → α) (l : List α) : List α := l.map fun a => if c a then f a else a

/-- Insert before the first element that comes after it in an order. -/
def insertBy {α : Type} (lt : α → α → Bool) (a : α) : List α → List α
  | [] => [a]
  | b :: l => if lt a b then a :: b :: l else b :: insertBy lt a l

def sortBy {α : Type} (lt : α → α → Bool) (l : List α) : List α := l.foldl (fun acc a => insertBy lt a acc) []

/-! ## Cores, threads and the focus -/

/-- Bring a core into focus. -/
def State.focus (s : State) (k : CoreKey) : State :=
  if s.core.key = k then s
  else match s.others.find? (fun c => c.key = k) with
    | none => s
    | some c => { s with core := c, others := s.core :: s.others.filter (fun d => d.key ≠ k) }

/-- Every core, the focused one first. -/
def State.cores (s : State) : List Core := s.core :: s.others

def State.findCore (s : State) (k : CoreKey) : Option Core := s.cores.find? fun c => c.key = k

/-- Change a core by name. -/
def State.modCore (s : State) (k : CoreKey) (f : Core → Core) : State :=
  { s with core := if s.core.key = k then f s.core else s.core, others := mapIf (fun c => c.key = k) f s.others }

/-- Change every core that a test picks. -/
def State.modCores (s : State) (p : Core → Bool) (f : Core → Core) : State :=
  { s with core := if p s.core then f s.core else s.core, others := mapIf p f s.others }

def Core.modSlot (c : Core) (t : Fin 8) (f : Thread → Thread) : Core :=
  { c with slots := c.slots.set t.val (f c.slots[t.val]) t.isLt }

/-- The thread whose bundle is open. -/
def State.thread (s : State) : Thread := s.core.slots[s.cur.slot.val]

/-- Change the thread whose bundle is open. -/
def State.modThread (s : State) (f : Thread → Thread) : State := { s with core := s.core.modSlot s.cur.slot f }

def State.modDie (s : State) (d : Fin 10) (f : Die → Die) : State :=
  { s with dies := s.dies.set d.val (f s.dies[d.val]) d.isLt }

def State.die (s : State) (d : Fin 10) : Die := s.dies[d.val]

def State.modSlice (s : State) (n : Fin 8) (f : Slice → Slice) : State :=
  { s with slices := s.slices.set n.val (f s.slices[n.val]) n.isLt }

def State.slice (s : State) (n : Fin 8) : Slice := s.slices[n.val]

def State.findCtx (s : State) (n : Nat) : Option Context := s.contexts.find? fun c => c.num = n

def State.modCtx (s : State) (n : Nat) (f : Context → Context) : State :=
  { s with contexts := mapIf (fun c => c.num = n) f s.contexts }

/-- The launch record of the focused core's context; an empty one when there is none. -/
def Record.empty : Record :=
  ⟨0, 0, 0, 0, 0, 0, 0, 0, false, false, false, 1, 1, 1, 0, 0, 0, 0, 0, 0, 0, 0, 0, 0, 0, 0,
   Vector.replicate 8 0, Vector.replicate 8 0, [], []⟩

def State.recordOf (s : State) (ctx : Nat) : Record :=
  match s.findCtx ctx with
  | some c => c.record
  | none => Record.empty

def State.record (s : State) : Record := s.recordOf s.core.key.ctx

/-- A fresh identifier (the model's own). See log 78. -/
def State.newId (s : State) : Nat × State := (s.fresh, { s with fresh := s.fresh + 1 })

/-- ALIGNCTL (Table 6-5): PLOCK and SKEWB are the package's, the rest the die's. -/
def alignctl (d : Die) (f : Firm) : Word :=
  BitVec.ofNat 64 (b2n d.alock * 2 ^ 63 + b2n f.plock * 2 ^ 62 + f.skewb.toNat * 2 ^ 48 + d.rate.toNat * 2 ^ 32
    + d.slow.toNat * 2 ^ 28 + d.errb.toNat * 2 ^ 8)

/-- Millionths of a tick in a tick of 3.6 GHz. -/
def million : Nat := 1000000

/-- A free choice below n (log 4); of one thing there is no choice. -/
def State.pick (s : State) (n : Nat) : Nat × State :=
  (if n ≤ 1 then 0 else Config.freeChoice s.free % n, { s with free := s.free + 1 })

def State.modFirm (s : State) (f : Firm → Firm) : State := { s with firm := f s.firm }

/-! ## PART and the pool (R68, R69) -/

/-- NV of a PART word. -/
def partNV (part : Word) : Nat := if bitAt part 2 then 32 else 16
/-- NT of a PART word. -/
def partNT (part : Word) : Nat := match bitsNat part 1 0 with | 0 => 0 | 1 => 4 | 2 => 8 | _ => 16
/-- Vector granules. -/
def partVG (part : Word) : Nat := if bitAt part 2 then 4 else 2
/-- Tile granules. -/
def partTG (part : Word) : Nat := match bitsNat part 1 0 with | 0 => 0 | 1 => 5 | 2 => 9 | _ => 18
/-- SPB, the scratchpad's size in bytes. -/
def partSPB (part : Word) : Nat := bitsNat part 16 8 * 4096
/-- The checks the service firmware makes of a PART word (R68). -/
def partOk (part : Word) : Bool :=
  bitsNat part 63 17 == 0 && bitsNat part 7 3 == 0
  && bitsNat part 16 8 == 256 - partVG part - partTG part

/-- Pool offset of a vector register of a slot (R69). -/
def vectorOffset (part : Word) (t v : Nat) : Nat := partSPB part + (t * partNV part + v) * 64
/-- Pool offset of a tile register of a slot (R69). -/
def tileOffset (part : Word) (t j : Nat) : Nat := 0x100000 - partTG part * 4096 + (t * partNT part + j) * 576

/-! ## Registers of a thread -/

/-- R57 for s and v registers. See log 10. -/
def physS (rrb : BitVec 3) (n : Fin 32) : Fin 32 :=
  if n.val < 24 then n else Fin.ofNat 32 (24 + (n.val - 24 + 8 - rrb.toNat) % 8)

/-- R57 for p registers. -/
def physP (rrb : BitVec 3) (n : PReg) : PReg :=
  if n.val < 8 then n else Fin.ofNat 16 (8 + (n.val - 8 + 8 - rrb.toNat) % 8)

/-- Read a scalar register by logical name: s0 and a dead register read 0 (R55, R80). -/
def Thread.readS (t : Thread) (n : SReg) : Word :=
  let q := physS t.rrb n
  if n.val = 0 || t.sdead.getLsbD q.val then 0 else t.s[q.val]

def Thread.readP (t : Thread) (n : PReg) : Bool := n.val == 0 || t.p[(physP t.rrb n).val]

def Thread.readK (t : Thread) (n : KReg) : Word := if n.val = 0 then BitVec.allOnes 64 else t.k[n.val]

def Thread.readV (t : Thread) (n : VReg) : VWord :=
  let q := physS t.rrb n
  if t.vdead.getLsbD q.val then 0 else t.v[q.val]

/-- A tile operand: an invalid tile reads 0 in every data and sidecar bit and keeps its shape (R63, R289). -/
def Thread.readT (t : Thread) (n : TReg) : Tile :=
  let x := t.t[n.val]
  if x.valid then x else { x with data := 0, side := 0 }

/-- Write a physical scalar register; s0 is discarded (R55); the dead bit clears (R78). -/
def Thread.putS (t : Thread) (q : SReg) (v : Word) : Thread :=
  if q.val = 0 then t
  else { t with s := t.s.set q.val v, sdead := t.sdead &&& ~~~(BitVec.twoPow 32 q.val) }

def Thread.putP (t : Thread) (q : PReg) (v : Bool) : Thread :=
  if q.val = 0 then t else { t with p := t.p.set q.val v }

def Thread.putK (t : Thread) (q : KReg) (v : Word) : Thread :=
  if q.val = 0 then t else { t with k := t.k.set q.val v }

/-- Write the bits of a vector register that mask covers; the others keep their value, or become 0 when the register was
dead (R78). -/
def Thread.putV (t : Thread) (q : VReg) (v mask : VWord) : Thread :=
  let old := if t.vdead.getLsbD q.val then 0 else t.v[q.val]
  { t with v := t.v.set q.val ((v &&& mask) ||| (old &&& ~~~mask)),
           vdead := t.vdead &&& ~~~(BitVec.twoPow 32 q.val) }

def Thread.putT (t : Thread) (q : TReg) (x : Tile) : Thread := { t with t := t.t.set q.val x }

/-- INFL ends with the W of the bundle that writes the tile (Table 3-2). -/
def Thread.endWrites (t : Thread) : Thread :=
  if t.t.toList.any (·.infl) then { t with t := t.t.map fun x => { x with infl := false } } else t

/-! ## Registers of the open bundle: reads at D, writes at W -/

def State.rs (s : State) (n : SReg) : Word := s.cur.pre.readS n
def State.rp (s : State) (n : PReg) : Bool := s.cur.pre.readP n
def State.rk (s : State) (n : KReg) : Word := s.cur.pre.readK n
def State.rv (s : State) (n : VReg) : VWord := s.cur.pre.readV n
def State.rt (s : State) (n : TReg) : Tile := s.cur.pre.readT n
def State.rg (s : State) (n : GReg) : Quad := s.cur.pre.g[n.val]

/-- Write a scalar destination named at D. -/
def State.setS (s : State) (d : SReg) (v : Word) : State := s.modThread fun t => t.putS (physS s.cur.pre.rrb d) v

/-- Write a predicate destination; LOOP's own stage predicate stands (R250). -/
def State.setP (s : State) (d : PReg) (v : Bool) : State :=
  let q := physP s.cur.pre.rrb d
  if s.cur.loopPred = some q then s else s.modThread fun t => t.putP q v

def State.setK (s : State) (d : KReg) (v : Word) : State := s.modThread fun t => t.putK d v

/-- Write the bits of a vector destination that mask covers; a register write clears its granule's poison (R72). See log 41. -/
def State.setVm (s : State) (d : VReg) (v mask : VWord) : State :=
  let q := physS s.cur.pre.rrb d
  let s := s.modThread fun t => t.putV q v mask
  let off := vectorOffset s.record.part s.cur.slot.val q.val
  { s with core := { s.core with poison := poisonClear s.core.poison off 64 } }

/-- Write a whole vector destination. -/
def State.setV (s : State) (d : VReg) (v : VWord) : State := s.setVm d v (BitVec.allOnes 512)

/-- Write a tile and its descriptor; a write of its storage clears the poison of the register's granules (Table 4-12, R72; log 104).
INFL stands to the end of the bundle's W (R62; log 96). -/
def State.setT (s : State) (d : TReg) (x : Tile) (stores : Bool) : State :=
  let s := s.modThread fun t => t.putT d { x with infl := true }
  let off := tileOffset s.record.part s.cur.slot.val d.val
  { s with core := { s.core with poison := poisonClear s.core.poison off (if stores then 576 else 0) } }

/-! ## Traps (R43 to R48) -/

/-- The order of R45: stage, then code, then lane, then bundle slot. -/
def Trap.before (a b : Trap) : Bool :=
  if a.stage ≠ b.stage then a.stage < b.stage
  else if a.code ≠ b.code then a.code.toNat < b.code.toNat
  else if a.lane ≠ b.lane then a.lane < b.lane
  else a.slot ≤ b.slot

/-- Trap entry (R43): the saved registers, THRCTL.TRAPPED and the PC; a second trap while TRAPPED parks the thread
(R48). pc is the trapping bundle's PC, next the PC of the bundle after it. See log 44. -/
def Thread.enterTrap (t : Thread) (trapped : Bool) (r : Trap) (pc next : Pc) : Thread :=
  if t.phase == .vacant then t
  else if trapped then { t with phase := .parked pc }
  else { t with tcause := r.code, tpc := if r.next then next else pc, taddr := r.taddr, tlane := r.tlane,
                trapped := true, skipBreak := false, pc := t.tvec }

/-- A slot of the open bundle takes a trap, a hold or a stop; the one first in the order of R45 stands. -/
def State.takeTrap (s : State) (r : Trap) : State :=
  let first := match s.cur.trap with
    | some b => !b.before r
    | none => true
  if first then
    let s := { s with cur := { s.cur with trap := some r } }
    match r.act with
    | .trap => s.modThread fun t => t.enterTrap s.cur.pre.trapped r s.cur.pc s.cur.next
    | .hold | .stop => s
  else s

/-- A trap of the bundle at D, E1 or E3, with TPC the bundle. -/
def mkTrap (stage code lane slot : Nat) (taddr : Word) (tlane : Nat) : Trap :=
  ⟨stage, BitVec.ofNat 8 code, lane, slot, false, taddr, BitVec.ofNat 6 tlane, .trap⟩

def trapIllegal (slot : Nat) : Trap := mkTrap 1 0x01 0 slot 0 0
def trapPriv (slot n : Nat) : Trap := mkTrap 1 0x02 0 slot (BitVec.ofNat 64 n) 0
def trapBounds (slot lane : Nat) (o : Word) (tl : Nat) : Trap := mkTrap 2 0x03 lane slot o tl
def trapRights (slot lane : Nat) (o : Word) (tl : Nat) : Trap := mkTrap 2 0x04 lane slot o tl
def trapAlign (slot lane : Nat) (o : Word) (tl : Nat) : Trap := mkTrap 2 0x05 lane slot o tl
def trapDelay (slot : Nat) (pc : Pc) : Trap := mkTrap 1 0x06 0 slot (pc.zeroExtend 64) 0
def trapSchedule (slot : Nat) (a : Word) : Trap := mkTrap 3 0x07 0 slot a 0
def trapOverrun (slot : Nat) (o : Word) : Trap := mkTrap 3 0x08 0 slot o 0
def trapEngine (slot : Nat) (o : Word) : Trap := mkTrap 3 0x0A 0 slot o 0
def trapPoison (slot lane granule tl : Nat) : Trap := mkTrap 3 0x0B lane slot (BitVec.ofNat 64 granule) tl
def trapOverlap (slot : Nat) : Trap := mkTrap 1 0x0C 0 slot 0 0
def trapFetch (pc : Pc) : Trap := mkTrap 0 0x0D 0 0 (pc.zeroExtend 64) 0
def trapQueue (slot : Nat) (o : Word) : Trap := mkTrap 3 0x10 0 slot o 0
def trapDead (slot cls n : Nat) : Trap := mkTrap 1 0x12 0 slot (BitVec.ofNat 64 (cls * 32 + n)) 0
/-- The SOFTWARE trap of TRAP, at W, TPC next (R254). -/
def trapSoftware (imm : Word) : Trap := ⟨5, 0x0E, 0, 0, true, imm, 0, .trap⟩
/-- An FP trap of a one-rotation operation, at E5, TPC next, TADDR the bundle (R203); TLANE is the lane modulo 64, of a VPACK's 128 lanes too
(log 80). -/
def trapFp (slot lane : Nat) (pc : Pc) : Trap := ⟨4, 0x0F, lane, slot, true, pc.zeroExtend 64, BitVec.ofNat 6 lane, .trap⟩
/-- BREAK of a PC breakpoint at D (R359). -/
def trapBreak (stage : Nat) (a : Word) (stop : Bool) : Trap :=
  ⟨stage, 0x11, 0, if stage = 1 then 0 else 3, false, a, 0, if stop then .stop else .trap⟩
/-- A hold stands where the DELAY trap would (R33, R123). See log 45. -/
def holdOf (slot : Nat) : Trap := { mkTrap 1 0x06 0 slot 0 0 with act := .hold }

/-- The best of a list of candidates. -/
def bestTrap : List Trap → Option Trap
  | [] => none
  | r :: rs => match bestTrap rs with
    | none => some r
    | some b => if r.before b then some r else some b

/-! ## Windows, pending results and waits -/

/-- Open a delay window unless the bundle's HALT has retired the thread (R32, R35). -/
def State.openWindow (s : State) (r : Ref) (n : Nat) : State :=
  if n = 0 || s.thread.phase == .vacant then s
  else s.modThread fun t => { t with windows := t.windows ++ [⟨r, n, s.cur.pc⟩] }

/-- Start a long result (R31, R33); a retired thread discards it (R35). -/
def State.addPending (s : State) (reg : Option Ref) (val : PendVal) (ready : Option Nat)
    (raised : List (Nat × BitVec 5)) (traps : Bool) (id : Nat) : State :=
  if s.thread.phase == .vacant then s
  else s.modThread fun t =>
    { t with pending := t.pending ++ [⟨id, reg, val, ready, s.cur.pc, s.cur.vt, raised, traps, none⟩] }

/-- The rotation of a VTICK. -/
def rotation (vt : Nat) : Nat := vt / 8 * 8

/-- The VTICK of the rotation from which a result of latency l is read (R31). -/
def State.readyAt (s : State) (l : Nat) : Nat := rotation s.cur.vt + 8 * l

/-- The thread of the open bundle begins to wait (R38), unless its bundle retires it. -/
def State.beginWait (s : State) (k : WaitKind) : State :=
  if s.thread.phase == .vacant then s
  else s.modThread fun t => { t with phase := .waiting ⟨k, s.cur.pc, s.cur.vt, none⟩ }

/-- Start a long operation on a scalar destination with latency l (R31); s0 discards it (R55). -/
def State.longS (s : State) (d : SReg) (v : Word) (l : Nat) : State :=
  let (id, s) := s.newId
  let q := physS s.cur.pre.rrb d
  s.addPending (if q.val = 0 then none else some (.s q)) (.scalar v) (some (s.readyAt l)) [] false id

/-! ## FPCTL -/

/-- OR raised classes into the sticky flags (R202): bits NV, DZ, OF, UF, NX from 4 down to 0. -/
def Thread.orFlags (t : Thread) (c : BitVec 5) : Thread := { t with fpctl := t.fpctl ||| c.zeroExtend 64 }

/-- The enabled classes (Table 8-9, bits 20:16). -/
def fpEnables (fpctl : Word) : BitVec 5 := BitVec.ofNat 5 (bitsNat fpctl 20 16)

/-- FPCTL.RM as a mode (Table 8-9, bits 31:29); it is never 6 or 7. -/
def fpMode (fpctl : Word) : Rnd := (Rnd.ofCode (bitsNat fpctl 31 29)).getD .rne

/-- The mode of a rounding field: DYN selects FPCTL.RM at D (R191). -/
def State.mode (s : State) (r : Rnd) : Rnd := if r = .dyn then fpMode s.cur.pre.fpctl else r

/-! ## Team facts -/

/-- The logical index of the focused core. -/
def State.lidx (s : State) : Nat := s.core.key.lidx
/-- Cores of the team's rectangle on a die, N of R74. -/
def Record.rect (r : Record) : Nat := r.m * r.n
/-- Cores of the whole team, TSIZE. -/
def Record.tsize (r : Record) : Nat := r.m * r.n * r.d * (r.npkg + 1)
/-- Rank of the rectangle that holds a logical index (R26). -/
def Record.rankOf (r : Record) (lidx : Nat) : Nat := lidx / Nat.max r.rect 1
/-- Index within the die's rectangle. -/
def Record.local (r : Record) (lidx : Nat) : Nat := lidx % Nat.max r.rect 1
def Record.lx (r : Record) (lidx : Nat) : Nat := r.local lidx % Nat.max r.m 1
def Record.ly (r : Record) (lidx : Nat) : Nat := r.local lidx / Nat.max r.m 1
/-- Links between two cores of one rectangle (R110). -/
def Record.hops (r : Record) (a b : Nat) : Nat :=
  let d (x y : Nat) := (x - y) + (y - x)
  d (r.lx a) (r.lx b) + d (r.ly a) (r.ly b)

/-- A wait whose condition fails does not trap: in an elastic team (R41), and where a debugger's stop comes before the
bundle's E3 (R361). -/
def State.mayWait (s : State) : Bool :=
  s.record.elastic || (match s.cur.pre.stopAsked with
    | some b => decide (b ≤ s.core.vx)
    | none => false)

/-! ## Frames out -/

/-- Send a frame on a lane with the next SEQ of that lane (R410). -/
def State.sendFrame (s : State) (lane : Fin 2) (type : Nat) (resp : Bool) (slice asid status : Nat)
    (seq : Option Nat) (addr : Nat) (payload : List Word) : State :=
  let q := match seq with | some n => n | none => s.seqOut[lane.val]
  let hdr := pack [(4, type), (1, b2n resp), (3, slice), (16, asid), (8, status), (32, q), (10, payload.length), (2, 0),
    (52, addr)]
  { s with out := ⟨lane, BitVec.ofNat 128 hdr, payload⟩ :: s.out,
           seqOut := if seq.isNone then s.seqOut.set lane.val ((q + 1) % 2 ^ 32) else s.seqOut }

/-- An EVENT of Table 23-3 on lane 0: code in bits 63:56 and the context number in bits 31:0 of the first word; more is in
the middle bits or in further words (log 23). SLICE is the context's, for the codes that name one (Table 23-1). -/
def State.sendEvent (s : State) (code ctx mid : Nat) (more : List Word) : State :=
  s.sendFrame 0 3 false (if code ≤ 6 then (s.recordOf ctx).slice else 0) 0 0 none 0
    (BitVec.ofNat 64 (code * 2 ^ 56 + mid % 2 ^ 24 * 2 ^ 32 + ctx % 2 ^ 32) :: more)

/-- A fabric port of a hub die that no lasting fault has removed: a removed one carries no traffic, nor PTP (R465, R467; log 69). -/
def State.portUp (s : State) (hub : Fin 2) (port : Fin 16) : Bool :=
  !s.firm.removals.contains (BitVec.ofNat 32 (3 * 2 ^ 28 + (8 + hub.val) * 2 ^ 24 + (16 * hub.val + port.val)))

/-- The response to a frame: same lane, SEQ, TYPE and SLICE (R410). -/
def State.respond (s : State) (f : Frame) (status : Nat) (payload : List Word) : State :=
  let window := f.type = 1 || f.type = 2
  s.sendFrame f.lane f.type true f.slice (if window then f.asid else 0) status (some f.seq) (if window then f.addr else 0) payload

/-! ## Charges (R349, R350, R362) -/

/-- The code of a cause (Table 16-1). -/
def Cause.code : Cause → Fin 16
  | .issue => 0 | .null => 1 | .waitObject => 2 | .waitMail => 3 | .waitRecv => 4 | .waitWire => 5 | .waitTick => 6
  | .waitQueue => 7 | .hold => 8 | .trapEntry => 9 | .debugHalt => 10 | .freeze => 11 | .vacant => 12
  | .notResident => 13 | .faultPark => 14

/-- Record a finished episode of d rotations (R362). -/
def Monitor.add (m : Monitor) (d : Nat) : Monitor :=
  let b : Fin 16 := Fin.ofNat 16 (Nat.min (Nat.log2 (Nat.max d 1)) 15)
  let first := m.buckets.toList.all (· == 0)
  let sat (n : Nat) := BitVec.ofNat 32 (Nat.min n (2 ^ 32 - 1))
  { min := if first then sat d else if d < m.min.toNat then sat d else m.min,
    max := if d > m.max.toNat then sat d else m.max,
    buckets := m.buckets.set b.val (sat (m.buckets[b.val].toNat + 1)) }

/-- End the slot's wait episode, if one is in progress. -/
def Core.endEpisode (c : Core) (t : Fin 8) : Core :=
  match c.slots[t.val].episode with
  | none => c
  | some (cause, d) =>
    let i := cause.code.val - 2
    let c := c.modSlot t fun th => { th with episode := none }
    if h : 2 ≤ cause.code.val ∧ i < 7 then
      { c with monitors := c.monitors.set i (c.monitors[i].add d) }
    else c

/-- A cycle of a slot is charged to one cause and one PC (R349); episodes of causes 2 to 8 are counted, FREEZE and
NOT_RESIDENT rotations left out of them (R362). -/
def Core.charge (c : Core) (t : Fin 8) (cause : Cause) (pc : Option Pc) : Core :=
  let th := c.slots[t.val]
  let keep := cause == .freeze || cause == .notResident
  let same := match th.episode with
    | some (k, _) => k == cause
    | none => false
  let c := if keep || same then c else c.endEpisode t
  let isWait := decide (2 ≤ cause.code.val) && decide (cause.code.val ≤ 8)
  c.modSlot t fun th =>
    { th with acct := th.acct.set cause.code.val (th.acct[cause.code.val] + 1), lastCause := cause, lastPc := pc,
              episode := if keep then th.episode
                else if isWait then (match th.episode with
                  | some (k, d) => some (k, d + 1)
                  | none => some (cause, 1))
                else none }

end Sys2Proof.Machine
end

