-- ==== Sys2Proof/Machine/Align.lean ====
section
/-!
DEFINITION. The clocks of the dies, the alignment units and the PTP servo (R18, R156, R157, R158).
-/
namespace Sys2Proof.Machine

open Sys2Proof

/-! ## Clocks (R18, R156, R463) -/

/-- The time of a die's next edge, in millionths of a tick of 3.6 GHz. The package's time is the earliest of them. -/
def State.time (s : State) : Nat := (List.finRange 10).foldl (fun n d => Nat.min n (s.die d).edge) (s.die 0).edge

/-- What a die's copy of DTICK reads when the package's PTP clock reads now: less than one tick above it, and never less than before. -/
def Die.readDtick (x : Die) (now : Nat) : Die := { x with dtick := Nat.max x.dtick ((now + x.ahead) / million) }

/-- A cycle of the servo: it slews the PTP clock by what its latest offset asks for, by at most 250 ppm, which with a copy's own slewing
stays below 500 (R156, R157). -/
def Firm.discipline (x : Firm) : Firm :=
  let step := max (-250) (min 250 x.slew)
  { x with clock := x.clock + step, slew := x.slew - step }

/-- One cycle of a die's clock: its length is within 100 ppm of a tick, or of two at 1.8 GHz (R18); its copy of DTICK is slewed by less
than 250 ppm beside the PTP clock. The copies of all dies go on with that clock, whatever their own clocks do, so that any two read
within 2 ticks of each other at every instant (R156). See log 5. -/
def State.count (s : State) (d : Fin 10) : State :=
  let (n, s) := s.pick 200
  let (m, s) := s.pick 499
  let s := if d = 8 then s.modFirm Firm.discipline else s
  let now := ((s.die d).edge + s.firm.clock).toNat
  let s := s.modDie d fun x =>
    let len := (million - 99 + n) * (if x.slowClock then 2 else 1)
    { x with tick := x.tick + 1, edge := x.edge + len, ahead := Nat.min (x.ahead + m - 249) (million - 2000) }
  let s := { s with dies := s.dies.map fun (x : Die) => x.readDtick now }
  let f := s.firm
  s.modDie d fun x => { x with dhist := (x.dtick :: x.dhist).take 16, alignHist := (alignctl x f :: x.alignHist).take 4 }

/-! ## Alignment (R158) -/

/-- Signed rate against the slowest die, in 1/64 ppm, rounded to nearest with ties away from 0, from two counts that began together;
no rate of R18 exceeds 200 ppm. -/
def alignRate (own slow : Nat) : Int :=
  let d := if slow ≤ own then own - slow else slow - own
  let m : Nat := if slow = 0 then 0 else Nat.min ((2 * d * 64 * million + slow) / (2 * slow)) 12800
  if slow ≤ own then m else -(m : Int)

/-- The lowest estimate's index, the lowest of equals (Table 6-5). -/
def slowest (est : List Nat) : Nat := est.findIdx fun e => est.all fun x => decide (e ≤ x)

/-- The ticks of a die and of the slowest compute die since both counts began: the compute dies' TICKs began together (R156); a hub
die's counts from the start pulse or its clock switch, and at 1.8 GHz a service core's cycle is two of its die's (R463; log 5). -/
def Die.ratePair (x : Die) (d : Fin 10) (est : List Nat) (slow : Nat) : Nat × Nat :=
  if d.val < 8 then (est.getD d.val 0, est.getD slow 0)
  else ((x.tick - x.rateFrom.1) * (if x.slowClock then 2 else 1), est.getD slow 0 - x.rateFrom.2.getD slow 0)

/-- A die's alignment unit has taken stamps: its estimate of each compute die's TICK lags by 0 or 1, freely (R158; log 5). SLOW and
RATE follow from the estimates. -/
def State.takeStamps (s : State) (die : Fin 10) : State :=
  let (lags, s) := (List.range 8).foldl (fun (p : List Nat × State) d =>
    let (e, t) := p.2.pick 2
    (p.1 ++ [if d = die.val then 0 else e], t)) ([], s)
  let est := (List.finRange 8).map fun d => (s.die (Fin.ofNat 10 d.val)).tick - lags.getD d.val 0
  let slow := slowest est
  s.modDie die fun d =>
    let (own, low) := d.ratePair die est slow
    { d with estimates := lags, stampAt := d.tick, alock := true, slow := BitVec.ofNat 4 slow
             rate := BitVec.ofInt 16 (alignRate own low), errb := 2 }

/-- Every 4,096 ticks a die's alignment unit exchanges stamps. -/
def execAlignStampExchange (die : Fin 10) (s : State) : Out :=
  .next (if (s.die die).tick % 4096 == 0 then s.takeStamps die else s)

/-! ## PTP (R157) -/

/-- A port's timestamp unit after a message that was stamped with a DTICK: the delay of its link is half of what the exchange took
beside the peer's own time. -/
def PtpPort.stamp (p : PtpPort) (m : PtpMessage) (now : Nat) : PtpPort :=
  match m with
  | .request => { p with asked := some now }
  | .response held =>
    match p.asked with
    | some t => { p with asked := none, delay := (now - t - held) / 2 }
    | none => p
  | .sync none => { p with came := some now }
  | .sync (some _) => { p with came := none }
  | .followUp _ => { p with came := none }
  | .syncLeaves => { p with left := some now }
  | .peerRequest => { p with peer := some now }
  | .responseLeaves => { p with peer := none }

/-- What a port sends after a message of its own has left (two-step on transmit). -/
def PtpPort.sends (p : PtpPort) (m : PtpMessage) (now : Nat) : Option PtpSent :=
  match m with
  | .syncLeaves => some (.followUp now)
  | .responseLeaves => p.peer.map fun t => .held (now - t)
  | _ => none

/-- The offset from the grandmaster that a message shows: its stamp less its origin time and the link's delay. -/
def PtpPort.offset (p : PtpPort) (m : PtpMessage) (now : Nat) : Option Int :=
  match m with
  | .sync (some origin) => some ((now : Int) - origin - p.delay)
  | .followUp origin => p.came.map fun t => (t : Int) - origin - p.delay
  | _ => none

/-- A PTP message is stamped with DTICK at one of the 32 ports. PLOCK is 1 while the servo has settled and the offset is within 36
ticks, half of the 72 of R164; SKEWB is no less than the offset, 0 on the grandmaster, 255 without PLOCK (Table 6-5). A new offset is
what the servo slews DTICK by. See log 99. -/
def execPtpTimestamp (hub : Fin 2) (rep : PtpReport) (s : State) : Out :=
  let now := (s.die (Fin.ofNat 10 (8 + hub.val))).dtick
  let n : Fin 32 := Fin.ofNat 32 (16 * hub.val + rep.port.val)
  let port := s.firm.ptp[n.val]
  let seen := if rep.grandmaster then some 0 else port.offset rep.message now
  let off : Int := seen.getD s.firm.offset
  let slew : Int := seen.elim s.firm.slew fun o => -(o * million)
  let lock := rep.plock && decide (off.natAbs ≤ 36)
  let skew : Byte := if !lock then 255 else if rep.grandmaster then 0 else BitVec.ofNat 8 (Nat.min 255 (Nat.max rep.skewb.toNat off.natAbs))
  .next (if !s.portUp hub rep.port then s
    else s.modFirm fun f =>
      { f with ptp := f.ptp.set n.val (port.stamp rep.message now), offset := off, slew := slew, plock := lock, skewb := skew
               ptpOut := (port.sends rep.message now).toList.map (fun m => (n.val, m)) ++ f.ptpOut })

end Sys2Proof.Machine
end

