-- ==== Sys2Proof/Machine/Flags.lean ====
section
/-!
DEFINITION. Floating-point formats, exact arithmetic, the one rounding function and every flag it raises (R180 to R203).
The five classes are a 5-bit word, NV DZ OF UF NX from bit 4 down, as FPCTL holds them (Table 8-9).
-/
namespace Sys2Proof.Machine

open Sys2Proof

abbrev Classes := BitVec 5
def clsNV : Classes := 16
def clsDZ : Classes := 8
def clsOF : Classes := 4
def clsUF : Classes := 2
def clsNX : Classes := 1

/-! ## Formats (Tables 8-2 and 8-3) -/

/-- Exponent width, fraction width, bias, largest normal exponent field, largest fraction there. -/
structure FpParams where
  ew : Nat
  mw : Nat
  bias : Int
  emax : Nat
  mmax : Nat
  deriving DecidableEq, Repr

/-- Table 8-2; a format that is not floating-point is given FP64's row and never used with it. -/
def fpParams : Fmt → FpParams
  | .fp32 => ⟨8, 23, 127, 254, 2 ^ 23 - 1⟩
  | .fp16 => ⟨5, 10, 15, 30, 2 ^ 10 - 1⟩
  | .bf16 => ⟨8, 7, 127, 254, 2 ^ 7 - 1⟩
  | .e4m3 => ⟨4, 3, 7, 15, 6⟩
  | .e5m2 => ⟨5, 2, 15, 30, 3⟩
  | .e2m1 => ⟨2, 1, 1, 3, 1⟩
  | _ => ⟨11, 52, 1023, 2046, 2 ^ 52 - 1⟩

/-- The smallest normal exponent (Table 8-2). -/
def FpParams.emin (p : FpParams) : Int := 1 - p.bias

/-- A decoded value: (−1)^neg · m · 2^e when finite. -/
inductive FVal where
  | nan
  | inf (neg : Bool)
  | fin (neg : Bool) (m : Nat) (e : Int)
  deriving DecidableEq, Repr

/-- The sign bit of an encoding. -/
def fpSign (f : Fmt) (x : Nat) : Bool := x / 2 ^ (f.width - 1) % 2 = 1

/-- Decode an element (R182, R183). -/
def fpDecode (f : Fmt) (x : Nat) : FVal :=
  let p := fpParams f
  let s := fpSign f x
  let e := x / 2 ^ p.mw % 2 ^ p.ew
  let m := x % 2 ^ p.mw
  let top := e = 2 ^ p.ew - 1
  match f with
  | .e4m3 => if top ∧ m = 7 then .nan
      else if e = 0 then .fin s m (p.emin - p.mw) else .fin s (2 ^ p.mw + m) (e - p.bias - p.mw)
  | .e2m1 => if e = 0 then .fin s m (p.emin - p.mw) else .fin s (2 ^ p.mw + m) (e - p.bias - p.mw)
  | _ => if top then (if m = 0 then .inf s else .nan)
      else if e = 0 then .fin s m (p.emin - p.mw) else .fin s (2 ^ p.mw + m) (e - p.bias - p.mw)

/-- The canonical NaN (Table 8-3); +0 where the format has none (Table 8-6). -/
def canonNaN : Fmt → Nat
  | .fp64 => 0x7FF8000000000000 | .fp32 => 0x7FC00000 | .fp16 => 0x7E00 | .bf16 => 0x7FC0 | .e4m3 => 0x7F
  | .e5m2 => 0x7E | _ => 0

/-- The sign bit of a result. -/
def fpSignBit (f : Fmt) (neg : Bool) : Nat := if neg then 2 ^ (f.width - 1) else 0

/-- ±∞ of a format that has infinities. -/
def fpInf (f : Fmt) (neg : Bool) : Nat :=
  let p := fpParams f
  fpSignBit f neg + (2 ^ p.ew - 1) * 2 ^ p.mw

/-- ±MAX (Table 8-3). -/
def fpMax (f : Fmt) (neg : Bool) : Nat :=
  let p := fpParams f
  fpSignBit f neg + p.emax * 2 ^ p.mw + p.mmax

/-- R194: NaN into a floating-point format. -/
def convNaN (f : Fmt) : Nat × Classes := (canonNaN f, if f = .e2m1 then clsNV else 0)

/-- R194: ±∞ into a floating-point format. -/
def convInf (f : Fmt) (neg : Bool) : Nat × Classes :=
  match f with
  | .e4m3 | .e2m1 => (fpMax f neg, clsNV)
  | _ => (fpInf f neg, 0)

/-! ## Exact values -/

/-- An exact result: NaN, ±∞, or (−1)^neg · num/den · 2^exp; a zero carries its sign (R190). -/
inductive Exact where
  | nan
  | inf (neg : Bool)
  | val (neg : Bool) (num den : Nat) (exp : Int)
  deriving DecidableEq, Repr

/-- 2^i for a natural or negative i, as numerator and denominator factors. -/
def pow2Num (i : Int) : Nat := 2 ^ i.toNat
def pow2Den (i : Int) : Nat := 2 ^ (-i).toNat

/-- Floor(Log2(num/den)) for positive num and den. -/
def floorLog2 (num den : Nat) : Int :=
  let l : Int := (Nat.log2 num : Int) - Nat.log2 den
  if num * pow2Den l ≥ den * pow2Num l then l else l - 1

/-- The increment decision of R192; f = rem/den is the discarded fraction, r the 32 bits of Hash64. -/
def roundUp (mode : Rnd) (neg : Bool) (lo rem den r : Nat) : Bool :=
  match mode with
  | .rne | .dyn => 2 * rem > den || (2 * rem = den && lo % 2 = 1)
  | .rna => 2 * rem ≥ den
  | .rtz => false
  | .rup => rem ≠ 0 && !neg
  | .rdn => rem ≠ 0 && neg
  | .sr => rem * 2 ^ 32 / den + r ≥ 2 ^ 32

/-- Overflow(fmt, s, mode) of R195; ieee says whether the IEEE row applies. -/
def fpOverflow (f : Fmt) (neg : Bool) (mode : Rnd) (inf : Bool) : Nat :=
  let ieee := match f with
    | .fp64 | .fp32 | .fp16 | .bf16 => true
    | .e5m2 => inf
    | _ => false
  if !ieee then fpMax f neg
  else match mode with
    | .rtz => fpMax f neg
    | .rup => if neg then fpMax f neg else fpInf f neg
    | .rdn => if neg then fpInf f neg else fpMax f neg
    | _ => fpInf f neg

/-- RoundTo (R192): the encoding and the classes raised. r is Hash64[31:0] for SR; inf the .INF option of E5M2. -/
def roundTo (f : Fmt) (x : Exact) (mode : Rnd) (r : Nat) (inf : Bool) : Nat × Classes :=
  match x with
  | .nan => convNaN f
  | .inf s => convInf f s
  | .val s num den exp =>
    if num = 0 then (fpSignBit f s, 0) else
    let p := fpParams f
    let l := floorLog2 num den + exp
    let q := (if l ≥ p.emin then l else p.emin) - p.mw
    let n := num * pow2Num (exp - q)
    let d := den * pow2Den (exp - q)
    let lo := n / d
    let rem := n % d
    let k := if roundUp mode s lo rem d r then lo + 1 else lo
    let k' := if k = 2 ^ (p.mw + 1) then 2 ^ p.mw else k
    let q' := if k = 2 ^ (p.mw + 1) then q + 1 else q
    let e : Int := if k' < 2 ^ p.mw then 0 else q' + p.mw + p.bias
    let m := if k' < 2 ^ p.mw then k' else k' - 2 ^ p.mw
    let nx : Classes := if rem ≠ 0 then clsNX else 0
    let uf : Classes := if rem ≠ 0 ∧ l < p.emin then clsUF else 0
    if e > p.emax ∨ (e = p.emax ∧ m > p.mmax) then (fpOverflow f s mode inf, clsOF ||| clsNX ||| uf)
    else (fpSignBit f s + e.toNat * 2 ^ p.mw + m, nx ||| uf)

/-! ## Sums and products (R190, R197, R198) -/

/-- The exact product of two operands and INVALID for 0 × ∞. See log 38. -/
def fpMul : FVal → FVal → FVal × Classes
  | .nan, _ => (.nan, 0)
  | _, .nan => (.nan, 0)
  | .inf s, .inf t => (.inf (s != t), 0)
  | .inf s, .fin t m _ => if m = 0 then (.nan, clsNV) else (.inf (s != t), 0)
  | .fin s m _, .inf t => if m = 0 then (.nan, clsNV) else (.inf (s != t), 0)
  | .fin s m e, .fin t n f => (.fin (s != t) (m * n) (e + f), 0)

def FVal.neg : FVal → FVal
  | .nan => .nan
  | .inf s => .inf (!s)
  | .fin s m e => .fin (!s) m e

/-- A signed dyadic term over 2^e0. -/
def scaled (e0 : Int) : FVal → Int
  | .fin s m e => (if s then -1 else 1) * (m * pow2Num (e - e0) : Nat)
  | _ => 0

/-- The least exponent among nonzero finite terms. -/
def leastExp : List FVal → Int → Int
  | [], e0 => e0
  | .fin _ m e :: ts, e0 => leastExp ts (if m ≠ 0 ∧ e < e0 then e else e0)
  | _ :: ts, e0 => leastExp ts e0

def FVal.isNaN : FVal → Bool | .nan => true | _ => false
def FVal.isInf (neg : Bool) : FVal → Bool | .inf s => s == neg | _ => false
def FVal.isZero : FVal → Bool | .fin _ m _ => m == 0 | _ => false
def FVal.isNegZero : FVal → Bool | .fin s m _ => s && m == 0 | _ => false

/-- The exact sum of terms and INVALID for +∞ with −∞; a zero sum takes the sign of R190. -/
def fpSum (ts : List FVal) (mode : Rnd) : Exact × Classes :=
  let clash := ts.any (FVal.isInf false) && ts.any (FVal.isInf true)
  if clash then (.nan, clsNV)
  else if ts.any FVal.isNaN then (.nan, 0)
  else if ts.any (FVal.isInf false) then (.inf false, 0)
  else if ts.any (FVal.isInf true) then (.inf true, 0)
  else
    let e0 := leastExp ts 0
    let n := (ts.map (scaled e0)).foldl (· + ·) 0
    if n = 0 then
      if ts.all FVal.isNegZero then (.val true 0 1 0, 0)
      else (.val (mode == .rdn) 0 1 0, 0)
    else (.val (n < 0) n.natAbs 1 e0, 0)

/-- A value as an exact result. -/
def FVal.exact : FVal → Exact
  | .nan => .nan
  | .inf s => .inf s
  | .fin s m e => .val s m 1 e

/-- The exact quotient (R267). -/
def fpDivide : FVal → FVal → Exact × Classes
  | .nan, _ => (.nan, 0)
  | _, .nan => (.nan, 0)
  | .inf _, .inf _ => (.nan, clsNV)
  | .inf s, .fin t _ _ => (.inf (s != t), 0)
  | .fin s _ _, .inf t => (.val (s != t) 0 1 0, 0)
  | .fin s m e, .fin t n f =>
    if n = 0 then (if m = 0 then (.nan, clsNV) else (.inf (s != t), clsDZ))
    else (.val (s != t) m n (e - f), 0)

/-! ## Roots, powers and logarithms, correctly rounded (R268)

An irrational result is given by the exact rational halfway between two neighbours of a grid far finer than any rounding
decision of R192, so that it rounds as the true value does. -/

/-- Bits of the fine grid below the leading bit: past 53 bits of fraction and the 32 bits that SR compares. -/
def fineBits : Nat := 100

/-- ⌊√n⌋, one result bit for each unit of fuel. -/
def isqrtAux (n : Nat) : Nat → Nat → Nat
  | 0, r => r
  | k + 1, r => isqrtAux n k (if (r + 2 ^ k) * (r + 2 ^ k) ≤ n then r + 2 ^ k else r)

def isqrt (n : Nat) : Nat := isqrtAux n (Nat.log2 n / 2 + 1) 0

/-- √(num/den · 2^exp) for positive num and den. -/
def exactSqrt (num den : Nat) (exp : Int) : Exact :=
  let odd := exp % 2 ≠ 0
  let num := if odd then num * 2 else num
  let exp := if odd then exp - 1 else exp
  let k := fineBits + Nat.log2 den
  let n := num * 2 ^ (2 * k) / den
  let r := isqrt n
  if r * r * den = num * 2 ^ (2 * k) then .val false r 1 (exp / 2 - k)
  else .val false (2 * r + 1) 1 (exp / 2 - k - 1)

/-- Special operands of VSQRT (Table 12-3). -/
def fpSqrt : FVal → Exact × Classes
  | .nan => (.nan, 0)
  | .inf s => if s then (.nan, clsNV) else (.inf false, 0)
  | .fin s m e => if m = 0 then (.val s 0 1 0, 0) else if s then (.nan, clsNV) else (exactSqrt m 1 e, 0)

/-- VRCP. -/
def fpRcp : FVal → Exact × Classes
  | .nan => (.nan, 0)
  | .inf s => (.val s 0 1 0, 0)
  | .fin s m e => if m = 0 then (.inf s, clsDZ) else (.val s 1 m (-e), 0)

/-- VRSQ. -/
def fpRsq : FVal → Exact × Classes
  | .nan => (.nan, 0)
  | .inf s => if s then (.nan, clsNV) else (.val false 0 1 0, 0)
  | .fin s m e =>
    if m = 0 then (.inf s, clsDZ) else if s then (.nan, clsNV) else (exactSqrt 1 m (-e), 0)

/-- Lower and upper bounds of 2^f · 2^prec from the leading bits of f, highest first: root i of the tower bounds 2^(2^−i), and
the last root bounds what the bits left out add. -/
def pow2Bounds (prec : Nat) : List Bool → Nat → Nat → Nat → Nat → Nat × Nat
  | [], _, rhi, lo, hi => (lo, hi * rhi / 2 ^ prec + 1)
  | b :: bs, rlo, rhi, lo, hi =>
    let qlo := isqrt (rlo * 2 ^ prec)
    let qhi := isqrt (rhi * 2 ^ prec) + 1
    if b then pow2Bounds prec bs qlo qhi (lo * qlo / 2 ^ prec) (hi * qhi / 2 ^ prec + 1)
    else pow2Bounds prec bs qlo qhi lo hi

/-- The bits of num/2^d, highest first, n of them. -/
def fracBits (num d : Nat) : Nat → List Bool
  | 0 => []
  | n + 1 => fracBits num d n ++ [num * 2 ^ (n + 1) / 2 ^ d % 2 == 1]

/-- The largest t below 2^n + acc with t^(2^d) ≤ bound: the exact meaning of ⌊2^f · 2^k⌋. -/
def powSearch (bound d : Nat) : Nat → Nat → Nat
  | 0, acc => acc
  | n + 1, acc => powSearch bound d n (if (acc + 2 ^ n) ^ 2 ^ d ≤ bound then acc + 2 ^ n else acc)

/-- ⌊2^(num/2^d) · 2^k⌋ for 0 < num < 2^d: by bounds when they agree, and by its exact meaning otherwise. -/
def floorPow2 (num d k : Nat) : Nat :=
  let prec := 2 * k + 40
  let b := pow2Bounds prec (fracBits num d (k + 40)) (2 ^ (prec + 1)) (2 ^ (prec + 1)) (2 ^ prec) (2 ^ prec)
  let lo := b.1 / 2 ^ (prec - k)
  let hi := b.2 / 2 ^ (prec - k)
  if lo = hi then lo else powSearch (2 ^ (k * 2 ^ d + num)) d (k + 1) 0

/-- VEXP2 (Table 12-3): 2^x exactly for an integer x, otherwise the fine-grid stand-in; far outside every format the
exponent is clamped, which rounds alike. -/
def fpExp2 : FVal → Exact × Classes
  | .nan => (.nan, 0)
  | .inf s => if s then (.val false 0 1 0, 0) else (.inf false, 0)
  | .fin s m e =>
    if m = 0 then (.val false 1 1 0, 0) else
    let big := floorLog2 m 1 + e ≥ 14
    if big then (if s then (.val false 1 1 (-20001), 0) else (.val false 1 1 20001, 0))
    else if floorLog2 m 1 + e < -(fineBits : Int) - 4 then
      -- |x| below the grid: the result lies just above or just below 1
      if s then (.val false (2 ^ (fineBits + 1) - 1) 1 (-(fineBits : Int) - 1), 0)
      else (.val false (2 ^ (fineBits + 1) + 1) 1 (-(fineBits : Int) - 1), 0)
    else
      let d := (-e).toNat
      let n := m * pow2Num e
      let v : Int := if s then -(n : Int) else n
      let ip := v / (2 ^ d : Nat)
      let fr := (v % (2 ^ d : Nat)).toNat
      if fr = 0 then (.val false 1 1 ip, 0)
      else (.val false (2 * floorPow2 fr d fineBits + 1) 1 (ip - fineBits - 1), 0)

/-- Lower and upper bounds of bits of log2 y, by squaring y; one bit for each unit of fuel; none when the bounds part. -/
def logBits (prec : Nat) : Nat → Nat → Nat → Nat → Option Nat
  | 0, _, _, acc => some acc
  | k + 1, lo, hi, acc =>
    let l := lo * lo / 2 ^ prec
    let h := hi * hi / 2 ^ prec + 1
    if l ≥ 2 ^ (prec + 1) then logBits prec k (l / 2) (h / 2 + 1) (2 * acc + 1)
    else if h < 2 ^ (prec + 1) then logBits prec k l h (2 * acc)
    else none

/-- ⌊log2(m) · 2^k⌋ for m > 0. -/
def floorLog (m k : Nat) : Nat :=
  let n := Nat.log2 m
  let prec := 2 * k + 64 + n
  let y := m * 2 ^ (prec - n)
  match logBits prec k y y 0 with
  | some b => n * 2 ^ k + b
  | none => Nat.log2 (m ^ 2 ^ k)

/-- VLOG2 (Table 12-3): exact at powers of two, +0 at 1. -/
def fpLog2 : FVal → Exact × Classes
  | .nan => (.nan, 0)
  | .inf s => if s then (.nan, clsNV) else (.inf false, 0)
  | .fin s m e =>
    if m = 0 then (.inf true, clsDZ) else if s then (.nan, clsNV) else
    let n := Nat.log2 m
    if m = 2 ^ n then
      let v : Int := e + n
      (.val (v < 0) v.natAbs 1 0, 0)
    else
      let k := 2 * fineBits
      let v : Int := 2 * (floorLog m k + e * (2 ^ k : Nat)) + 1
      (.val (v < 0) v.natAbs 1 (-(k : Int) - 1), 0)

/-! ## Stochastic rounding (R193) -/

def mix (z : BitVec 64) : BitVec 64 :=
  let z := (z ^^^ (z >>> 30)) * 0xBF58476D1CE4E5B9
  let z := (z ^^^ (z >>> 27)) * 0x94D049BB133111EB
  z ^^^ (z >>> 31)

/-- Hash64(seed, lidx, thr, vt, lane). -/
def hash64 (seed : BitVec 64) (lidx thr : Nat) (vt : BitVec 64) (lane : Nat) : BitVec 64 :=
  let a := mix ((seed + 0x9E3779B97F4A7C15) ^^^ vt)
  let m := BitVec.ofNat 64 (lidx % 2 ^ 32 * 2 ^ 32 + thr % 8 * 2 ^ 8 + lane % 256)
  mix (a ^^^ m)

/-! ## Comparisons, minimum and maximum (R269, R270) -/

/-- Order of two values that are not NaN; −0 equals +0. -/
def fpLess : FVal → FVal → Bool
  | .nan, _ => false
  | _, .nan => false
  | .inf s, .inf t => s && !t
  | .inf s, .fin _ _ _ => s
  | .fin _ _ _, .inf t => !t
  | a@(.fin _ _ _), b@(.fin _ _ _) =>
    let e0 := leastExp [a, b] 0
    scaled e0 a < scaled e0 b

def fpEqual : FVal → FVal → Bool
  | .nan, _ => false
  | _, .nan => false
  | .inf s, .inf t => s == t
  | .inf _, .fin _ _ _ => false
  | .fin _ _ _, .inf _ => false
  | a@(.fin _ _ _), b@(.fin _ _ _) =>
    let e0 := leastExp [a, b] 0
    scaled e0 a == scaled e0 b

/-- VCMP on floating-point lanes: the bit, and INVALID of a signalling code on a NaN (R270). -/
def fpCompare (c : Cond) (a b : FVal) : Bool × Classes :=
  let un := a.isNaN || b.isNaN
  let sig : Classes := if un then clsNV else 0
  match c with
  | .eq => (fpEqual a b, 0)
  | .ne => (!fpEqual a b, 0)
  | .lt => (fpLess a b, sig)
  | .ge => (!un && !fpLess a b, sig)
  | .le => (!un && !fpLess b a, sig)
  | .gt => (fpLess b a, sig)
  | .un => (un, 0)
  | .ord => (!un, 0)
  | _ => (false, 0)

/-- −0 orders below +0 (R269). -/
def fpBelow (f : Fmt) (x y : Nat) : Bool :=
  let a := fpDecode f x
  let b := fpDecode f y
  fpLess a b || (a.isZero && b.isZero && fpSign f x && !fpSign f y)

/-- VMIN and VMAX: a NaN operand gives the canonical NaN; nothing is raised. -/
def fpMinMax (f : Fmt) (max : Bool) (x y : Nat) : Nat :=
  if (fpDecode f x).isNaN || (fpDecode f y).isNaN then canonNaN f
  else if max then (if fpBelow f x y then y else x)
  else (if fpBelow f y x then y else x)

/-- A NaN made canonical, any other value as it is (R186). -/
def fpCanon (f : Fmt) (x : Nat) : Nat := if (fpDecode f x).isNaN then canonNaN f else x

/-! ## Integers (R189) -/

/-- The value of an integer element. -/
def intVal (f : Fmt) (x : Nat) : Int :=
  if f.isSigned then (BitVec.ofNat f.width x).toInt else ((x % 2 ^ f.width : Nat) : Int)

def intMin (f : Fmt) : Int := if f.isSigned then -((2 ^ (f.width - 1) : Nat) : Int) else 0
def intMax (f : Fmt) : Int := if f.isSigned then ((2 ^ (f.width - 1) : Nat) : Int) - 1 else ((2 ^ f.width : Nat) : Int) - 1

/-- The low w bits of an integer. -/
def intBits (f : Fmt) (x : Int) : Nat := (x % (2 ^ f.width : Nat)).toNat

/-- SatTo(fmt, x). -/
def satTo (f : Fmt) (x : Int) : Int := if x < intMin f then intMin f else if x > intMax f then intMax f else x

/-- The result of an integer operation: SatTo or wrapped (R189). -/
def intResult (f : Fmt) (sat : Bool) (x : Int) : Nat := intBits f (if sat then satTo f x else x)

/-! ## Conversions (R194, R196, R274) -/

/-- A floating-point value to an integer format (R196). -/
def fpToInt (f : Fmt) (x : FVal) (mode : Rnd) (r : Nat) : Nat × Classes :=
  match x with
  | .nan => (0, clsNV)
  | .inf s => (intBits f (if s then intMin f else intMax f), clsNV)
  | .fin s m e =>
    let n := m * pow2Num e
    let d := pow2Den e
    let lo := n / d
    let rem := n % d
    let k := if roundUp mode s lo rem d r then lo + 1 else lo
    let v : Int := if s then -(k : Int) else k
    if v < intMin f ∨ v > intMax f then (intBits f (satTo f v), clsNV)
    else (intBits f v, if rem ≠ 0 then clsNX else 0)

/-- An integer value as an exact result; 0 is +0. -/
def intExact (x : Int) : Exact := .val (x < 0) x.natAbs 1 0

/-- One element converted (R274); opt is .INF or .SAT. -/
def convert (dst src : Fmt) (x : Nat) (mode : Rnd) (r : Nat) (opt : Bool) : Nat × Classes :=
  if dst = src then (if src.isFloat then fpCanon src x else x, 0)
  else if src.isFloat then
    if dst.isFloat then roundTo dst (fpDecode src x).exact mode r opt
    else fpToInt dst (fpDecode src x) mode r
  else if dst.isFloat then roundTo dst (intExact (intVal src x)) mode r opt
  else (intResult dst opt (intVal src x), 0)

/-! ## Block scales (R187, R188) -/

/-- An X8 scale as a power of two; none for the NaN scale. -/
def scaleExp (x : Nat) : Option Int := if x = 255 then none else some ((x : Int) - 127)

/-- A value times 2^k; NaN under a NaN scale. -/
def FVal.scale (k : Option Int) : FVal → FVal
  | .fin s m e => match k with | some i => .fin s m (e + i) | none => .nan
  | .inf s => match k with | some _ => .inf s | none => .nan
  | .nan => .nan

/-- The larger magnitude of two values. -/
def fpLarger (a b : FVal) : FVal :=
  match a, b with
  | .inf _, _ => a
  | _, .inf _ => b
  | .fin _ m e, .fin _ n f => if fpLess (.fin false m e) (.fin false n f) then b else a
  | _, _ => a

/-- ScaleFor (R188). -/
def scaleFor (xs : List FVal) : Nat :=
  if xs.any FVal.isNaN then 255 else
  match xs.foldl fpLarger (.fin false 0 0) with
  | .inf _ => 254
  | .nan => 255
  | .fin _ m e =>
    if m = 0 then 127
    else
      let k := floorLog2 m 1 + e - 2 + 127
      if k < 0 then 0 else if k > 254 then 254 else k.toNat

/-! ## Classification (R271) -/

/-- Whether an element is of a class (Table 12-4). -/
def fpClass (f : Fmt) (c : VClass) (x : Nat) : Bool :=
  let v := fpDecode f x
  let s := fpSign f x
  let e := x / 2 ^ (fpParams f).mw % 2 ^ (fpParams f).ew
  let norm := !v.isNaN && !v.isInf false && !v.isInf true && e != 0
  let subn := !v.isNaN && e == 0 && !v.isZero
  match c with
  | .nan => v.isNaN
  | .ninf => v.isInf true
  | .nnorm => norm && s
  | .nsub => subn && s
  | .nzero => v.isZero && s
  | .pzero => v.isZero && !s
  | .psub => subn && !s
  | .pnorm => norm && !s
  | .pinf => v.isInf false
  | .zero => v.isZero
  | .sub => subn
  | .inf => v.isInf false || v.isInf true
  | .finite => !v.isNaN && !v.isInf false && !v.isInf true
  | .neg => s && !v.isNaN

end Sys2Proof.Machine
end

