-- ==== Sys2Proof/Machine/Order.lean ====
section
/-!
DEFINITION. Physical memory and who owns it, dirty bits, watchpoints on a scratchpad, and what a write means to the requests and
timetables that it meets: the order of R94 and R117, the undefined bytes of R96, and R169's disarming.
-/
namespace Sys2Proof.Machine

open Sys2Proof

/-! ## Physical memory (R427, R443) -/

def gib : Nat := 2 ^ 30

/-- The translation control block of a slice. -/
def tcbBase (n : Nat) : Nat := 0x17FFF800000 + 0x100000 * n

/-- The physical ranges of Table 24-1: start and end. -/
def populated : List (Nat × Nat) :=
  (List.range 8).map (fun n => (n * 0x1000000000, n * 0x1000000000 + 48 * gib)) ++ [(0x8000000000, 0x18000000000)]

/-- The capacity share of a slice; the control blocks are in no share (Table 25-1). -/
def Slice.share (x : Slice) : List (Nat × Nat) :=
  [(0x8000000000 + x.cap0b * gib, 0x8000000000 + (x.cap0b + x.cap0n) * gib),
   (0x10000000000 + x.cap1b * gib, Nat.min (0x10000000000 + (x.cap1b + x.cap1n) * gib) (tcbBase 0))]

/-- The ranges that a slice owns (Table 25-1): none before it is configured. -/
def Slice.ranges (x : Slice) (n : Nat) : List (Nat × Nat) :=
  if x.dieMask = 0 then []
  else ((List.range 8).filter fun d => x.dieMask.getLsbD d).map (fun d => (d * 0x1000000000, d * 0x1000000000 + 48 * gib))
    ++ x.share ++ [(tcbBase n, tcbBase (n + 1))]

/-- Whether [a, e) lies in a union of ranges. -/
def covered (rs : List (Nat × Nat)) : Nat → Nat → Nat → Bool
  | 0, a, e => decide (e ≤ a)
  | n + 1, a, e =>
    if e ≤ a then true
    else match rs.find? fun r => decide (r.1 ≤ a) && decide (a < r.2) with
      | some r => covered rs n r.2 e
      | none => false

/-- A slice owns [a, a + n). -/
def State.owns (s : State) (sl : Fin 8) (a n : Nat) : Bool := covered ((s.slice sl).ranges sl.val) 16 a (a + n)

/-- The slice of a context, with its number in range. -/
def State.sliceOf (s : State) (k : CoreKey) : Fin 8 := Fin.ofNat 8 (s.recordOf k.ctx).slice

/-- 64-bit words of a slice's translation control block (Table 24-5). -/
def State.tcb (s : State) (sl : Fin 8) (off : Nat) : Nat := memRead s.mem (tcbBase sl.val + off) 8

/-- A write of the service firmware to physical memory. -/
def State.firmWrite (s : State) (a n v : Nat) : State := { s with mem := memWrite s.mem a n v }

def State.setTcb (s : State) (sl : Fin 8) (off v : Nat) : State := s.firmWrite (tcbBase sl.val + off) 8 v

def offFto : Nat := 0x80000
def offFlTail : Nat := 0x80008
def offFlHead : Nat := 0x80010
def offCmdTail : Nat := 0x80018
def offCmdDone : Nat := 0x80020
def offFaultLog : Nat := 0xA0000
def offDirty : Nat := 0xE0000
def offDbBase : Nat := 0xE0008
def offDseq : Nat := 0xE0018

/-- The aligned words that no port and no frame can write (R6): EN and ACTIVE, DSEQ, and in a fault-log record the three words that
hold RO fields alone (Tables 24-4 and 25-3). -/
def readOnlyWord (pa : Nat) : Bool :=
  (List.range 8).any fun n =>
    let o := pa / 8 * 8 - tcbBase n
    decide (tcbBase n ≤ pa) && (o == offDirty || o == offDseq
      || (decide (offFaultLog ≤ o) && decide (o < offDirty) && o / 8 % 4 != 3))

/-! ## Dirty bitmaps (R446, R447) -/

/-- A bitmap base that meets R446. -/
def State.bitmapOk (s : State) (sl : Fin 8) (i : Nat) : Bool :=
  let b := s.tcb sl (offDbBase + 8 * i)
  b % (4 * 2 ^ 20) == 0 && covered (s.slice sl).share 4 b (b + 4 * 2 ^ 20)

/-- The dirty bit of a granule of 64 KiB, in the bitmap that the port's own flip has reached (R449), unless the write is to a
bitmap. A base that does not meet R446 takes no bit (log 72). -/
def State.markDirty (s : State) (port : Fin 10) (sl : Fin 8) (pa : Nat) : State :=
  let i := b2n ((s.slice sl).ports.getLsbD port.val)
  let inMap (i : Nat) : Bool :=
    let b := s.tcb sl (offDbBase + 8 * i)
    decide (b ≤ pa) && decide (pa < b + 4 * 2 ^ 20)
  if (s.tcb sl offDirty).testBit 63 && s.bitmapOk sl i && !inMap 0 && !inMap 1 then
    let a := s.tcb sl (offDbBase + 8 * i) + pa / 2 ^ 16 / 8
    s.firmWrite a 1 (memRead s.mem a 1 ||| 2 ^ (pa / 2 ^ 16 % 8))
  else s

/-! ## Watchpoints (R360) -/

/-- WATCH after a write (Table 16-6): reserved bits stay 0, HITX is cleared by a written 1. -/
def watchWrite (old v : Word) : Word :=
  BitVec.ofNat 64 (bitsNat v 63 60 * 2 ^ 60 + b2n (bitAt old 59 && !bitAt v 59) * 2 ^ 59 + bitsNat v 58 54 * 2 ^ 54
    + bitsNat v 19 0)

/-- WATCH registers as an access in cycle x sees them: a write acts from its issue + 8 (R64, R258). -/
def Core.watchAt (c : Core) (x : Nat) : Vector Word 4 :=
  c.watchPend.foldl (fun w p => if p.1 + 8 ≤ x then w.set p.2.1.val (watchWrite w[p.2.1.val] p.2.2) else w) c.watch

/-- Let the WATCH writes stand that have taken effect by cycle x. -/
def Core.commitWatch (c : Core) (x : Nat) : Core :=
  { c with watch := c.watchAt x, watchPend := c.watchPend.filter fun p => !decide (p.1 + 8 ≤ x) }

/-- A watchpoint's region: base and size (R360). -/
def watchRegion (w : Word) : Nat × Nat :=
  let l := Nat.min (bitsNat w 58 54) 19
  (bitsNat w 19 0 / 2 ^ l * 2 ^ l, 2 ^ l)

/-- The first byte of [a, a + n) in a watchpoint's region that the access kind matches. -/
def watchHit (w : Word) (rd wr : Bool) (a n : Nat) : Option Nat :=
  let r := watchRegion w
  if bitAt w 63 && ((rd && bitAt w 61) || (wr && bitAt w 60)) && 0 < n && a < r.1 + r.2 && r.1 < a + n then some (Nat.max a r.1)
  else none

/-- The cycle whose WATCH registers an arrival finds: a core that has stopped has passed the W of all its bundles. -/
def Core.watchTime (c : Core) : Nat := if c.res == .running then c.vx else c.vx + 8

/-- A watchpoint has matched an arrival: HITX, in the value in force. -/
def Core.setHitx (c : Core) (i : Fin 4) : Core :=
  let c := c.commitWatch c.watchTime
  { c with watch := c.watch.set i.val (c.watch[i.val] ||| BitVec.twoPow 64 59) }

/-- HITX of the watchpoints that an arrival, an engine or the sequencer matches in a scratchpad, and EVENT 4 for each. An access of no
byte matches none. -/
def State.watchArrival (s : State) (k : CoreKey) (rd wr : Bool) (a n : Nat) : State :=
  match s.findCore k with
  | none => s
  | some c =>
    let now := c.watchAt c.watchTime
    (List.finRange 4).foldl (fun (s : State) i =>
      if (watchHit now[i.val] rd wr a n).isSome then
        let s := s.modCore k fun c => c.setHitx i
        s.sendEvent 4 k.ctx 0 [BitVec.ofNat 64 k.lidx, BitVec.ofNat 64 i.val]
      else s) s

/-! ## Spaces -/

/-- The space number of a core's scratchpad; 0 is global memory (R96). -/
def spaceOf (k : CoreKey) : Nat := k.ctx * 2 ^ 24 + k.lidx + 1

/-- The core of a scratchpad's space. -/
def coreOfSpace (n : Nat) : CoreKey := ⟨(n - 1) / 2 ^ 24, (n - 1) % 2 ^ 24⟩

/-- The eight bytes at a space and address. -/
def State.unitAt (s : State) (space a : Nat) : Nat :=
  if space = 0 then memRead s.mem a 8
  else match s.findCore (coreOfSpace space) with
    | some c => memRead c.sp a 8
    | none => 0

/-- The eight bytes are poisoned. -/
def State.unitPoison (s : State) (space a : Nat) : Bool :=
  if space = 0 then !(poisonIn s.memPoison a 8).isEmpty
  else match s.findCore (coreOfSpace space) with
    | some c => !(poisonIn c.poison a 8).isEmpty
    | none => false

/-- Bytes of a unit that R96 or R133 makes undefined take free values (log 6). -/
def State.freeBytes (s : State) (v : Nat) (undef : Nat → Bool) : Nat × State :=
  (List.range 8).foldl (fun p i =>
    if undef i then
      let b := (Config.freeByte p.2.free).toNat
      let old := p.1 / 2 ^ (8 * i) % 256
      (p.1 - old * 2 ^ (8 * i) + b * 2 ^ (8 * i), { p.2 with free := p.2.free + 1 })
    else p) (v, s)

/-! ## What is known to have happened before (R94) -/

/-- A list of what is known grows. -/
def addKnown (l new : List Known) : List Known := new.foldl (fun l x => if l.contains x then l else l ++ [x]) l

/-- Phase n of an object, or an earlier one, counted an access that went into phase m (R94). -/
def phaseCovers (n m : Nat) : Bool := decide ((n % 2 ^ 16 + 2 ^ 16 - m % 2 ^ 16) % 2 ^ 16 < 2 ^ 15)

/-- What is known holds an access: a numbered write, one of a request, or one that was counted into a phase. -/
def knows (l : List Known) (id : Nat) (req : Option Nat) (counted : Option (CoreKey × Nat × Nat)) : Bool :=
  l.any fun x => match x with
    | .write n => n == id
    | .request n => req == some n
    | .phase k loc n => match counted with
      | some (c, at', m) => c == k && at' == loc && phaseCovers n m
      | none => false

/-- Who writes. -/
inductive Writer where
  /-- A remote access, with its slot, its number, and what it follows. -/
  | remote (k : CoreKey) (slot : Fin 8) (id : Nat) (known : List Known)
  /-- A request of a core's engine, with the object and phase that the write counts into. -/
  | engine (k : CoreKey) (id : Nat) (counted : Option (CoreKey × Nat × Nat))
  /-- A thread of the core itself. -/
  | thread (slot : Fin 8)
  /-- The sequencer, a frame, the firmware. -/
  | other
  deriving DecidableEq, Repr

/-- What a write of a space follows (R94). The engine's accesses have no place in a scratchpad's order that a program knows (R116): they
take no order from it and give none (log 6). -/
def State.writerKnown (s : State) (w : Writer) (space : Nat) : List Known :=
  let here : Option Core := if space = 0 then none else s.findCore (coreOfSpace space)
  match w with
  | .remote _ _ _ l => addKnown (here.elim [] (·.known)) l
  | .thread t => here.elim [] fun c => addKnown c.known c.slots[t.val].known
  | .engine k id _ => (s.findCore k).elim [] fun c => (c.fifo.find? (·.id == id)).elim [] (·.known)
  | .other => []

/-- The mark of a write in the sources that it meets. Its number is the counter of the free values', which moves on when it stays. -/
def State.stainOf (s : State) (w : Writer) (space a n : Nat) : Stain :=
  match w with
  | .engine _ id counted => ⟨space, a, n, s.free + 1, some id, counted⟩
  | _ => ⟨space, a, n, s.free + 1, none, none⟩

/-! ## What a write means to the requests that it meets (R94, R96, R117) -/

/-- A FENCE's scope covers a location, for a request of a core (Table 4-11). -/
def State.scopeCovers (s : State) (sc : FenceScope) (owner : CoreKey) (space : Nat) : Bool :=
  let dieOf (k : CoreKey) : Option (Fin 10) := (s.findCore k).map (·.die)
  match sc with
  | .core => space == spaceOf owner
  | .die => space != 0 && dieOf (coreOfSpace space) == dieOf owner
  | .package | .system => true

/-- Whether bytes [a, a + n) of a space meet [b, b + m). -/
def meets (a n b m : Nat) : Bool := decide (a < b + m) && decide (b < a + n)

/-- The bytes of the unit at b that lie in [a, a + n). -/
def unitMask (a n b : Nat) : BitVec 8 :=
  BitVec.ofNat 8 ((List.range 8).foldl (fun m i => if decide (a ≤ b + i) && decide (b + i < a + n) then m + 2 ^ i else m) 0)

/-- A request of a core may read a space as its source. -/
def Request.mayRead (r : Request) (k : CoreKey) (space : Nat) : Bool :=
  match bitsNat r.sseg 35 32 with
  | 3 => space == 0
  | 2 => space != 0 && (coreOfSpace space).ctx == k.ctx
  | 1 => space == spaceOf k
  | _ => false

/-- A request that has not completed meets a write. A FENCE that orders the write before it brings it what the write followed, and the
write; else the write stains its source. -/
def Request.meet (r : Request) (k : CoreKey) (ordered : Bool) (mine : List Known) (x : Stain) : Request :=
  if ordered then { r with known := addKnown r.known mine }
  else if r.op == .iload || x.len = 0 || !r.mayRead k x.space then r
  else { r with stained := x :: r.stained }

/-- The requests of a core's FIFO, in push order, meet a write. isW picks the writer's request, by' says whether a mark orders a
remote access, and covers whether its scope covers the location. -/
def meetAll (k : CoreKey) (isW : Request → Bool) (by' covers : Mark → Bool) (mine : List Known) (x : Stain) :
    Bool → Bool → List Request → List Request
  | _, _, [] => []
  | ahead, ordered, r :: rs =>
    let ordered := ordered || r.marks.any fun m => by' m || (ahead && covers m)
    r.meet k ordered mine x :: meetAll k isW by' covers mine x (ahead || isW r) ordered rs

/-- A mark comes after a remote access of its own thread (R117). -/
def Mark.follows (m : Mark) (slot : Fin 8) (id : Nat) : Bool := slot == m.slot && decide (id < m.issue)

/-- A core's requests meet a write. See log 6. -/
def State.meetCore (s : State) (w : Writer) (l : List Known) (x : Stain) (c : Core) : List Request :=
  let isW (r : Request) : Bool := match w with
    | .engine k id _ => k == c.key && id == r.id
    | _ => false
  let by' (m : Mark) : Bool := match w with
    | .remote k t i _ => k == c.key && m.follows t i
    | _ => false
  meetAll c.key isW by' (fun m => s.scopeCovers m.scope c.key x.space) (addKnown l [.write x.id]) x false false c.fifo

/-- The bytes of a landed unit that lie in a written range of its source and are still open. -/
def MovedUnit.hit (m : MovedUnit) (space a n : Nat) : BitVec 8 :=
  if m.space = space then m.open' &&& unitMask a n m.src else 0

/-- The bytes of a landed unit of a request that a write of its source makes undefined: none where the write follows the read (R94). -/
def MovedUnit.struck (m : MovedUnit) (req : Nat) (l : List Known) (space a n : Nat) : BitVec 8 :=
  if knows l 0 (some req) m.counted then 0 else m.hit space a n

/-- A landed unit after a write: bytes that have become undefined stay so, and bytes overwritten are no copies any more. -/
def MovedUnit.close (m : MovedUnit) (req : Nat) (l : List Known) (space a n : Nat) : MovedUnit :=
  let covered := if m.dspace = space then unitMask a n m.dst else 0
  { m with open' := m.open' &&& ~~~(m.struck req l space a n) &&& ~~~covered }

/-- Give the bytes of a landed unit that its mask picks free values (R96, R119); a port marks them dirty (R447). -/
def State.freeLandedUnit (s : State) (k : CoreKey) (m : MovedUnit) (mask : BitVec 8) : State :=
  let (v, s) := s.freeBytes (s.unitAt m.dspace m.dst) fun i => mask.getLsbD i
  if m.dspace = 0 then
    match s.findCore k with
    | some c => if readOnlyWord m.dst then s
      else ({ s with mem := memWrite s.mem m.dst 8 v }).markDirty c.die (s.sliceOf k) m.dst
    | none => s
  else s.modCore (coreOfSpace m.dspace) fun c => { c with sp := memWrite c.sp m.dst 8 v }

/-- The landed units of a core's requests meet a write of their source or of their place, which follows what l holds. -/
def State.meetLanded (s : State) (l : List Known) (c : Core) (space a n : Nat) : State :=
  let hits := c.fifo.flatMap fun r => if r.op == .iload then [] else (r.moved.filterMap fun m =>
    let h := m.struck r.id l space a n
    if h = 0 then none else some (m, h))
  hits.foldl (fun s x => s.freeLandedUnit c.key x.1 x.2) s

/-- A timetable that a write of its core's scratchpad meets: IDLE in its STATE ends its place for good (R169), and a check learns
that its table was written (R347). -/
def Core.meetTables (c : Core) (a n : Nat) : Core :=
  let idle (t : Timetable) : Bool := t.checking.isNone && meets a n (t.hdr + 11) 1
    && (memGet c.sp (t.hdr + 11)).toNat % 16 == 0
  let nent (t : Timetable) : Nat := memRead c.sp t.hdr 16 / 2 ^ 92 % 2 ^ 12
  { c with tables := (c.tables.filter fun t => !idle t).map fun t =>
      if t.checking.isSome && meets a n t.hdr (16 + 16 * nent t) then { t with touched := true } else t }

/-- Some request holds a stain of a number. -/
def State.hasStain (s : State) (id : Nat) : Bool := s.cores.any fun c => c.fifo.any fun r => r.stained.any fun x => x.id == id

/-- A write that stains some source has a number: what comes after it in its scratchpad's order follows it. -/
def State.numberWrite (s : State) (w : Writer) (x : Stain) : State :=
  if s.hasStain x.id then
    let s := { s with free := s.free + 1 }
    match w with
    | .remote .. | .thread _ => s.modCore (coreOfSpace x.space) fun c => { c with known := addKnown c.known [.write x.id] }
    | .engine .. | .other => s
  else s

/-- A write of n bytes at a of a space has performed: every request that is not complete and every timetable learns of it. -/
def State.noteWrite (s : State) (w : Writer) (space a n : Nat) : State :=
  let l := s.writerKnown w space
  let busy := s.cores.filter fun c => !c.fifo.isEmpty
  let s := busy.foldl (fun s c => s.meetLanded l c space a n) s
  let x := s.stainOf w space a n
  let s := s.modCores (fun c => !c.fifo.isEmpty) fun c => { c with fifo := (s.meetCore w l x c).map fun r =>
    { r with moved := r.moved.map fun m => m.close r.id l space a n } }
  let s := if busy.isEmpty then s else s.numberWrite w x
  if space = 0 then s else s.modCore (coreOfSpace space) fun c => if c.tables.isEmpty then c else c.meetTables a n

/-- A read of n bytes at a of a space: a landed byte that has been read keeps its value (R119). -/
def State.noteRead (s : State) (space a n : Nat) : State :=
  s.modCores (fun c => !c.fifo.isEmpty) fun c => { c with fifo := c.fifo.map fun r =>
    { r with moved := mapIf (fun m => m.dspace == space) (fun m => { m with open' := m.open' &&& ~~~(unitMask a n m.dst) }) r.moved } }

/-! ## Who learns what (R94, R105, R117) -/

/-- A thread of a core learns of accesses: those that it issues from now on follow them. -/
def State.learn (s : State) (k : CoreKey) (t : Fin 8) (l : List Known) : State :=
  if l.isEmpty then s else s.modCore k fun c => c.modSlot t fun th => { th with known := addKnown th.known l }

/-- A request in progress, or a write that such a one has met, was counted into a phase of an object. -/
def State.phaseMatters (s : State) (k : CoreKey) (loc n : Nat) : Bool :=
  let has (p : Option (CoreKey × Nat × Nat)) : Bool := match p with
    | some (c, l, m) => c == k && l == loc && phaseCovers n m
    | none => false
  s.cores.any fun c => c.fifo.any fun r => r.moved.any (fun m => has m.counted) || r.stained.any fun x => has x.counted

/-- A thread acquires a phase (R94): what was counted into it, or into an earlier one, and what that followed. -/
def State.acquire (s : State) (k : CoreKey) (t : Fin 8) (loc phase : Nat) : State :=
  let before := (s.findCore k).elim [] fun c => (c.phases.filter fun p => p.1 == loc && phaseCovers phase p.2.1).flatMap (·.2.2)
  s.learn k t ((if s.phaseMatters k loc phase then [.phase k loc phase] else []) ++ before)

/-- The completion message of a request, and what it brings: of equal messages in the mailbox that which was posted first (R327). -/
def Core.completionOf (c : Core) (msg : Quad) : Option (Nat × Quad × List Known) :=
  c.done.find? fun p => p.2.1 == msg && !c.heldMail.any fun h => h.cls == 0 && h.order == p.1

/-- What the thread that takes a message learns: all of the request whose completion it is. -/
def State.mailKnown (s : State) (k : CoreKey) (msg : Quad) : List Known :=
  (s.findCore k).elim [] fun c => (c.completionOf msg).elim [] (·.2.2)

/-- The publishing of a queue's entry: the thread that takes the entry follows what it follows (R105). by' is what the publisher knows
beside the core's order. -/
def State.publish (s : State) (k : CoreKey) (by' : List Known) (e : Nat) : State :=
  s.modCore k fun c =>
    let l := addKnown c.known by'
    if l.isEmpty && c.entries.all (·.1 != e) then c else { c with entries := (e, l) :: c.entries.filter (·.1 != e) }

/-- What the publishing of the entry at a place followed. -/
def Core.entryKnown (c : Core) (e : Nat) : List Known := (c.entries.find? (·.1 == e)).elim [] (·.2)

/-- A thread's element of its core's total order: what comes after it there follows what the thread knows. -/
def State.share (s : State) (k : CoreKey) (t : Fin 8) : State :=
  s.modCore k fun c => if c.slots[t.val].known.isEmpty then c else { c with known := addKnown c.known c.slots[t.val].known }

/-- A remote access of a core's thread has performed and followed l with itself: what a FENCE of the thread orders after it follows
that too: a mark's request, and the thread's remote accesses behind any FENCE that came after it (R117). -/
def State.passFences (s : State) (k : CoreKey) (slot : Fin 8) (id : Nat) (l : List Known) : State :=
  if l.isEmpty then s
  else
    let s := s.modCore k fun c =>
      { c with marks := mapIf (fun m => m.follows slot id) (fun m => { m with known := addKnown m.known l }) c.marks }.modSlot slot fun th =>
        if id < th.fenceId then { th with fenced := addKnown th.fenced l } else { th with performed := addKnown th.performed l }
    let after (f : Flight) : Bool := f.ctx == k.ctx && f.src == k.lidx && decide (id < f.fence)
      && (match f.kind with
        | .access _ t _ => t == slot
        | _ => false)
    { s with flights := mapIf after (fun f => { f with known := addKnown f.known l }) s.flights }

/-- Nothing is known any more once no request is in progress. -/
def State.forget (s : State) : State :=
  if s.cores.any fun c => !c.fifo.isEmpty then s
  else
    let none' (t : Thread) : Bool := t.known.isEmpty && t.fenced.isEmpty && t.performed.isEmpty
    let clean (c : Core) : Bool :=
      c.known.isEmpty && c.phases.isEmpty && c.entries.isEmpty && c.done.all (·.2.2.isEmpty) && c.slots.all none'
    { s.modCores (fun c => !clean c) fun c => { c with
        known := [], phases := [], entries := [], done := c.done.map fun p => (p.1, p.2.1, [])
        slots := c.slots.map fun t => { t with known := [], fenced := [], performed := [] } } with
      flights := mapIf (fun f => !f.known.isEmpty) (fun f => { f with known := [] }) s.flights }

/-! ## Writes -/

/-- A write of n bytes, none across 64 KiB, by a port: nothing on a read-only word (R6); else bytes, dirty bit, and the order. -/
def State.physWrite (s : State) (w : Writer) (port : Fin 10) (sl : Fin 8) (pa n v : Nat) : State :=
  if readOnlyWord pa then s
  else (({ s with mem := memWrite s.mem pa n v }).markDirty port sl pa).noteWrite w 0 pa n

/-- A write of n bytes in a scratchpad by an arrival, an engine or the sequencer, which watchpoints see (R360). -/
def State.padWrite (s : State) (w : Writer) (k : CoreKey) (a n v : Nat) : State :=
  ((s.modCore k fun c => { c with sp := memWrite c.sp a n v }).noteWrite w (spaceOf k) a n).watchArrival k false true a n

/-- A read-modify-write of n bytes in a scratchpad by one of them. -/
def State.padChange (s : State) (w : Writer) (k : CoreKey) (a n v : Nat) : State :=
  ((s.modCore k fun c => { c with sp := memWrite c.sp a n v }).noteWrite w (spaceOf k) a n).watchArrival k true true a n

end Sys2Proof.Machine
end

