-- ==== Sys2Proof/Machine/Operands.lean ====
section
/-!
DEFINITION. What each bundle slot names, the checks made before it executes, segments and lanes, and `slotOp`, the one frame
in which every instruction of a bundle slot runs (R218 to R221, R228 to R231, R33, R71 to R80, R299 to R304, R330).
-/
namespace Sys2Proof.Machine

open Sys2Proof

/-! ## What an instruction names -/

/-- Bundle slot (0 S, 1 V, 2 M, 3 L, 4 X; 5 none), guard, the registers read in the order named, and the registers of the
Writes columns. -/
structure SlotInfo where
  slot : Nat
  guard : Guard
  reads : List Ref
  writes : List Ref
  deriving DecidableEq, Repr

/-- A register of a group: the i-th after n. -/
def regAfter (n : Fin 32) (i : Nat) : Fin 32 := Fin.ofNat 32 (n.val + i)

/-- The registers of a group of g scalar or vector registers. -/
def groupS (n : SReg) (g : Nat) : List Ref := (List.range g).map fun i => .s (regAfter n i)
def groupV (n : VReg) (g : Nat) : List Ref := (List.range g).map fun i => .v (regAfter n i)

/-- The request quad s4j to s4j+3 (R129). -/
def quadRegs (q : Fin 8) : List Ref := groupS (Fin.ofNat 32 (4 * q.val)) 4

def tagReads (d : SReg) : TagSel → List Ref
  | .imm _ _ => []
  | .reg => [.s d]

/-- What each instruction names (Tables 10-4 to 10-7). A mask operand and a queue register have no dead bit and no window,
and a mask is read like any operand. LOOP's write of a stage predicate is in no Writes column (R229, R250); the scoreboard has it apart. -/
def slotInfo : Instr → SlotInfo
  | .add g d a b | .sub g d a b | .mul g d a b | .mulh g d a b | .mulhn g d a b | .div g d a b | .divn g d a b
  | .rem g d a b | .remn g d a b | .and g d a b | .or g d a b | .xor g d a b | .andn g d a b | .orn g d a b
  | .shl g d a b | .shr g d a b | .sra g d a b | .rol g d a b | .min g d a b | .max g d a b | .minn g d a b
  | .maxn g d a b | .bext g d a b | .bdep g d a b => ⟨0, g, [.s a, .s b], [.s d]⟩
  | .cmp g _ d a b => ⟨0, g, [.s a, .s b], [.p d]⟩
  | .sel g d p a b => ⟨0, g, [.p p, .s a, .s b], [.s d]⟩
  | .lea g d a b _ _ => ⟨0, g, [.s a, .s b], [.s d]⟩
  | .clz g d a | .ctz g d a | .popc g d a | .brev g d a => ⟨0, g, [.s a], [.s d]⟩
  | .addi g d a _ | .andi g d a _ | .ori g d a _ | .xori g d a _ => ⟨0, g, [.s a], [.s d]⟩
  | .shli g d a _ | .shri g d a _ | .srai g d a _ => ⟨0, g, [.s a], [.s d]⟩
  | .cmpi g _ d a _ => ⟨0, g, [.s a], [.p d]⟩
  | .li g d _ => ⟨0, g, [], [.s d]⟩
  | .lih g d a _ => ⟨0, g, [.s a], [.s d]⟩
  | .pand g d a b | .por g d a b | .pxor g d a b => ⟨0, g, [.p a, .p b], [.p d]⟩
  | .pnot g d a => ⟨0, g, [.p a], [.p d]⟩
  | .pset g d _ => ⟨0, g, [], [.p d]⟩
  | .br g _ | .jmp g _ | .loop g _ | .halt g | .trap g _ | .eret g => ⟨0, g, [], []⟩
  | .jr g a | .lset g a _ | .park g a _ => ⟨0, g, [.s a], []⟩
  | .call g _ => ⟨0, g, [], [.s 1]⟩
  | .callr g a => ⟨0, g, [.s a], [.s 1]⟩
  | .ret g => ⟨0, g, [.s 1], []⟩
  | .spawn g d a _ _ => ⟨0, g, [.s a], [.s d]⟩
  | .mfc g d _ | .mfs g d _ => ⟨0, g, [], [.s d]⟩
  | .mtc g _ a | .mts g _ a => ⟨0, g, [.s a], []⟩
  | .segset g _ a b => ⟨0, g, [.s a, .s b], []⟩
  | .segget g d _ => ⟨0, g, [], groupS d 2⟩
  | .vadd g d a b k _ _ | .vsub g d a b k _ _ | .vmul g d a b k _ _ | .vdiv g d a b k _ _ =>
    ⟨1, g, [.v a, .v b, .k k], [.v d]⟩
  | .vfma g d a b c k _ _ | .vfms g d a b c k _ _ | .vfnma g d a b c k _ _ => ⟨1, g, [.v a, .v b, .v c, .k k], [.v d]⟩
  | .vsqrt g d a k _ _ | .vrcp g d a k _ _ | .vrsq g d a k _ _ | .vexp2 g d a k _ _ | .vlog2 g d a k _ _ =>
    ⟨1, g, [.v a, .k k], [.v d]⟩
  | .vmin g d a b k _ | .vmax g d a b k _ | .vcpys g d a b k _ => ⟨1, g, [.v a, .v b, .k k], [.v d]⟩
  | .vabs g d a k _ | .vneg g d a k _ => ⟨1, g, [.v a, .k k], [.v d]⟩
  | .vcmp g _ d a b k _ => ⟨1, g, [.v a, .v b, .k k], [.k d]⟩
  | .vclass g _ d a k _ => ⟨1, g, [.v a, .k k], [.k d]⟩
  | .viadd g d a b k _ _ | .visub g d a b k _ _ | .vimul g d a b k _ _ => ⟨1, g, [.v a, .v b, .k k], [.v d]⟩
  | .vimulh g d a b k _ | .vimin g d a b k _ | .vimax g d a b k _ | .vshl g d a b k _ | .vshr g d a b k _
  | .vsra g d a b k _ | .vand g d a b k _ | .vor g d a b k _ | .vxor g d a b k _ | .vandn g d a b k _ =>
    ⟨1, g, [.v a, .v b, .k k], [.v d]⟩
  | .viabs g d a k _ _ => ⟨1, g, [.v a, .k k], [.v d]⟩
  | .vpopc g d a k _ => ⟨1, g, [.v a, .k k], [.v d]⟩
  | .vcvt g d a k _ _ _ _ => ⟨1, g, [.v a, .k k], [.v d]⟩
  | .vpack g d a b k _ _ _ _ => ⟨1, g, [.v a, .v b, .k k], [.v d]⟩
  | .vunpk g d a k _ _ => ⟨1, g, [.v a, .k k], groupV d 2⟩
  | .vmov g d a k _ n => ⟨1, g, groupV a n.size ++ [.k k], groupV d n.size⟩
  | .vsel g d a b k _ | .vperm g d a b k _ => ⟨1, g, [.v a, .v b, .k k], [.v d]⟩
  | .vshuf g _ d a b k _ => ⟨1, g, [.v a, .v b, .k k], [.v d]⟩
  | .vbcast g d a k _ => ⟨1, g, [.s a, .k k], [.v d]⟩
  | .vins g d a _ _ => ⟨1, g, [.s a], [.v d]⟩
  | .vext g d a _ _ => ⟨1, g, [.v a], [.s d]⟩
  | .vrot g d a k _ _ => ⟨1, g, [.v a, .k k], [.v d]⟩
  | .vcomp g d a k _ | .vexpd g d a k _ => ⟨1, g, [.v a, .k k], [.v d]⟩
  | .vred g _ d a k _ _ _ | .vscan g _ d a k _ _ _ => ⟨1, g, [.v a, .k k], [.v d]⟩
  | .viota g d k _ => ⟨1, g, [.k k], [.v d]⟩
  | .vdot g d a b k _ _ _ => ⟨1, g, [.v d, .v a, .v b, .k k], [.v d]⟩
  | .kand g d a b _ | .kor g d a b _ | .kxor g d a b _ => ⟨1, g, [.k a, .k b], [.k d]⟩
  | .knot g d a _ | .kmov g d a _ => ⟨1, g, [.k a], [.k d]⟩
  | .kpopc g d a _ => ⟨1, g, [.k a], [.s d]⟩
  | .vhash g d a k _ _ => ⟨1, g, [.v a, .k k], [.v d]⟩
  | .mma g d a b _ _ => ⟨2, g, [.t d, .t a, .t b], [.t d]⟩
  | .mmaz g d a b _ _ => ⟨2, g, [.t a, .t b], [.t d]⟩
  | .tzero g d | .tinv g d => ⟨2, g, [], [.t d]⟩
  | .tcfg g d _ _ _ => ⟨2, g, [], [.t d]⟩
  | .tmov g d a | .ttrn g d a => ⟨2, g, [.t a], [.t d]⟩
  | .tcvt g d a _ _ => ⟨2, g, [.t a], [.t d]⟩
  | .tadd g d a b _ _ => ⟨2, g, [.t a, .t b], [.t d]⟩
  | .trowi g d v _ => ⟨2, g, [.v v], [.t d]⟩
  | .trowx g v t _ => ⟨2, g, [.t t], [.v v]⟩
  | .tscale g _ d a b _ => ⟨2, g, [.t a, .t b], [.t d]⟩
  | .ld g d m x _ _ _ | .rld g d m x _ _ _ => ⟨3, g, [.s m.base, .s x], [.s d]⟩
  | .st g d m x _ _ | .rst g d m x _ _ | .stnb g d m x _ _ | .rstnb g d m x _ _ => ⟨3, g, [.s d, .s m.base, .s x], []⟩
  | .ldv g d m x k _ n _ => ⟨3, g, [.s m.base, .s x, .k k], groupV d n.size⟩
  | .stv g d m x k _ n _ => ⟨3, g, groupV d n.size ++ [.s m.base, .s x, .k k], []⟩
  | .ldvg g d m x k _ _ => ⟨3, g, [.s m.base, .v x, .k k], [.v d]⟩
  | .stvs g d m x k _ _ => ⟨3, g, [.v d, .s m.base, .v x, .k k], []⟩
  | .ldt g d m x _ => ⟨3, g, [.s m.base, .s x], [.t d]⟩
  | .stt g d m x _ => ⟨3, g, [.t d, .s m.base, .s x], []⟩
  | .raop g _ d m x _ => ⟨3, g, [.s m.base, .s x], [.s d]⟩
  | .aadd g d m x _ | .amin g d m x _ | .amax g d m x _ | .aminn g d m x _ | .amaxn g d m x _ | .aand g d m x _
  | .aor g d m x _ | .axor g d m x _ | .aswap g d m x _ | .afadd g d m x _ => ⟨3, g, [.s m.base, .s x], [.s d]⟩
  | .acas g d m x _ => ⟨3, g, [.s d, .s m.base, .s x], [.s d]⟩
  | .qrsv g d m | .qtake g d m => ⟨3, g, [.s m.base], [.s d]⟩
  | .qpub g d m | .depdec g d m => ⟨3, g, [.s d, .s m.base], []⟩
  | .copy g d q | .gath g d q | .scat g d q | .iload g d q => ⟨3, g, quadRegs q, [.p d]⟩
  | .boinit g d m x | .boexp g d m x => ⟨3, g, [.s d, .s m.base, .s x], []⟩
  | .boarr g m => ⟨3, g, [.s m.base], []⟩
  | .bwait g m x => ⟨3, g, [.s m.base, .s x], []⟩
  | .btest g d m x => ⟨3, g, [.s m.base, .s x], [.p d]⟩
  | .mwait g | .fence g _ => ⟨3, g, [], []⟩
  | .mpop g d | .mpeek g d => ⟨3, g, [], groupS d 2⟩
  | .acsnap g m x => ⟨3, g, [.s m.base, .s x], []⟩
  | .send g a _ _ => ⟨4, g, [.s a], []⟩
  | .recv g d t => ⟨4, g, tagReads d t, [.s d]⟩
  | .recvt g d a b t => ⟨4, g, tagReads d t ++ [.s a], [.s d, .p b]⟩
  | .barw g _ => ⟨4, g, [], []⟩
  | .barwr g _ _ d a => ⟨4, g, [.s a], [.s d]⟩
  | .tamp g _ a _ => ⟨4, g, [.s a], []⟩
  | .waitt g _ d a _ => ⟨4, g, [.s a], [.p d]⟩
  | .wsend g a b _ _ | .amsg g a b _ | .cfire g a b => ⟨4, g, [.s a, .s b], []⟩
  | .qpush g _ b _ => ⟨4, g, [.s b], []⟩
  | .qpop g d _ _ => ⟨4, g, [], [.s d]⟩
  | .carm g d a => ⟨4, g, [.s a], [.p d]⟩
  | .trig g a _ => ⟨4, g, [.s a], []⟩
  | _ => ⟨5, ⟨true, 0⟩, [], []⟩

/-! ## Segments (R73 to R77) -/

def segBase (g : Quad) : Nat := bitsNat g 127 76
def segLimit (g : Quad) : Nat := bitsNat g 75 36
def segKind (g : Quad) : Nat := bitsNat g 35 32
def segRD (g : Quad) : Bool := bitAt g 31
def segWR (g : Quad) : Bool := bitAt g 30
def segAT (g : Quad) : Bool := bitAt g 29
def segEN (g : Quad) : Bool := bitAt g 28
/-- MESH: cyclic distribution. -/
def segDist (g : Quad) : Bool := bitAt g 27
/-- MESH: block size. -/
def segBlk (g : Quad) : Nat := 2 ^ bitsNat g 26 21

/-- Well-formed segment values (R74), for a scratchpad of spb bytes and n team cores on the die. -/
def segOk (g : Quad) (spb n : Nat) : Bool :=
  let base := segBase g
  let lim := segLimit g
  let b := segBlk g
  let blog := bitsNat g 26 21
  bitsNat g 20 0 == 0 &&
  match segKind g with
  | 0 => base == 0 && lim == 0 && bitsNat g 31 21 == 0
  | 1 => base % 64 == 0 && base + lim ≤ spb
  | 2 => base % 64 == 0 && 6 ≤ blog && blog ≤ 19 &&
      (if segDist g then base + (lim + n * b - 1) / Nat.max (n * b) 1 * b ≤ spb
       else lim ≤ n * b && base + b ≤ spb)
  | 3 => base % 64 == 0 && base + lim ≤ 2 ^ 52 && !segAT g
  | 4 => base % 32 == 0 && lim % 32 == 0 && base + lim ≤ 128 * 1024 && !segWR g && !segAT g
  | _ => false

/-- Owner index and scratchpad offset of a MESH offset (R75). -/
def meshResolve (g : Quad) (n o : Nat) : Nat × Nat :=
  let b := segBlk g
  if segDist g then (o / b % Nat.max n 1, segBase g + o / Nat.max (b * n) 1 * b + o % b)
  else (o / b, segBase g + o % b)

/-- The owner, as an index within the rectangle, and the scratchpad offset of an offset; a LOCAL lane is the core's own
(R301). -/
def segResolve (g : Quad) (n own o : Nat) : Nat × Nat :=
  if segKind g = 2 then meshResolve g n o else (own, segBase g + o)

/-- A right that an access needs. -/
inductive Right where
  | rd | wr | at_
  deriving DecidableEq, Repr

def segRight (g : Quad) : Right → Bool
  | .rd => segRD g
  | .wr => segWR g
  | .at_ => segAT g

/-- One lane of an access: order and TLANE number, offset, size, alignment unit. -/
structure Lane where
  order : Nat
  tl : Nat
  off : Nat
  size : Nat
  unit : Nat
  deriving DecidableEq, Repr

/-- A kind that a memory form may name; any other traps RIGHTS wherever its lane lies (R76, R301; log 84). -/
def laneKind (g : Quad) : Bool := segKind g == 1 || segKind g == 2

/-- The checks of Table 3-10 and the Owner column of Table 14-2 on one lane. team says whether another team core may own it;
localOnly refuses a MESH segment. -/
def laneTraps (s : State) (slot : Nat) (g : Quad) (need : Right) (team localOnly : Bool) (l : Lane) : List Trap :=
  let r := s.record
  let own := r.local s.lidx
  let w := (segResolve g r.rect own l.off).1
  let o := BitVec.ofNat 64 l.off
  let kindOk := segKind g = 1 || (segKind g = 2 && !localOnly)
  (if laneKind g && decide (l.off + l.size > segLimit g) then [trapBounds slot l.order o l.tl] else [])
  ++ (if kindOk && segRight g need && (team || w == own) then [] else [trapRights slot l.order o l.tl])
  ++ (if l.off % l.unit ≠ 0 then [trapAlign slot l.order o l.tl] else [])

/-- The offset of R300. -/
def State.offset (s : State) (m : MemOp) (idx f : Nat) : Nat :=
  (s.rs m.base + BitVec.ofNat 64 (idx * f) + m.disp.signExtend 64).toNat

/-- Whether the focused core owns an offset, and where it lies. -/
def State.resolve (s : State) (g : Quad) (o : Nat) : Nat × Nat :=
  segResolve g s.record.rect (s.record.local s.lidx) o

def State.ownsLane (s : State) (g : Quad) (o : Nat) : Bool := (s.resolve g o).1 == s.record.local s.lidx

/-! ## Checks at D -/

/-- The X-slot forms that only slot 7 of a launch with channels may issue (Table 15-1). -/
def needsSlot7 : Instr → Bool
  | .wsend .. | .amsg .. | .qpush .. | .qpop .. | .carm .. | .cfire .. | .trig .. => true
  | _ => false

/-- A control-register number that Table 3-3 assigns. -/
def ctlAssigned (n : Nat) : Bool :=
  n ≤ 0x006 || (0x008 ≤ n && n ≤ 0x00B) || n == 0x010 || n == 0x011 || (0x020 ≤ n && n ≤ 0x022)
  || (0x030 ≤ n && n ≤ 0x035) || (0x040 ≤ n && n ≤ 0x04F) || (0x050 ≤ n && n ≤ 0x053) || (0x058 ≤ n && n ≤ 0x05B)
  || (0x060 ≤ n && n ≤ 0x06F)

/-- The RO-T registers of Table 3-3. -/
def ctlRoT (n : Nat) : Bool := n == 0x033 || n == 0x035 || (0x040 ≤ n && n ≤ 0x04F)

/-- Registers outside PART (R71). -/
def Ref.outside (part : Word) : Ref → Bool
  | .v n => n.val ≥ partNV part
  | .t n => n.val ≥ partNT part
  | _ => false

/-- A DIAG context's bundle: no M slot, FP64 only in the V slot (R458). -/
def diagRefused : Instr → Bool
  | .vadd _ _ _ _ _ f _ | .vsub _ _ _ _ _ f _ | .vmul _ _ _ _ _ f _ | .vdiv _ _ _ _ _ f _ => f != .fp64
  | .vfma _ _ _ _ _ _ f _ | .vfms _ _ _ _ _ _ f _ | .vfnma _ _ _ _ _ _ f _ => f != .fp64
  | .vsqrt _ _ _ _ f _ | .vrcp _ _ _ _ f _ | .vrsq _ _ _ _ f _ | .vexp2 _ _ _ _ f _ | .vlog2 _ _ _ _ f _ => f != .fp64
  | .vmin _ _ _ _ _ f | .vmax _ _ _ _ _ f | .vcpys _ _ _ _ _ f => f != .fp64
  | .vabs _ _ _ _ f | .vneg _ _ _ _ f => f != .fp64
  | .vcmp _ _ _ _ _ _ f => f != .fp64
  | .vclass _ _ _ _ _ f => f != .fp64
  | .viadd .. | .visub .. | .vimul .. | .vimulh .. | .vimin .. | .vimax .. | .viabs .. | .vshl .. | .vshr .. | .vsra ..
  | .vand .. | .vor .. | .vxor .. | .vandn .. | .vpopc .. | .viota .. | .vhash .. => true
  | .vcvt _ _ _ _ f _ _ _ | .vpack _ _ _ _ _ f _ _ _ => f != .fp64
  | .vunpk _ _ _ _ f _ => f != .fp64
  | .vmov _ _ _ _ f _ => f != .fp64
  | .vsel _ _ _ _ _ f | .vperm _ _ _ _ _ f => f != .fp64
  | .vshuf _ _ _ _ _ _ f => f != .fp64
  | .vbcast _ _ _ _ f => f != .fp64
  | .vins _ _ _ f _ | .vext _ _ _ f _ => f != .fp64
  | .vrot _ _ _ _ f _ => f != .fp64
  | .vcomp _ _ _ _ f | .vexpd _ _ _ _ f => f != .fp64
  | .vred _ _ _ _ _ f _ _ | .vscan _ _ _ _ _ f _ _ => f != .fp64
  | .vdot _ _ _ _ _ f _ _ => f != .fp64
  | .kand _ _ _ _ f | .kor _ _ _ _ f | .kxor _ _ _ _ f => f != .fp64
  | .knot _ _ _ f | .kmov _ _ _ f | .kpopc _ _ _ f => f != .fp64
  | .mma .. | .mmaz .. | .tzero .. | .tcfg .. | .tmov .. | .ttrn .. | .tcvt .. | .tadd .. | .trowi .. | .trowx ..
  | .tinv .. | .tscale .. => true
  | _ => false

/-- A team-rectangle index out of range in SEND, RECV or RECVT (Table 15-2). -/
def badIndex (rect : Nat) : Instr → Bool
  | .send _ _ dst _ => dst.toNat ≥ rect
  | .recv _ _ (.imm i _) | .recvt _ _ _ _ (.imm i _) => i.toNat ≥ rect
  | _ => false

/-- VUNPK whose source is a member of its pair (R230, R276). -/
def overlaps : Instr → Bool
  | .vunpk _ d a _ _ _ => a.val == d.val || a.val == d.val + 1
  | _ => false

/-- The checks that apply whether or not the slot executes (R220): ILLEGAL, PRIV and OVERLAP. -/
def staticTraps (i : Instr) (s : State) : List Trap :=
  let n := slotInfo i
  let r := s.record
  let illegal := (n.reads ++ n.writes).any (Ref.outside r.part)
    || (needsSlot7 i && !(s.cur.slot == 7 && r.chan))
    || badIndex r.rect i
    || (r.diag && diagRefused i)
  let ctl := match i with
    | .mfc _ _ c =>
      if c.toNat ≥ 0x800 then [trapPriv 0 c.toNat] else if ctlAssigned c.toNat then [] else [trapIllegal 0]
    | .mtc _ c _ =>
      if c.toNat ≥ 0x800 || ctlRoT c.toNat then [trapPriv 0 c.toNat]
      else if ctlAssigned c.toNat then [] else [trapIllegal 0]
    | _ => []
  (if illegal then [trapIllegal n.slot] else []) ++ ctl ++ (if overlaps i then [trapOverlap n.slot] else [])

/-- The physical register of a logical one (R57). -/
def Ref.phys (rrb : BitVec 3) : Ref → Ref
  | .s n => .s (physS rrb n)
  | .v n => .v (physS rrb n)
  | .p n => .p (physP rrb n)
  | r => r

/-- The shadow scoreboard on one register (R33): inside a window, DELAY; outside it and not ready, DELAY or a hold. -/
def scoreTraps (s : State) (slot : Nat) (r : Ref) : List Trap :=
  let t := s.cur.pre
  let q := r.phys t.rrb
  match t.windows.find? (fun w => w.reg = q && w.left > 0) with
  | some w => [trapDelay slot w.pc]
  | none =>
    match t.pending.find? (fun p => p.reg = some q) with
    | some p => if t.chk then [holdOf slot] else [trapDelay slot p.pc]
    | none => []

/-- A read of a dead register or an invalid tile (R63, R80): class and number. -/
def deadRead (t : Thread) : Ref → Option (Nat × Nat)
  | .s n => if t.sdead.getLsbD (physS t.rrb n).val then some (0, n.val) else none
  | .v n => if t.vdead.getLsbD (physS t.rrb n).val then some (1, n.val) else none
  | .t n => if t.t[n.val].valid then none else some (2, n.val)
  | _ => none

/-- A tile whose sidecar holds scales: E2M1 in a block shape (R286). -/
def Tile.scaled (x : Tile) : Bool :=
  x.fmt == 6 && ((x.rows == 8 && x.cols == 128) || (x.rows == 128 && x.cols == 8))

/-- The bytes of a tile's storage that a form reads, from its first (R286, R298): TROWX a data row; STT, TMOV and TTRN all 576;
the others the data bytes, and the sidecar of a scaled tile and of an E2M1 tile that TCVT copies (Table 13-3). -/
def tileSpan (i : Instr) (x : Tile) : Nat × Nat :=
  match i with
  | .trowx _ _ _ row => (64 * row.val, 64)
  | .stt .. | .tmov .. | .ttrn .. => (0, 576)
  | .tcvt _ _ _ dst _ => (0, if x.scaled || (dst == .e2m1 && x.fmt == 6) then 576 else 512)
  | _ => (0, if x.scaled then 576 else 512)

/-- The lowest granule, poisoned at D, of what a form reads of a live vector register or a valid tile, as a pool offset (R72, R81;
log 13). -/
def poisonedOperand (i : Instr) (s : State) (r : Ref) : Option Nat :=
  let part := s.record.part
  let t := s.cur.slot.val
  let pre := s.cur.pre
  let first (a n : Nat) : Option Nat := ((poisonIn s.cur.poison a n).head?).map (· * 64)
  match r with
  | .v n =>
    let q := physS pre.rrb n
    if pre.vdead.getLsbD q.val then none else first (vectorOffset part t q.val) 64
  | .t n =>
    let x := pre.t[n.val]
    if x.valid then first (tileOffset part t n.val + (tileSpan i x).1) (tileSpan i x).2 else none
  | _ => none

/-- The operands and destinations that the scoreboard checks of an executing slot, of every kind, among them the stage predicate that a
taken LOOP writes, logical p15 under the old RRB (R33, R250). See log 13, log 111. -/
def scoredRefs (t : Thread) (i : Instr) : List Ref :=
  let n := slotInfo i
  n.reads ++ n.writes ++ match i with
    | .loop .. => if t.lc = 0 && t.ec = 0 then [] else [.p 15]
    | _ => []

/-- Whether the slot's guard lets it execute (R219). -/
def State.executes (s : State) (g : Guard) : Bool := s.rp g.pred != g.neg

/-- Every cause that the slot's own D, E1 and E3 register checks raise; extra holds the form's own checks. Of several registers of one
slot that the scoreboard stops, the first in the order guard, operands as named, destinations stands (log 115). -/
def slotTraps (i : Instr) (s : State) (extra : State → List Trap) : List Trap :=
  let n := slotInfo i
  let base := staticTraps i s ++ scoreTraps s n.slot (.p n.guard.pred)
  if s.executes n.guard then
    base ++ (scoredRefs s.cur.pre i).flatMap (scoreTraps s n.slot)
      ++ (if s.cur.pre.deadtrap then
            match n.reads.findSome? (deadRead s.cur.pre) with
            | some (c, m) => [trapDead n.slot c m]
            | none => []
          else [])
      ++ extra s
      ++ (match n.reads.findSome? (poisonedOperand i s) with
          | some o => [trapPoison n.slot 0 o 0]
          | none => [])
  else base

/-- The delay count of a bundle slot (R32). -/
def State.delayOf (s : State) (slot : Nat) : Nat :=
  match slot with
  | 0 => s.cur.dlyS
  | 1 => s.cur.dlyV
  | 3 => s.cur.dlyL
  | _ => 0

/-- A destination that opens a window: not s0, p0 or k0, whose writes are discarded (R55). See log 9. -/
def Ref.kept : Ref → Bool
  | .s n => n.val != 0
  | .p n => n.val != 0
  | .k n => n.val != 0
  | _ => true

/-- What an executing slot does before its own effect: it counts as executed, a dead read sets DEADSEEN at W (R80), and its
destinations' delay windows open (R32). Where an MTC THRCTL of the same bundle writes DEADSEEN, the set stands (log 85): the S slot
comes first. -/
def slotBegin (i : Instr) (s : State) : State :=
  let n := slotInfo i
  let s := { s with cur := { s.cur with executed := true } }
  let s := if (n.reads.findSome? (deadRead s.cur.pre)).isSome then
      s.modThread fun t => { t with deadseen := true } else s
  (n.writes.filter Ref.kept).foldl (fun s r => s.openWindow (r.phys s.cur.pre.rrb) (s.delayOf n.slot)) s

/-- The frame of every bundle-slot instruction: the first of its traps, if any, is taken; a slot whose guard is false does
nothing (R219); otherwise the body gives its effect. A slot that takes an FP trap opens no window and sets no DEADSEEN (log 110). See log 75. -/
def slotOp (i : Instr) (s : State) (extra : State → List Trap) (body : State → State) : State :=
  match bestTrap (slotTraps i s extra) with
  | some r => s.takeTrap r
  | none => if s.executes (slotInfo i).guard then body (slotBegin i s) else s

/-- No further checks. -/
def noChecks : State → List Trap := fun _ => []

/-! ## Accesses to the own scratchpad at E3 -/

/-- The lowest watchpoint that a thread access matches, with the scratchpad offset of the first matching byte of its lowest
matching lane, and ACT. -/
def watchMatch (c : Core) (rd wr : Bool) (lanes : List (Nat × Nat)) : Option (Nat × Bool) :=
  (c.watchAt c.vx).toList.findSome? fun w =>
    (lanes.findSome? fun l => watchHit w rd wr l.1 l.2).map fun o => (o, bitAt w 62)

/-- BREAK of a watchpoint that an access to the own scratchpad matches at E3 (R360). lanes are (TLANE, order, offset, size). -/
def watchTraps (s : State) (rd wr : Bool) (lanes : List (Nat × Nat × Nat × Nat)) : List Trap :=
  match watchMatch s.core rd wr (lanes.map fun l => (l.2.2.1, l.2.2.2)) with
  | some (o, stop) => [trapBreak 3 (BitVec.ofNat 64 o) stop]
  | none => []

/-- The traps of a thread access to the own scratchpad at E3: POISON of a read lane, lowest lane first (R72), then BREAK of
a watchpoint (R360). -/
def accessTraps (s : State) (slot : Nat) (rd wr : Bool) (lanes : List (Nat × Nat × Nat × Nat)) : List Trap :=
  (if rd then
    match lanes.findSome? (fun l => (poisonIn s.core.poison l.2.2.1 l.2.2.2).head?.map fun g => (l.1, l.2.1, g * 64)) with
    | some (tl, o, g) => [trapPoison slot o g tl]
    | none => []
  else []) ++ watchTraps s rd wr lanes

/-- A write of n bytes to the own scratchpad by the thread of a slot, and R96's record. -/
def State.spStoreBy (s : State) (t : Fin 8) (a n v : Nat) : State :=
  ({ s with core := { s.core with sp := memWrite s.core.sp a n v } }).noteWrite (.thread t) (spaceOf s.core.key) a n

/-- The same by the thread whose bundle is open. -/
def State.spStore (s : State) (a n v : Nat) : State := s.spStoreBy s.cur.slot a n v

/-- Clear the poison of the granules that one access covers whole; ranges are (offset, size). -/
def State.clearCovered (s : State) (ranges : List (Nat × Nat)) : State :=
  let cov (b : Nat) := ranges.any fun r => decide (r.1 ≤ b) && decide (b < r.1 + r.2)
  let left := s.core.poison.filter (fun g => !((List.range 64).all fun i => cov (g * 64 + i)))
  { s with core := { s.core with poison := left } }

def State.spLoad (s : State) (a n : Nat) : Nat := memRead s.core.sp a n

end Sys2Proof.Machine
end

