-- ==== Sys2Proof/Machine/Vector.lean ====
section
/-!
DEFINITION. Lanes, masks and the shared operations of the V slot (R56, R181, R262, R263).
-/
namespace Sys2Proof.Machine

open Sys2Proof

/-- Element i of width w (R181). -/
def laneAt {n : Nat} (w : Nat) (v : BitVec n) (i : Nat) : Nat := v.toNat / 2 ^ (i * w) % 2 ^ w

/-- A word from n elements of width w. -/
def ofLanes (bits w n : Nat) (f : Nat → Nat) : BitVec bits :=
  BitVec.ofNat bits ((List.range n).foldl (fun a i => a + f i % 2 ^ w * 2 ^ (i * w)) 0)

/-- The mask bit that governs lane i (R56, R262). -/
def laneOn (f : Fmt) (k : Word) (i : Nat) : Bool := k.getLsbD (if f.width = 4 then i / 2 else i)

/-- The bits of the lanes below n that a test picks. -/
def lanesMask (w n : Nat) (on : Nat → Bool) : VWord := ofLanes 512 w n fun i => if on i then 2 ^ w - 1 else 0

/-- The bits of the active lanes of a format. -/
def activeMask (f : Fmt) (k : Word) : VWord := lanesMask f.width f.lanes (laneOn f k)

/-- A mask value with nm bits of a format (R262). -/
def maskOf (f : Fmt) (on : Nat → Bool) : Word := ofLanes 64 1 f.maskLanes fun i => b2n (on i)

/-- Hash64[31:0] for a destination element, used by SR only (R193). -/
def State.srBits (s : State) (mode : Rnd) (lane : Nat) : Nat :=
  if mode = .sr then
    (hash64 s.cur.pre.seed s.lidx s.cur.slot.val (BitVec.ofNat 64 s.cur.vt) lane).toNat % 2 ^ 32
  else 0

/-- Classes raised, by lane. -/
abbrev Raised := List (Nat × Classes)

def Raised.all (r : Raised) : Classes := r.foldl (fun c x => c ||| x.2) 0

/-- The FP trap of a one-rotation operation: the lowest lane that raises a class enabled at D (R203). -/
def fpTraps (slot : Nat) (s : State) (r : Raised) : List Trap :=
  match r.find? fun x => x.2 &&& fpEnables s.cur.pre.fpctl ≠ 0 with
  | some x => [trapFp slot x.1 s.cur.pc]
  | none => []

/-- OR classes into the flags at W (R202). -/
def State.orFlags (s : State) (c : Classes) : State := s.modThread fun t => t.orFlags c

/-- Elements with their classes: those of the first n lanes that a test picks. -/
def laneResults (n : Nat) (on : Nat → Bool) (f : Nat → Nat × Classes) : List (Nat × Nat × Classes) :=
  ((List.range n).filter on).map fun i => (i, f i)

def resultValue (bits w : Nat) (l : List (Nat × Nat × Classes)) : BitVec bits :=
  BitVec.ofNat bits (l.foldl (fun a x => a + x.2.1 % 2 ^ w * 2 ^ (x.1 * w)) 0)

def resultRaised (l : List (Nat × Nat × Classes)) : Raised := (l.filter fun x => x.2.2 ≠ 0).map fun x => (x.1, x.2.2)

/-- A governed form of latency 1: active lanes take their results, the others keep the destination (R262). -/
def vecOp (i : Instr) (d : VReg) (k : KReg) (f : Fmt) (g : State → Nat → Nat × Classes) (s : State) : Out :=
  let res (s : State) := laneResults f.lanes (laneOn f (s.rk k)) (g s)
  .next (slotOp i s (fun s => fpTraps 1 s (resultRaised (res s))) fun s =>
    let r := res s
    (s.setVm d (resultValue 512 f.width r) (activeMask f (s.rk k))).orFlags (resultRaised r).all)

/-- A governed form of a longer latency (Table 2-2): the result and its classes come at the ready rotation (R46, R263). -/
def vecLong (i : Instr) (d : VReg) (k : KReg) (f : Fmt) (l : Nat) (g : State → Nat → Nat × Classes) (s : State) : Out :=
  .next (slotOp i s noChecks fun s =>
    let r := laneResults f.lanes (laneOn f (s.rk k)) (g s)
    let (id, s) := s.newId
    s.addPending (some (.v (physS s.cur.pre.rrb d))) (.vector (resultValue 512 f.width r) (activeMask f (s.rk k)))
      (some (s.readyAt l)) (resultRaised r) true id)

/-- A form that writes every lane of its destination (R262, "selects"). -/
def vecWhole (i : Instr) (d : VReg) (v : State → VWord) (s : State) : Out :=
  .next (slotOp i s noChecks fun s => s.setV d (v s))

/-- A form that writes a mask register from its active lanes (R262). -/
def maskOp (i : Instr) (d k : KReg) (f : Fmt) (g : State → Nat → Bool × Classes) (s : State) : Out :=
  let res (s : State) := laneResults f.lanes (laneOn f (s.rk k)) fun j => let x := g s j; (b2n x.1, x.2)
  .next (slotOp i s (fun s => fpTraps 1 s (resultRaised (res s))) fun s =>
    let r := res s
    (s.setK d (resultValue 64 1 r)).orFlags (resultRaised r).all)

/-- Element i of a vector operand. -/
def State.va (s : State) (f : Fmt) (a : VReg) (i : Nat) : Nat := laneAt f.width (s.rv a) i

/-- The decoded element i of a vector operand. -/
def State.fa (s : State) (f : Fmt) (a : VReg) (i : Nat) : FVal := fpDecode f (s.va f a i)

end Sys2Proof.Machine
end

