-- ==== Sys2Proof/Machine/LoadStore.lean ====
section
/-!
DEFINITION. Lanes of the L slot, remote accesses on their way out, and the meanings of loads, stores and remote access
(R299 to R313, R110, R123).
-/
namespace Sys2Proof.Machine

open Sys2Proof

/-! ## Lanes (R300, R301) -/

/-- The scale factor of an index. -/
def scaleBy (scl : Bool) (f : Nat) : Nat := if scl then f else 1

/-- The offset of a form with a scalar index. -/
def State.offsetX (s : State) (m : MemOp) (x : SReg) (f : Nat) : Nat := s.offset m (s.rs x).toNat f

/-- The offset of a form without one. -/
def State.offset0 (s : State) (m : MemOp) : Nat := s.offset m 0 1

/-- A single lane. -/
def oneLane (o size unit : Nat) : List Lane := [⟨0, 0, o, size, unit⟩]

/-- Whether a lane lies inside its segment and belongs to another core: a remote lane (R110). See log 15. -/
def State.remoteLane (s : State) (g : Quad) (l : Lane) : Bool :=
  l.off + l.size ≤ segLimit g && segKind g == 2 && !s.ownsLane g l.off

/-- The logical index of the owner of an offset. -/
def State.ownerOf (s : State) (g : Quad) (o : Nat) : Nat :=
  s.record.rankOf s.lidx * s.record.rect + (s.resolve g o).1

/-- Links to the owner of an offset. -/
def State.hopsTo (s : State) (g : Quad) (o : Nat) : Nat := s.record.hops s.lidx (s.ownerOf g o)

/-- The check of R123: a remote lane that would perform at or before F. -/
def fenceTraps (s : State) (g : Quad) (lanes : List Lane) : List Trap :=
  match s.cur.pre.fence with
  | none => []
  | some (f, pc) =>
    if lanes.any fun l => s.remoteLane g l && s.cur.tick + 8 + 2 * s.hopsTo g l.off ≤ f then
      (if s.cur.pre.chk then [holdOf 3] else [trapDelay 3 pc])
    else []

/-- The own-core lanes as (TLANE, order, scratchpad offset, size). -/
def State.ownSpans (s : State) (g : Quad) (lanes : List Lane) : List (Nat × Nat × Nat × Nat) :=
  (lanes.filter fun l => s.ownsLane g l.off).map fun l => (l.tl, l.order, (s.resolve g l.off).2, l.size)

/-- The checks of a memory form before its E3 element: R77, R301 and R123. -/
def laneChecks (s : State) (g : Quad) (need : Right) (team localOnly : Bool) (lanes : List Lane) : List Trap :=
  lanes.flatMap (laneTraps s 3 g need team localOnly) ++ fenceTraps s g lanes

/-- The checks of a form that reads or writes its own-core lanes at E3. -/
def memChecks (g : GReg) (need : Right) (team rd wr : Bool) (lanes : State → List Lane) (s : State) : List Trap :=
  let q := s.rg g
  let l := lanes s
  laneChecks s q need team false l ++ accessTraps s 3 rd wr (s.ownSpans q l)

/-! ## Remote accesses (R87, R110, R147) -/

/-- A word of the scheduled plane leaves at E4: the k-th link is crossed in cycle c + 4 + 2k. -/
def State.sendFlight (s : State) (kind : FlightKind) (dst order : Nat) : State :=
  let (id, s) := s.newId
  let hops := s.record.hops s.lidx dst
  let f : Flight := ⟨id, kind, s.core.key.ctx, s.lidx, dst, s.cur.tick, 1, order, 0, hops,
    if hops = 0 then s.cur.tick + 8 else s.cur.tick + 6, false, addKnown s.thread.known s.thread.fenced, s.thread.fenceId⟩
  { s with flights := s.flights ++ [f] }

/-- A remote access: the word, and the thread's latest performing cycle (R99). -/
def State.sendAccess (s : State) (op : RemoteOp) (dst order : Nat) (pend : Option Nat) : State :=
  let slot := s.cur.slot
  let perf := s.cur.tick + 8 + 2 * s.record.hops s.lidx dst
  (s.sendFlight (.access op slot pend) dst order).modThread fun t =>
    { t with lastRemote := some (Nat.max perf (t.lastRemote.getD 0)) }

/-- Store lanes: own lanes are one element at E3, each other lane a remote access (R302). vals gives a lane's value. -/
def State.storeLanes (s : State) (g : Quad) (lanes : List (Lane × Nat)) : State :=
  let own := lanes.filter fun l => s.ownsLane g l.1.off
  let far := lanes.filter fun l => !s.ownsLane g l.1.off
  let s1 := own.foldl (fun s l => s.spStore (s.resolve g l.1.off).2 l.1.size l.2) s
  let s2 := s1.clearCovered (own.map fun l => ((s.resolve g l.1.off).2, l.1.size))
  far.foldl (fun s l => s.sendAccess (.store (s.resolve g l.1.off).2 l.1.size l.2) (s.ownerOf g l.1.off) l.1.order none) s2

/-! ## Loads and stores (R306 to R309) -/

/-- A value of n bytes extended to 64 bits. -/
def extendBytes (n v : Nat) (sgn : Bool) : Word :=
  if sgn && decide (2 ^ (8 * n - 1) ≤ v) then BitVec.ofInt 64 ((v : Int) - (2 ^ (8 * n) : Nat)) else BitVec.ofNat 64 v

/-- Bytes of a size code. -/
def sizeOf (sz : Fin 4) : Nat := 2 ^ sz.val

/-- The lane of LD, ST, RLD and RST. -/
def scalarLanes (m : MemOp) (x : SReg) (sz : Fin 4) (scl : Bool) (s : State) : List Lane :=
  oneLane (s.offsetX m x (scaleBy scl (sizeOf sz))) (sizeOf sz) (sizeOf sz)

def execLd (g : Guard) (d : SReg) (m : MemOp) (x : SReg) (sz : Fin 4) (sgn scl : Bool) (s : State) : Out :=
  .next (slotOp (.ld g d m x sz sgn scl) s (memChecks m.seg .rd false true false (scalarLanes m x sz scl)) fun s =>
    let o := s.offsetX m x (scaleBy scl (sizeOf sz))
    s.setS d (extendBytes (sizeOf sz) (s.spLoad (s.resolve (s.rg m.seg) o).2 (sizeOf sz)) sgn))

/-- A scalar store: ST and RST are one operation (R306, R312). -/
def scalarStore (i : Instr) (d : SReg) (m : MemOp) (x : SReg) (sz : Fin 4) (scl : Bool) (s : State) : Out :=
  .next (slotOp i s (memChecks m.seg .wr true false true (scalarLanes m x sz scl)) fun s =>
    s.storeLanes (s.rg m.seg) ((scalarLanes m x sz scl s).map fun l => (l, (s.rs d).toNat % 2 ^ (8 * sizeOf sz))))

def execSt (g : Guard) (d : SReg) (m : MemOp) (x : SReg) (sz : Fin 4) (scl : Bool) (s : State) : Out :=
  scalarStore (.st g d m x sz scl) d m x sz scl s

/-- Lane width of a code (Table 14-1). -/
def laneWidth (lw : Fin 4) : Nat := 8 / 2 ^ lw.val

/-- The active lanes of LDV and STV: (r, i) at o + 64r + i·lw. -/
def vectorLanes (m : MemOp) (x : SReg) (k : KReg) (lw : Fin 4) (n : GroupSize) (scl : Bool) (s : State) : List Lane :=
  let w := laneWidth lw
  let o := s.offsetX m x (scaleBy scl (64 * n.size))
  (List.range n.size).flatMap fun r =>
    ((List.range (64 / w)).filter fun i => (s.rk k).getLsbD i).map fun i =>
      ⟨r * 64 + i, i, (o + 64 * r + i * w) % 2 ^ 64, w, w⟩

/-- The bits of the active lanes of width w bytes. -/
def byteLaneMask (w : Nat) (k : Word) : VWord := lanesMask (8 * w) (64 / w) fun i => k.getLsbD i

def execLdv (g : Guard) (d : VReg) (m : MemOp) (x : SReg) (k : KReg) (lw : Fin 4) (n : GroupSize) (scl : Bool)
    (s : State) : Out :=
  .next (slotOp (.ldv g d m x k lw n scl) s (memChecks m.seg .rd false true false (vectorLanes m x k lw n scl)) fun s =>
    let w := laneWidth lw
    let lanes := vectorLanes m x k lw n scl s
    let val (r : Nat) : VWord := ofLanes 512 (8 * w) (64 / w) fun i =>
      match lanes.find? fun l => l.order = r * 64 + i with
      | some l => s.spLoad (s.resolve (s.rg m.seg) l.off).2 w
      | none => 0
    (List.range n.size).foldl (fun t r => t.setVm (regAfter d r) (val r) (byteLaneMask w (s.rk k))) s)

def execStv (g : Guard) (d : VReg) (m : MemOp) (x : SReg) (k : KReg) (lw : Fin 4) (n : GroupSize) (scl : Bool)
    (s : State) : Out :=
  .next (slotOp (.stv g d m x k lw n scl) s (memChecks m.seg .wr false false true (vectorLanes m x k lw n scl)) fun s =>
    s.storeLanes (s.rg m.seg) ((vectorLanes m x k lw n scl s).map fun l =>
      (l, laneAt (8 * laneWidth lw) (s.rv (regAfter d (l.order / 64))) (l.order % 64))))

/-- The active lanes of LDVG and STVS. -/
def gatherLanes (m : MemOp) (x : VReg) (k : KReg) (lw : Fin 4) (scl : Bool) (s : State) : List Lane :=
  let w := laneWidth lw
  ((List.range (64 / w)).filter fun i => (s.rk k).getLsbD i).map fun i =>
    ⟨i, i, s.offset m (laneAt (8 * w) (s.rv x) i) (scaleBy scl w), w, w⟩

/-- The checks of LDVG and STVS. Those that the indexes decide are not made on a poisoned index register (R45). -/
def gatherChecks (i : Instr) (m : MemOp) (x : VReg) (need : Right) (team rd wr : Bool) (lanes : State → List Lane) (s : State) :
    List Trap :=
  if (poisonedOperand i s (.v x)).isSome then [] else memChecks m.seg need team rd wr lanes s

def execLdvg (g : Guard) (d : VReg) (m : MemOp) (x : VReg) (k : KReg) (lw : Fin 4) (scl : Bool) (s : State) : Out :=
  .next (slotOp (.ldvg g d m x k lw scl) s
    (gatherChecks (.ldvg g d m x k lw scl) m x .rd false true false (gatherLanes m x k lw scl)) fun s =>
    let w := laneWidth lw
    let lanes := gatherLanes m x k lw scl s
    let val : VWord := ofLanes 512 (8 * w) (64 / w) fun i =>
      match lanes.find? fun l => l.order = i with
      | some l => s.spLoad (s.resolve (s.rg m.seg) l.off).2 w
      | none => 0
    s.setVm d val (byteLaneMask w (s.rk k)))

def execStvs (g : Guard) (d : VReg) (m : MemOp) (x : VReg) (k : KReg) (lw : Fin 4) (scl : Bool) (s : State) : Out :=
  .next (slotOp (.stvs g d m x k lw scl) s
    (gatherChecks (.stvs g d m x k lw scl) m x .wr true false true (gatherLanes m x k lw scl)) fun s =>
    s.storeLanes (s.rg m.seg) ((gatherLanes m x k lw scl s).map fun l =>
      (l, laneAt (8 * laneWidth lw) (s.rv d) l.order)))

/-- The nine lanes of LDT and STT. -/
def tileLanes (m : MemOp) (x : SReg) (scl : Bool) (s : State) : List Lane :=
  let o := s.offsetX m x (scaleBy scl 576)
  (List.range 9).map fun j => ⟨j, j, (o + 64 * j) % 2 ^ 64, 64, 64⟩

def execLdt (g : Guard) (d : TReg) (m : MemOp) (x : SReg) (scl : Bool) (s : State) : Out :=
  .next (slotOp (.ldt g d m x scl) s (memChecks m.seg .rd false true false (tileLanes m x scl)) fun s =>
    let row (l : Lane) : Nat := s.spLoad (s.resolve (s.rg m.seg) l.off).2 64
    let lanes := tileLanes m x scl s
    let all : Nat := lanes.foldl (fun a l => a + row l * 2 ^ (512 * l.order)) 0
    s.setT d { s.rt d with data := BitVec.ofNat 4096 all, side := BitVec.ofNat 512 (all / 2 ^ 4096), valid := true,
                           dirty := false } true)

def execStt (g : Guard) (d : TReg) (m : MemOp) (x : SReg) (scl : Bool) (s : State) : Out :=
  .next (slotOp (.stt g d m x scl) s (memChecks m.seg .wr false false true (tileLanes m x scl)) fun s =>
    let t := s.rt d
    let all : Nat := t.data.toNat + t.side.toNat * 2 ^ 4096
    let s := s.storeLanes (s.rg m.seg) ((tileLanes m x scl s).map fun l => (l, all / 2 ^ (512 * l.order) % 2 ^ 512))
    s.modThread fun th => { th with t := th.t.set d.val { th.t[d.val] with dirty := false } })

/-! ## Nibble stores (R300, R310) -/

/-- The byte offset and the nibble of STNB and RSTNB. -/
def State.nibbleAt (s : State) (m : MemOp) (x : SReg) (hi nidx : Bool) : Nat × Bool :=
  let u := s.offsetX m x 1
  if nidx then (u / 2, u % 2 == 1) else (u, hi)

def nibbleLanes (m : MemOp) (x : SReg) (hi nidx : Bool) (s : State) : List Lane :=
  oneLane (s.nibbleAt m x hi nidx).1 1 1

/-- A byte with one nibble replaced. -/
def putNibble (old : Nat) (hi : Bool) (v : Nat) : Nat :=
  if hi then old % 16 + v % 16 * 16 else old / 16 * 16 + v % 16

/-- STNB and RSTNB are one operation (R310, R312). The merge reads a poisoned byte without a trap, and a watchpoint sees the access as a
write alone (log 117). -/
def nibbleStore (i : Instr) (d : SReg) (m : MemOp) (x : SReg) (hi nidx : Bool) (s : State) : Out :=
  .next (slotOp i s (memChecks m.seg .wr true false true (nibbleLanes m x hi nidx)) fun s =>
    let g := s.rg m.seg
    let o := (s.nibbleAt m x hi nidx).1
    let h := (s.nibbleAt m x hi nidx).2
    let loc := (s.resolve g o).2
    let v := (s.rs d).toNat % 16
    if s.ownsLane g o then s.spStore loc 1 (putNibble (s.spLoad loc 1) h v)
    else s.sendAccess (.nibble loc h (BitVec.ofNat 4 v)) (s.ownerOf g o) 0 none)

def execStnb (g : Guard) (d : SReg) (m : MemOp) (x : SReg) (hi nidx : Bool) (s : State) : Out :=
  nibbleStore (.stnb g d m x hi nidx) d m x hi nidx s

/-! ## Remote access (R311, R312) -/

/-- Start a result that a reply brings (R31, R311): from the own core after two rotations, else when the reply comes. See log 42. -/
def State.startReply (s : State) (d : SReg) (local' : Option (Word × Option Nat × Classes)) : Nat × State :=
  let (id, s) := s.newId
  let q := physS s.cur.pre.rrb d
  let reg := if q.val = 0 then none else some (Ref.s q)
  if s.thread.phase == .vacant then (id, s)
  else
    let p : Pend := match local' with
      | some (v, poison, cls) =>
        ⟨id, reg, .scalar (if poison.isSome then 0 else v), some (s.readyAt 2), s.cur.pc, s.cur.vt, [(0, cls)], false, poison⟩
      | none => ⟨id, reg, .scalar 0, none, s.cur.pc, s.cur.vt, [], false, none⟩
    (id, s.modThread fun t => { t with pending := t.pending ++ [p] })

/-- The granule offset of a poisoned range. -/
def poisonAt (c : Core) (a n : Nat) : Option Nat := (poisonIn c.poison a n).head?.map (· * 64)

/-- The checks of RLD and RAOP: their poison is deferred (R45, R46), so only watchpoints act at E3. -/
def replyChecks (g : GReg) (need : Right) (wr : Bool) (lanes : State → List Lane) (s : State) : List Trap :=
  let q := s.rg g
  let l := lanes s
  laneChecks s q need true false l ++ watchTraps s true wr (s.ownSpans q l)

def execRld (g : Guard) (d : SReg) (m : MemOp) (x : SReg) (sz : Fin 4) (sgn scl : Bool) (s : State) : Out :=
  .next (slotOp (.rld g d m x sz sgn scl) s (replyChecks m.seg .rd false (scalarLanes m x sz scl)) fun s =>
    let q := s.rg m.seg
    let o := s.offsetX m x (scaleBy scl (sizeOf sz))
    let n := sizeOf sz
    let loc := (s.resolve q o).2
    if s.ownsLane q o then
      (s.startReply d (some (extendBytes n (s.spLoad loc n) sgn, poisonAt s.core loc n, 0))).2
    else
      let (id, s) := s.startReply d none
      s.sendAccess (.load loc n sgn) (s.ownerOf q o) 0 (some id))

def execRst (g : Guard) (d : SReg) (m : MemOp) (x : SReg) (sz : Fin 4) (scl : Bool) (s : State) : Out :=
  scalarStore (.rst g d m x sz scl) d m x sz scl s

def execRstnb (g : Guard) (d : SReg) (m : MemOp) (x : SReg) (hi nidx : Bool) (s : State) : Out :=
  nibbleStore (.rstnb g d m x hi nidx) d m x hi nidx s

end Sys2Proof.Machine
end

