-- ==== Sys2Proof/Machine/Atomic.lean ====
section
/-!
DEFINITION. The bank unit's atomics, local and remote (R313 to R315).
-/
namespace Sys2Proof.Machine

open Sys2Proof

/-- The new memory value of an atomic and the classes it raises (Table 14-3); bits are Hash64[31:0] for SR. -/
def atomicApply (op : AtomicOp) (w64 : Bool) (old v : Nat) (mode : Rnd) (bits : Nat) : Nat × Classes :=
  let f : Fmt := if w64 then .i64 else .i32
  let m := 2 ^ f.width
  let a := intVal f old
  let b := intVal f v
  match op with
  | .add => ((old + v) % m, 0)
  | .min => (if a ≤ b then old else v, 0)
  | .max => (if a ≤ b then v else old, 0)
  | .minn => (if old ≤ v then old else v, 0)
  | .maxn => (if old ≤ v then v else old, 0)
  | .and => (old &&& v, 0)
  | .or => (old ||| v, 0)
  | .xor => (old ^^^ v, 0)
  | .swap => (v, 0)
  | .fadd =>
    let f : Fmt := if w64 then .fp64 else .fp32
    let x := fpSum [fpDecode f old, fpDecode f v] mode
    let y := roundTo f x.1 mode bits false
    (y.1, y.2 ||| x.2)

/-- Bytes of an atomic. -/
def atomicSize (w64 : Bool) : Nat := if w64 then 8 else 4

/-- The lane of an atomic; RAOP's index is not used, X being its value operand. -/
def atomicLanes (m : MemOp) (w64 : Bool) (s : State) : List Lane :=
  oneLane (s.offset0 m) (atomicSize w64) (atomicSize w64)

/-- One atomic element of the issuing core at E3: the old value is written to sD at W and classes are ORed in (R315). -/
def atomicOp (i : Instr) (d : SReg) (m : MemOp) (w64 : Bool) (f : State → Nat → Nat × Classes) (s : State) : Out :=
  .next (slotOp i s (memChecks m.seg .at_ false true true (atomicLanes m w64)) fun s =>
    let loc := (s.resolve (s.rg m.seg) (s.offset0 m)).2
    let old := s.spLoad loc (atomicSize w64)
    let r := f s old
    ((s.spStore loc (atomicSize w64) r.1).setS d (BitVec.ofNat 64 old)).orFlags r.2)

/-- The operand value of an atomic: the low w bits of sX. -/
def State.atomicValue (s : State) (x : SReg) (w64 : Bool) : Nat := (s.rs x).toNat % 2 ^ (8 * atomicSize w64)

/-- An atomic of Table 14-3 other than ACAS. -/
def atomicForm (i : Instr) (op : AtomicOp) (d : SReg) (m : MemOp) (x : SReg) (w64 : Bool) (s : State) : Out :=
  atomicOp i d m w64 (fun s old =>
    atomicApply op w64 old (s.atomicValue x w64) (s.mode .dyn) (s.srBits (s.mode .dyn) 192)) s

def execAadd (g : Guard) (d : SReg) (m : MemOp) (x : SReg) (w64 : Bool) (s : State) : Out :=
  atomicForm (.aadd g d m x w64) .add d m x w64 s

def execAmin (g : Guard) (d : SReg) (m : MemOp) (x : SReg) (w64 : Bool) (s : State) : Out :=
  atomicForm (.amin g d m x w64) .min d m x w64 s

def execAmax (g : Guard) (d : SReg) (m : MemOp) (x : SReg) (w64 : Bool) (s : State) : Out :=
  atomicForm (.amax g d m x w64) .max d m x w64 s

def execAminn (g : Guard) (d : SReg) (m : MemOp) (x : SReg) (w64 : Bool) (s : State) : Out :=
  atomicForm (.aminn g d m x w64) .minn d m x w64 s

def execAmaxn (g : Guard) (d : SReg) (m : MemOp) (x : SReg) (w64 : Bool) (s : State) : Out :=
  atomicForm (.amaxn g d m x w64) .maxn d m x w64 s

def execAand (g : Guard) (d : SReg) (m : MemOp) (x : SReg) (w64 : Bool) (s : State) : Out :=
  atomicForm (.aand g d m x w64) .and d m x w64 s

def execAor (g : Guard) (d : SReg) (m : MemOp) (x : SReg) (w64 : Bool) (s : State) : Out :=
  atomicForm (.aor g d m x w64) .or d m x w64 s

def execAxor (g : Guard) (d : SReg) (m : MemOp) (x : SReg) (w64 : Bool) (s : State) : Out :=
  atomicForm (.axor g d m x w64) .xor d m x w64 s

def execAswap (g : Guard) (d : SReg) (m : MemOp) (x : SReg) (w64 : Bool) (s : State) : Out :=
  atomicForm (.aswap g d m x w64) .swap d m x w64 s

def execAfadd (g : Guard) (d : SReg) (m : MemOp) (x : SReg) (w64 : Bool) (s : State) : Out :=
  atomicForm (.afadd g d m x w64) .fadd d m x w64 s

def execAcas (g : Guard) (d : SReg) (m : MemOp) (x : SReg) (w64 : Bool) (s : State) : Out :=
  atomicOp (.acas g d m x w64) d m w64 (fun s old =>
    (if old = s.atomicValue d w64 then s.atomicValue x w64 else old, 0)) s

/-- RAOP (R313, R315): one element at the owner; its poison is deferred, and then nothing is performed. -/
def execRaop (g : Guard) (op : AtomicOp) (d : SReg) (m : MemOp) (x : SReg) (w64 : Bool) (s : State) : Out :=
  .next (slotOp (.raop g op d m x w64) s (replyChecks m.seg .at_ true (atomicLanes m w64)) fun s =>
    let q := s.rg m.seg
    let o := s.offset0 m
    let n := atomicSize w64
    let loc := (s.resolve q o).2
    let v := s.atomicValue x w64
    let mode := s.mode .dyn
    if s.ownsLane q o then
      match poisonAt s.core loc n with
      | some p => (s.startReply d (some (0, some p, 0))).2
      | none =>
        let old := s.spLoad loc n
        let r := atomicApply op w64 old v mode (s.srBits mode 192)
        ((s.startReply d (some (BitVec.ofNat 64 old, none, r.2))).2).spStore loc n r.1
    else
      let (id, s) := s.startReply d none
      s.sendAccess (.atomic op loc w64 (BitVec.ofNat 64 v) mode s.cur.pre.seed (BitVec.ofNat 64 s.cur.vt) s.lidx
        s.cur.slot.val) (s.ownerOf q o) 0 (some id))

end Sys2Proof.Machine
end

