-- ==== Sys2Proof/Machine/Queue.lean ====
section
/-!
DEFINITION. Queues and dependence counters (R316 to R320).
-/
namespace Sys2Proof.Machine

open Sys2Proof

/-! ## Queue headers (Table 14-4) -/

def qPub (h : Nat) : Nat := h / 2 ^ 64 % 2 ^ 64
def qRsv (h : Nat) : Nat := h / 2 ^ 40 % 2 ^ 24
def qTake (h : Nat) : Nat := h / 2 ^ 16 % 2 ^ 24
def qErr (h : Nat) : Bool := h.testBit 15
def qCapl (h : Nat) : Nat := h % 8
/-- Capacity C. -/
def qCap (h : Nat) : Nat := 2 ^ qCapl h
/-- Used. -/
def qUsed (h : Nat) : Nat := (qRsv h + 2 ^ 24 - qTake h) % 2 ^ 24

/-- A sound header, when room bytes lie from it to the segment's end (R316). -/
def qSound (h room : Nat) : Bool :=
  h / 8 % 2 ^ 12 == 0 && qCapl h != 7 && !qErr h && qUsed h ≤ qCap h && 16 + 8 * qCap h ≤ room

/-- The header from its fields. -/
def qMake (pub rsv take : Nat) (err : Bool) (capl : Nat) : Nat :=
  pub % 2 ^ 64 * 2 ^ 64 + rsv % 2 ^ 24 * 2 ^ 40 + take % 2 ^ 24 * 2 ^ 16 + b2n err * 2 ^ 15 + capl

def setBitN (x i : Nat) (v : Bool) : Nat := if x.testBit i == v then x else if v then x + 2 ^ i else x - 2 ^ i

/-- A write of an element: offset, size, value. -/
abbrev Writes := List (Nat × Nat × Nat)

/-- Perform an element's writes at the own core. -/
def State.spWrites (s : State) (ws : Writes) : State := ws.foldl (fun s w => s.spStore w.1 w.2.1 w.2.2) s

/-- QPUB's validity (R318). -/
def qpubValid (h room n : Nat) : Bool :=
  qSound h room && (n + 2 ^ 24 - qTake h) % 2 ^ 24 < qUsed h && !(qPub h).testBit (n % qCap h)

/-- A valid QPUB's writes. -/
def qpubWrites (h loc n : Nat) : Writes :=
  [(loc, 16, qMake (setBitN (qPub h) (n % qCap h) true) (qRsv h) (qTake h) (qErr h) (qCapl h))]

/-- ERR set in a header, its other bits as they are. -/
def qErrWrites (h loc : Nat) : Writes := [(loc, 16, setBitN h 15 true)]

/-- Where a record's QLOC names a header: it is 16-aligned and lies in the scratchpad (R320). -/
def depdecHeader (r spb : Nat) : Option Nat :=
  let q := r / 2 ^ 64 % 2 ^ 20
  if q % 16 = 0 ∧ q + 16 ≤ spb then some q else none

/-- DEPDEC's element (R320): the record's count, and the enqueue that the element finding old = 1 makes. The header is read after
COUNT, and again after QERR, has been written: it may be the record itself. -/
def depdecWrites (sp : Memory) (loc task spb : Nat) : Writes :=
  let r := memRead sp loc 16
  let old := r % 2 ^ 64
  let rec' := r / 2 ^ 64 * 2 ^ 64 + (old + 2 ^ 64 - 1) % 2 ^ 64
  let after (v q : Nat) : Nat := memRead (memWrite sp loc 16 v) q 16
  if old ≠ 1 then [(loc, 16, rec')]
  else match depdecHeader r spb with
    | none => [(loc, 16, setBitN rec' 127 true)]
    | some q =>
      let h := after rec' q
      if qSound h (spb - q) ∧ qUsed h < qCap h then
        let j := qRsv h % qCap h
        [(loc, 16, rec'), (q + 16 + 8 * j, 8, task),
         (q, 16, qMake (setBitN (qPub h) j true) (qRsv h + 1) (qTake h) (qErr h) (qCapl h))]
      else
        let rec' := setBitN rec' 127 true
        [(loc, 16, rec'), (q, 16, setBitN (after rec' q) 15 true)]

/-- The entry that DEPDEC's element enqueues, if it does. -/
def depdecEntry (sp : Memory) (loc spb : Nat) : Option Nat :=
  match depdecWrites sp loc 0 spb with
  | [_, e, _] => some e.1
  | _ => none

/-! ## Meanings -/

/-- The 16-byte lane of a queue or object form. -/
def objLanes (m : MemOp) (s : State) : List Lane := oneLane (s.offset0 m) 16 16

/-- The scratchpad offset of a form's object. -/
def State.objLoc (s : State) (m : MemOp) : Nat := (s.resolve (s.rg m.seg) (s.offset0 m)).2

def State.objHeader (s : State) (m : MemOp) : Nat := s.spLoad (s.objLoc m) 16

/-- Bytes from a form's object to the end of its segment. -/
def State.objRoom (s : State) (m : MemOp) : Nat := segLimit (s.rg m.seg) - s.offset0 m

/-- Bits of an offset as TADDR. -/
def State.objAddr (s : State) (m : MemOp) : Word := BitVec.ofNat 64 (s.offset0 m)

/-- The checks of an object form: lanes, poison and watchpoints; and, when no poison hides the contents, the form's own
conditions (R45). -/
def objChecks (m : MemOp) (team wr : Bool) (cond : State → List Trap) (s : State) : List Trap :=
  let base := memChecks m.seg .at_ team true wr (objLanes m) s
  let own := s.ownsLane (s.rg m.seg) (s.offset0 m)
  base ++ (if own && (poisonAt s.core (s.objLoc m) 16).isNone then cond s else [])

def execQrsv (g : Guard) (d : SReg) (m : MemOp) (s : State) : Out :=
  .next (slotOp (.qrsv g d m) s
    (objChecks m false true fun s =>
      if qSound (s.objHeader m) (s.objRoom m) then [] else [trapQueue 3 (s.objAddr m)])
    fun s =>
      let h := s.objHeader m
      if qUsed h = qCap h then s.setS d (BitVec.allOnes 64)
      else
        let n := qRsv h
        let e := s.offset0 m + 16 + 8 * (n % qCap h)
        (s.spStore (s.objLoc m) 16 (qMake (qPub h) (n + 1) (qTake h) (qErr h) (qCapl h))).setS d
          (BitVec.ofNat 64 (e % 2 ^ 40 * 2 ^ 24 + n)))

def execQpub (g : Guard) (d : SReg) (m : MemOp) (s : State) : Out :=
  .next (slotOp (.qpub g d m) s
    (objChecks m true true fun s =>
      if qpubValid (s.objHeader m) (s.objRoom m) ((s.rs d).toNat % 2 ^ 24) then []
      else [trapQueue 3 (s.objAddr m)])
    fun s =>
      let n := (s.rs d).toNat % 2 ^ 24
      if s.ownsLane (s.rg m.seg) (s.offset0 m) then         (s.spWrites (qpubWrites (s.objHeader m) (s.objLoc m) n)).publish s.core.key s.thread.known
          (s.objLoc m + 16 + 8 * (n % qCap (s.objHeader m)))
      else s.sendAccess (.qpub (s.objLoc m) (s.objRoom m) (BitVec.ofNat 24 n)) (s.ownerOf (s.rg m.seg) (s.offset0 m)) 0
        none)

/-- The entry that a QTAKE would take is published. -/
def qReady (h : Nat) : Bool := qUsed h != 0 && (qPub h).testBit (qTake h % qCap h)

/-- Offset of the oldest entry from its header. See log 18. -/
def qEntry (h : Nat) : Nat := 16 + 8 * (qTake h % qCap h)

/-- The header after a take. -/
def qTaken (h : Nat) : Nat :=
  qMake (setBitN (qPub h) (qTake h % qCap h) false) (qRsv h) (qTake h + 1) (qErr h) (qCapl h)

/-- A trap of a QTAKE evaluation (R319): QUEUE, or POISON of the entry it would take. -/
def qtakeTraps (c : Core) (loc room : Nat) (o : Word) : List Trap :=
  match poisonAt c loc 16 with
  | some p => [trapPoison 3 0 p 0]
  | none =>
    let h := memRead c.sp loc 16
    if !qSound h room then [trapQueue 3 o]
    else if qReady h then
      match poisonAt c (loc + qEntry h) 8 with
      | some p => [trapPoison 3 0 p 0]
      | none => []
    else []

def execQtake (g : Guard) (d : SReg) (m : MemOp) (s : State) : Out :=
  .next (slotOp (.qtake g d m) s
    (objChecks m false true fun s =>
      qtakeTraps s.core (s.objLoc m) (s.objRoom m) (s.objAddr m)
        ++ (if qReady (s.objHeader m) || !qSound (s.objHeader m) (s.objRoom m) || s.mayWait then [] else [trapSchedule 3 (s.objAddr m)]))
    fun s =>
      let loc := s.objLoc m
      let h := s.objHeader m
      if qReady h then
        let v := s.spLoad (loc + qEntry h) 8
        ((s.spStore loc 16 (qTaken h)).learn s.core.key s.cur.slot
          (s.core.entryKnown (loc + qEntry h))).setS d (BitVec.ofNat 64 v)
      else s.beginWait (.qtake loc (s.objAddr m) (s.objRoom m) (physS s.cur.pre.rrb d)))

/-- DEPDEC also reads the queue's header when it finds old = 1 and QLOC names one (R320). -/
def depdecPoison (s : State) (m : MemOp) : List Trap :=
  let r := s.objHeader m
  match depdecHeader r (partSPB s.record.part) with
  | some q =>
    match poisonAt s.core q 16 with
    | some p => if r % 2 ^ 64 = 1 then [trapPoison 3 0 p 0] else []
    | none => []
  | none => []

def execDepdec (g : Guard) (d : SReg) (m : MemOp) (s : State) : Out :=
  .next (slotOp (.depdec g d m) s (objChecks m true true fun s => depdecPoison s m) fun s =>
    if s.ownsLane (s.rg m.seg) (s.offset0 m) then
      let spb := partSPB s.record.part
      let t := s.spWrites (depdecWrites s.core.sp (s.objLoc m) (s.rs d).toNat spb)
      (depdecEntry s.core.sp (s.objLoc m) spb).elim t (t.publish s.core.key s.thread.known)
    else s.sendAccess (.depdec (s.objLoc m) (s.rs d)) (s.ownerOf (s.rg m.seg) (s.offset0 m)) 0 none)

end Sys2Proof.Machine
end

