-- ==== Sys2Proof/Machine/Scalar.lean ====
section
/-!
DEFINITION. Meanings of the S slot's arithmetic, compare, select, predicate and register-move instructions (R232 to R245,
R257 to R261).
-/
namespace Sys2Proof.Machine

open Sys2Proof

/-! ## Values -/

/-- Bits 127:64 of the signed product (Table 11-1). -/
def mulHigh (a b : Word) : Word := (a.signExtend 128 * b.signExtend 128).extractLsb' 64 64

/-- Bits 127:64 of the unsigned product. -/
def mulHighN (a b : Word) : Word := (a.zeroExtend 128 * b.zeroExtend 128).extractLsb' 64 64

/-- R237. -/
def divS (a b : Word) : Word := if b = 0 then BitVec.allOnes 64 else BitVec.ofInt 64 (Int.tdiv a.toInt b.toInt)
def remS (a b : Word) : Word := if b = 0 then a else BitVec.ofInt 64 (a.toInt - b.toInt * Int.tdiv a.toInt b.toInt)
def divN (a b : Word) : Word := if b = 0 then BitVec.allOnes 64 else BitVec.ofNat 64 (a.toNat / b.toNat)
def remN (a b : Word) : Word := if b = 0 then a else BitVec.ofNat 64 (a.toNat % b.toNat)

/-- The shift count B[5:0]. -/
def shiftCount (b : Word) : Nat := b.toNat % 64

def minS (a b : Word) : Word := if a.toInt ≤ b.toInt then a else b
def maxS (a b : Word) : Word := if a.toInt ≤ b.toInt then b else a
def minN (a b : Word) : Word := if a.toNat ≤ b.toNat then a else b
def maxN (a b : Word) : Word := if a.toNat ≤ b.toNat then b else a

/-- BEXT of R238: i counts the bits still to look at, from the top. -/
def bext (a b : Word) : Word :=
  let r := (List.range 64).foldl (fun (acc : Nat × Nat) i =>
    if b.getLsbD i then (acc.1 + 1, acc.2 + (if a.getLsbD i then 2 ^ acc.1 else 0)) else acc) (0, 0)
  BitVec.ofNat 64 r.2

/-- BDEP of R238. -/
def bdep (a b : Word) : Word :=
  let r := (List.range 64).foldl (fun (acc : Nat × Nat) i =>
    if b.getLsbD i then (acc.1 + 1, acc.2 + (if a.getLsbD acc.1 then 2 ^ i else 0)) else acc) (0, 0)
  BitVec.ofNat 64 r.2

/-- R239. -/
def leadingZeros (a : Word) : Word := BitVec.ofNat 64 (if a = 0 then 64 else 63 - Nat.log2 a.toNat)
def trailingZeros (a : Word) : Word :=
  BitVec.ofNat 64 (((List.range 64).find? fun i => a.getLsbD i).getD 64)
def countOnes (a : Word) : Word := BitVec.ofNat 64 ((List.range 64).countP fun i => a.getLsbD i)
def bitReverse (a : Word) : Word := a.reverse

/-- A condition of Table 10-3 between scalars. -/
def compareS (c : Cond) (a b : Word) : Bool :=
  match c with
  | .eq => a == b
  | .ne => a != b
  | .lt => a.toInt < b.toInt
  | .ge => a.toInt ≥ b.toInt
  | .le => a.toInt ≤ b.toInt
  | .gt => a.toInt > b.toInt
  | .ltn => a.toNat < b.toNat
  | .gen => a.toNat ≥ b.toNat
  | .len => a.toNat ≤ b.toNat
  | .gtn => a.toNat > b.toNat
  | .un | .ord => false

/-! ## Shared operations -/

/-- An S-slot form that writes a scalar of its operands at W. -/
def scalarOp (i : Instr) (d : SReg) (v : State → Word) (s : State) : Out :=
  .next (slotOp i s noChecks fun s => s.setS d (v s))

/-- An S-slot form that writes a predicate at W. -/
def predOp (i : Instr) (d : PReg) (v : State → Bool) (s : State) : Out :=
  .next (slotOp i s noChecks fun s => s.setP d (v s))

/-- A DIV-family operation: latency 3 (Table 2-2). -/
def longScalarOp (i : Instr) (d : SReg) (v : State → Word) (s : State) : Out :=
  .next (slotOp i s noChecks fun s => s.longS d (v s) 3)

/-! ## Register arithmetic and logic (R236 to R239) -/

def execAdd (g : Guard) (d a b : SReg) (s : State) : Out :=
  scalarOp (.add g d a b) d (fun s => s.rs a + s.rs b) s

def execSub (g : Guard) (d a b : SReg) (s : State) : Out :=
  scalarOp (.sub g d a b) d (fun s => s.rs a - s.rs b) s

def execMul (g : Guard) (d a b : SReg) (s : State) : Out :=
  scalarOp (.mul g d a b) d (fun s => s.rs a * s.rs b) s

def execMulh (g : Guard) (d a b : SReg) (s : State) : Out :=
  scalarOp (.mulh g d a b) d (fun s => mulHigh (s.rs a) (s.rs b)) s

def execMulhn (g : Guard) (d a b : SReg) (s : State) : Out :=
  scalarOp (.mulhn g d a b) d (fun s => mulHighN (s.rs a) (s.rs b)) s

def execDiv (g : Guard) (d a b : SReg) (s : State) : Out :=
  longScalarOp (.div g d a b) d (fun s => divS (s.rs a) (s.rs b)) s

def execDivn (g : Guard) (d a b : SReg) (s : State) : Out :=
  longScalarOp (.divn g d a b) d (fun s => divN (s.rs a) (s.rs b)) s

def execRem (g : Guard) (d a b : SReg) (s : State) : Out :=
  longScalarOp (.rem g d a b) d (fun s => remS (s.rs a) (s.rs b)) s

def execRemn (g : Guard) (d a b : SReg) (s : State) : Out :=
  longScalarOp (.remn g d a b) d (fun s => remN (s.rs a) (s.rs b)) s

def execAnd (g : Guard) (d a b : SReg) (s : State) : Out :=
  scalarOp (.and g d a b) d (fun s => s.rs a &&& s.rs b) s

def execOr (g : Guard) (d a b : SReg) (s : State) : Out :=
  scalarOp (.or g d a b) d (fun s => s.rs a ||| s.rs b) s

def execXor (g : Guard) (d a b : SReg) (s : State) : Out :=
  scalarOp (.xor g d a b) d (fun s => s.rs a ^^^ s.rs b) s

def execAndn (g : Guard) (d a b : SReg) (s : State) : Out :=
  scalarOp (.andn g d a b) d (fun s => s.rs a &&& ~~~(s.rs b)) s

def execOrn (g : Guard) (d a b : SReg) (s : State) : Out :=
  scalarOp (.orn g d a b) d (fun s => s.rs a ||| ~~~(s.rs b)) s

def execShl (g : Guard) (d a b : SReg) (s : State) : Out :=
  scalarOp (.shl g d a b) d (fun s => s.rs a <<< shiftCount (s.rs b)) s

def execShr (g : Guard) (d a b : SReg) (s : State) : Out :=
  scalarOp (.shr g d a b) d (fun s => s.rs a >>> shiftCount (s.rs b)) s

def execSra (g : Guard) (d a b : SReg) (s : State) : Out :=
  scalarOp (.sra g d a b) d (fun s => (s.rs a).sshiftRight (shiftCount (s.rs b))) s

def execRol (g : Guard) (d a b : SReg) (s : State) : Out :=
  scalarOp (.rol g d a b) d (fun s => (s.rs a).rotateLeft (shiftCount (s.rs b))) s

def execMin (g : Guard) (d a b : SReg) (s : State) : Out :=
  scalarOp (.min g d a b) d (fun s => minS (s.rs a) (s.rs b)) s

def execMax (g : Guard) (d a b : SReg) (s : State) : Out :=
  scalarOp (.max g d a b) d (fun s => maxS (s.rs a) (s.rs b)) s

def execMinn (g : Guard) (d a b : SReg) (s : State) : Out :=
  scalarOp (.minn g d a b) d (fun s => minN (s.rs a) (s.rs b)) s

def execMaxn (g : Guard) (d a b : SReg) (s : State) : Out :=
  scalarOp (.maxn g d a b) d (fun s => maxN (s.rs a) (s.rs b)) s

def execBext (g : Guard) (d a b : SReg) (s : State) : Out :=
  scalarOp (.bext g d a b) d (fun s => Machine.bext (s.rs a) (s.rs b)) s

def execBdep (g : Guard) (d a b : SReg) (s : State) : Out :=
  scalarOp (.bdep g d a b) d (fun s => Machine.bdep (s.rs a) (s.rs b)) s

/-! ## Compare, select, LEA (R242 to R244) -/

def execCmp (g : Guard) (cc : Cond) (d : PReg) (a b : SReg) (s : State) : Out :=
  predOp (.cmp g cc d a b) d (fun s => compareS cc (s.rs a) (s.rs b)) s

def execSel (g : Guard) (d : SReg) (p : PReg) (a b : SReg) (s : State) : Out :=
  scalarOp (.sel g d p a b) d (fun s => if s.rp p then s.rs a else s.rs b) s

def execLea (g : Guard) (d a b : SReg) (sh : Fin 8) (off : BitVec 17) (s : State) : Out :=
  scalarOp (.lea g d a b sh off) d (fun s => s.rs a + (s.rs b <<< sh.val) + off.signExtend 64) s

def execClz (g : Guard) (d a : SReg) (s : State) : Out :=
  scalarOp (.clz g d a) d (fun s => leadingZeros (s.rs a)) s

def execCtz (g : Guard) (d a : SReg) (s : State) : Out :=
  scalarOp (.ctz g d a) d (fun s => trailingZeros (s.rs a)) s

def execPopc (g : Guard) (d a : SReg) (s : State) : Out :=
  scalarOp (.popc g d a) d (fun s => countOnes (s.rs a)) s

def execBrev (g : Guard) (d a : SReg) (s : State) : Out :=
  scalarOp (.brev g d a) d (fun s => bitReverse (s.rs a)) s

/-! ## Immediate forms (R240, R241, R243) -/

def execAddi (g : Guard) (d a : SReg) (imm : BitVec 36) (s : State) : Out :=
  scalarOp (.addi g d a imm) d (fun s => s.rs a + imm.signExtend 64) s

def execAndi (g : Guard) (d a : SReg) (imm : BitVec 36) (s : State) : Out :=
  scalarOp (.andi g d a imm) d (fun s => s.rs a &&& imm.zeroExtend 64) s

def execOri (g : Guard) (d a : SReg) (imm : BitVec 36) (s : State) : Out :=
  scalarOp (.ori g d a imm) d (fun s => s.rs a ||| imm.zeroExtend 64) s

def execXori (g : Guard) (d a : SReg) (imm : BitVec 36) (s : State) : Out :=
  scalarOp (.xori g d a imm) d (fun s => s.rs a ^^^ imm.zeroExtend 64) s

def execShli (g : Guard) (d a : SReg) (n : Fin 64) (s : State) : Out :=
  scalarOp (.shli g d a n) d (fun s => s.rs a <<< n.val) s

def execShri (g : Guard) (d a : SReg) (n : Fin 64) (s : State) : Out :=
  scalarOp (.shri g d a n) d (fun s => s.rs a >>> n.val) s

def execSrai (g : Guard) (d a : SReg) (n : Fin 64) (s : State) : Out :=
  scalarOp (.srai g d a n) d (fun s => (s.rs a).sshiftRight n.val) s

def execCmpi (g : Guard) (cc : Cond) (d : PReg) (a : SReg) (imm : BitVec 36) (s : State) : Out :=
  predOp (.cmpi g cc d a imm) d (fun s => compareS cc (s.rs a) (imm.signExtend 64)) s

def execLi (g : Guard) (d : SReg) (imm : BitVec 36) (s : State) : Out :=
  scalarOp (.li g d imm) d (fun _ => imm.signExtend 64) s

def execLih (g : Guard) (d a : SReg) (imm : BitVec 32) (s : State) : Out :=
  scalarOp (.lih g d a imm) d (fun s => (imm ++ (s.rs a).extractLsb' 0 32 : BitVec 64)) s

/-! ## Predicate forms (R245) -/

def execPand (g : Guard) (d a b : PReg) (s : State) : Out :=
  predOp (.pand g d a b) d (fun s => s.rp a && s.rp b) s

def execPor (g : Guard) (d a b : PReg) (s : State) : Out :=
  predOp (.por g d a b) d (fun s => s.rp a || s.rp b) s

def execPxor (g : Guard) (d a b : PReg) (s : State) : Out :=
  predOp (.pxor g d a b) d (fun s => s.rp a != s.rp b) s

def execPnot (g : Guard) (d a : PReg) (s : State) : Out := predOp (.pnot g d a) d (fun s => !s.rp a) s

def execPset (g : Guard) (d : PReg) (v : Bool) (s : State) : Out := predOp (.pset g d v) d (fun _ => v) s

/-! ## Control registers (R64 to R67, R257, R258) -/

/-- THRCTL (Table 3-4). -/
def thrctl (t : Thread) (elastic : Bool) : Word :=
  BitVec.ofNat 64 (b2n t.trapped * 2 ^ 15 + b2n elastic * 2 ^ 14 + b2n t.chk * 2 ^ 13 + b2n t.deadtrap * 2 ^ 12
    + b2n t.deadseen * 2 ^ 11)

/-- TDESCn (Table 3-2); a thread's own read finds INFL = 0 (R62). -/
def tdesc (x : Tile) : Word :=
  BitVec.ofNat 64 (b2n x.valid * 2 ^ 31 + b2n x.dirty * 2 ^ 30 + x.fmt.toNat * 2 ^ 24 + x.rows.toNat * 2 ^ 16
    + x.cols.toNat * 2 ^ 8)

/-- COREXY (Table 3-5). See log 7. -/
def Core.corexy (c : Core) : Nat :=
  Config.packageIndex.toNat * 2 ^ 12 + c.die.val * 2 ^ 8 + c.y.val * 16 + c.x.val

/-- TEAMID (Table 3-5). -/
def teamid (tsize lidx : Nat) : Word := BitVec.ofNat 64 (tsize * 2 ^ 32 + lidx)

/-- WATCH0 to WATCH3 as the open bundle's D found them, three cycles before its E3 (R64). -/
def Core.watchAtD (c : Core) : Vector Word 4 := c.watchHist.getD 3 (c.watchAt c.vx)

/-- ALIGNCTL as the open bundle's D found it (R64). -/
def State.alignAtD (s : State) : Word :=
  let d := s.die s.core.die
  d.alignHist.getD 3 (alignctl d s.firm)

/-- The value that MFC reads at D (R64, Table 3-3). -/
def State.readCtl (s : State) (n : Nat) : Word :=
  let t := s.cur.pre
  let r := s.record
  if n = 0x000 then thrctl t r.elastic
  else if n = 0x001 then t.tvec.zeroExtend 64
  else if n = 0x002 then t.tcause.zeroExtend 64
  else if n = 0x003 then t.tpc.zeroExtend 64
  else if n = 0x004 then t.taddr
  else if n = 0x005 then t.tlane.zeroExtend 64
  else if n = 0x006 then t.lastrp.zeroExtend 64
  else if n = 0x008 then t.rrb.zeroExtend 64
  else if n = 0x009 then t.lc
  else if n = 0x00A then t.ec.zeroExtend 64
  else if n = 0x00B then t.deadm
  else if n = 0x010 then t.fpctl
  else if n = 0x011 then t.seed
  else if n = 0x020 then BitVec.ofNat 64 s.cur.tick
  else if n = 0x021 then BitVec.ofNat 64 s.cur.vt
  else if n = 0x022 then BitVec.ofNat 64 s.cur.dtick
  else if n = 0x030 then teamid r.tsize s.lidx
  else if n = 0x031 then BitVec.ofNat 64 s.core.corexy
  else if n = 0x032 then BitVec.ofNat 64 s.cur.slot.val
  else if n = 0x033 then r.part
  else if n = 0x034 then t.wireto.zeroExtend 64
  else if n = 0x035 then s.alignAtD
  else if n / 16 = 4 then (t.acct.toList.getD (n % 16) 0).zeroExtend 64
  else if n / 4 = 0x14 then t.bkpt.toList.getD (n % 4) 0
  else if n / 4 = 0x16 then s.core.watchAtD.toList.getD (n % 4) 0
  else if n / 16 = 6 then (if n % 16 < partNT r.part then (t.t.toList.map tdesc).getD (n % 16) 0 else 0)
  else 0

/-- FPCTL after a write (Table 8-9): reserved fields stay 0; RM keeps its value under codes 6 and 7. -/
def fpctlWrite (old v : Word) : Word :=
  let rm := if bitsNat v 31 29 ≥ 6 then bitsNat old 31 29 else bitsNat v 31 29
  BitVec.ofNat 64 (rm * 2 ^ 29 + bitsNat v 20 16 * 2 ^ 16 + bitsNat v 4 0)

/-- BKPT after a write: bits 61:12 are reserved (Table 16-5, R6). -/
def bkptWrite (v : Word) : Word := BitVec.ofNat 64 (bitsNat v 63 62 * 2 ^ 62 + bitsNat v 11 0)

/-- MTC to a register of the thread (Table 11-9). -/
def Thread.writeCtl (t : Thread) (elastic : Bool) (n : Nat) (v : Word) : Thread :=
  if n = 0x000 then
    { t with chk := if elastic then bitAt v 13 else t.chk, deadtrap := bitAt v 12,
             deadseen := t.deadseen && !bitAt v 11 }
  else if n = 0x001 then { t with tvec := v.truncate 12 }
  else if n = 0x002 then { t with tcause := v.truncate 8 }
  else if n = 0x003 then { t with tpc := v.truncate 12 }
  else if n = 0x004 then { t with taddr := v }
  else if n = 0x005 then { t with tlane := v.truncate 6 }
  else if n = 0x006 then { t with lastrp := v.truncate 12 }
  else if n = 0x008 then { t with rrb := v.truncate 3 }
  else if n = 0x009 then { t with lc := v }
  else if n = 0x00A then { t with ec := v.truncate 8 }
  else if n = 0x00B then { t with deadm := v &&& ~~~3 }
  else if n = 0x010 then { t with fpctl := fpctlWrite t.fpctl v }
  else if n = 0x011 then { t with seed := v }
  else if n = 0x034 then { t with wireto := v.truncate 32 }
  else if n / 4 = 0x14 then { t with bkpt := t.bkpt.setIfInBounds (n % 4) (bkptWrite v) }
  else t

/-- MTC: the thread's registers at W, a WATCH register by its later issue (R258). -/
def State.writeCtl (s : State) (n : Nat) (v : Word) : State :=
  if n / 4 = 0x16 then
    { s with core := { s.core with watchPend := s.core.watchPend ++ [(s.cur.vt, Fin.ofNat 4 n, v)] } }
  else s.modThread fun t => t.writeCtl s.record.elastic n v

def execMfc (g : Guard) (d : SReg) (n : BitVec 12) (s : State) : Out :=
  scalarOp (.mfc g d n) d (fun s => s.readCtl n.toNat) s

def execMtc (g : Guard) (n : BitVec 12) (a : SReg) (s : State) : Out :=
  .next (slotOp (.mtc g n a) s noChecks fun s => s.writeCtl n.toNat (s.rs a))

/-! ## Shared registers and segment registers (R59, R259 to R261) -/

/-- A shared register as seen when every write issued at VTICK v with v + delay ≤ x has taken effect (R30, R59). -/
def Core.sharedAt (c : Core) (r : CReg) (delay x : Nat) : Word :=
  c.cPend.foldl (fun v p => if p.2.1 = r ∧ p.1 + delay ≤ x then p.2.2 else v) c.c[r.val]

def execMfs (g : Guard) (d : SReg) (c : CReg) (s : State) : Out :=
  scalarOp (.mfs g d c) d (fun s => s.core.sharedAt c 8 s.cur.vt) s

def execMts (g : Guard) (c : CReg) (a : SReg) (s : State) : Out :=
  .next (slotOp (.mts g c a) s noChecks fun s =>
    { s with core := { s.core with cPend := s.core.cPend ++ [(s.cur.vt, c, s.rs a)] } })

/-- The value that SEGSET forms. -/
def segPair (hi lo : Word) : Quad := hi ++ lo

def execSegset (g : Guard) (n : GReg) (a b : SReg) (s : State) : Out :=
  .next (slotOp (.segset g n a b) s
    (fun s => if segOk (segPair (s.rs a) (s.rs b)) (partSPB s.record.part) s.record.rect then []
      else [trapRights 0 0 0 0])
    fun s => s.modThread fun t => { t with g := t.g.set n.val (segPair (s.rs a) (s.rs b)) })

def execSegget (g : Guard) (d : SReg) (n : GReg) (s : State) : Out :=
  .next (slotOp (.segget g d n) s noChecks fun s =>
    (s.setS d ((s.rg n).extractLsb' 64 64)).setS (regAfter d 1) ((s.rg n).extractLsb' 0 64))

/-! ## NOP (R235) -/

def execNop (s : State) : Out := .next s

end Sys2Proof.Machine
end

