-- ==== Sys2Proof/Machine/Barrier.lean ====
section
/-!
DEFINITION. Barrier objects, the mailbox, FENCE and ACSNAP (R139 to R142, R323 to R329).
-/
namespace Sys2Proof.Machine

open Sys2Proof

/-! ## Barrier objects (Tables 5-4 and 5-5) -/

/-- The fields of a barrier object. -/
structure BarrierObject where
  phase : Nat
  remain : Int
  arrive : Int
  error : Bool
  overrun : Bool
  poison : Bool
  fault : Bool
  rbytes : Nat
  rarr : Nat
  deriving DecidableEq, Repr

/-- A w-bit pattern as a signed number. -/
def signedNat (w x : Nat) : Int := if x < 2 ^ (w - 1) then x else (x : Int) - (2 ^ w : Nat)

/-- The w-bit pattern of a number. -/
def natOfInt (w : Nat) (x : Int) : Nat := (x % (2 ^ w : Nat)).toNat

def BarrierObject.ofNat (x : Nat) : BarrierObject :=
  ⟨x / 2 ^ 112 % 2 ^ 16, signedNat 40 (x / 2 ^ 72 % 2 ^ 40), signedNat 16 (x / 2 ^ 56 % 2 ^ 16), x.testBit 55,
   x.testBit 54, x.testBit 53, x.testBit 52, x / 2 ^ 16 % 2 ^ 36, x % 2 ^ 16⟩

def BarrierObject.toNat (b : BarrierObject) : Nat :=
  b.phase % 2 ^ 16 * 2 ^ 112 + natOfInt 40 b.remain * 2 ^ 72 + natOfInt 16 b.arrive * 2 ^ 56 + b2n b.error * 2 ^ 55
    + b2n b.overrun * 2 ^ 54 + b2n b.poison * 2 ^ 53 + b2n b.fault * 2 ^ 52 + b.rbytes % 2 ^ 36 * 2 ^ 16 + b.rarr % 2 ^ 16

/-- Faulted of R141. -/
def BarrierObject.faulted (b : BarrierObject) : Bool := b.error || b.poison || b.fault

/-- A sum clamped to a signed count of w bits (R141, R323). -/
def heldCount (w : Nat) (x : Int) : Int := max (-(2 ^ (w - 1) : Nat)) (min x ((2 ^ (w - 1) : Nat) - 1))

/-- Advance of R141. -/
def BarrierObject.advance (b : BarrierObject) : BarrierObject :=
  let b := { b with overrun := b.overrun || decide (b.remain < 0) || decide (b.arrive < 0) }
  if !b.overrun && b.remain == 0 && b.arrive == 0 then
    { b with phase := (b.phase + 1) % 2 ^ 16, remain := b.rbytes, arrive := signedNat 16 b.rarr }
  else b

/-- BOEXP, BOARR and an engine count: nothing while Faulted, else the changes, then Advance (Table 5-5). -/
def BarrierObject.change (b : BarrierObject) (bytes arrivals : Int) : BarrierObject :=
  if b.faulted then b
  else { b with remain := heldCount 40 (b.remain + bytes), arrive := heldCount 16 (b.arrive + arrivals) : BarrierObject }.advance

/-- A phase is reached (R142). -/
def phaseReached (phase e : Nat) : Bool := (phase % 2 ^ 16 + 2 ^ 16 - e % 2 ^ 16) % 2 ^ 16 < 32768

/-- The writes of a change of the object at loc. -/
def objectWrites (sp : Memory) (loc : Nat) (bytes arrivals : Int) : Writes :=
  [(loc, 16, ((BarrierObject.ofNat (memRead sp loc 16)).change bytes arrivals).toNat)]

def State.object (s : State) (m : MemOp) : BarrierObject := BarrierObject.ofNat (s.objHeader m)

/-- No condition of its own. -/
def noCond : State → List Trap := fun _ => []

def execBoinit (g : Guard) (d : SReg) (m : MemOp) (x : SReg) (s : State) : Out :=
  .next (slotOp (.boinit g d m x) s (memChecks m.seg .at_ false false true (objLanes m)) fun s =>
    let lo := (s.rs x).toNat
    let v := (s.rs d).toNat * 2 ^ 64 + (lo - lo / 2 ^ 52 % 16 * 2 ^ 52)
    s.spStore (s.objLoc m) 16 v)

def execBoexp (g : Guard) (d : SReg) (m : MemOp) (x : SReg) (s : State) : Out :=
  .next (slotOp (.boexp g d m x) s (objChecks m false true noCond) fun s =>
    s.spWrites (objectWrites s.core.sp (s.objLoc m) (s.rs d).toInt (s.rs x).toInt))

def execBoarr (g : Guard) (m : MemOp) (s : State) : Out :=
  .next (slotOp (.boarr g m) s (objChecks m true true noCond) fun s =>
    if s.ownsLane (s.rg m.seg) (s.offset0 m) then s.spWrites (objectWrites s.core.sp (s.objLoc m) 0 (-1))
    else s.sendAccess (.boarr (s.objLoc m)) (s.ownerOf (s.rg m.seg) (s.offset0 m)) 0 none)

/-- Steps 1 and 2 of R142, and POISON before them. -/
def bwaitTraps (c : Core) (loc : Nat) (o : Word) : List Trap :=
  match poisonAt c loc 16 with
  | some p => [trapPoison 3 0 p 0]
  | none =>
    let b := BarrierObject.ofNat (memRead c.sp loc 16)
    if b.overrun then [trapOverrun 3 o]
    else if b.faulted then [trapEngine 3 (BitVec.ofNat 64 (natOfInt 40 b.remain))]
    else []

def execBwait (g : Guard) (m : MemOp) (x : SReg) (s : State) : Out :=
  .next (slotOp (.bwait g m x) s
    (objChecks m false false fun s =>
      let b := s.object m
      let t := bwaitTraps s.core (s.objLoc m) (s.objAddr m)
      if !t.isEmpty then t
      else if phaseReached b.phase ((s.rs x).toNat % 2 ^ 16) || s.mayWait then []
      else [trapSchedule 3 (s.objAddr m)])
    fun s =>
      if phaseReached (s.object m).phase ((s.rs x).toNat % 2 ^ 16) then
        s.acquire s.core.key s.cur.slot (s.objLoc m) ((s.rs x).toNat % 2 ^ 16)
      else s.beginWait (.bwait (s.objLoc m) (s.objAddr m) ((s.rs x).truncate 16)))

def execBtest (g : Guard) (d : PReg) (m : MemOp) (x : SReg) (s : State) : Out :=
  .next (slotOp (.btest g d m x) s (objChecks m false false noCond) fun s =>
    let b := s.object m
    let e := (s.rs x).toNat % 2 ^ 16
    let reached := phaseReached b.phase e && !b.faulted && !b.overrun
    (if reached then s.acquire s.core.key s.cur.slot (s.objLoc m) e else s).setP d reached)

/-! ## Mailbox (R139, R326, R327) -/

/-- STATUS of a message. -/
def mailStatus (m : Quad) : Nat := bitsNat m 111 108

/-- ENGINE_FAULT of the oldest message (R326). -/
def mwaitTraps (c : Core) : List Trap :=
  match c.mailbox with
  | m :: _ => if 1 ≤ mailStatus m && mailStatus m ≤ 3 then [trapEngine 3 (m.extractLsb' 0 64)] else []
  | [] => []

def execMwait (g : Guard) (s : State) : Out :=
  .next (slotOp (.mwait g) s
    (fun s => mwaitTraps s.core ++ (if s.core.mailbox.isEmpty && !s.mayWait then [trapSchedule 3 0] else []))
    fun s => if s.core.mailbox.isEmpty then s.beginWait .mwait else s)

/-- The pair that MPOP and MPEEK write; of a completion the thread learns its request's accesses (R94). -/
def State.mailPair (s : State) (d : SReg) : State :=
  match s.core.mailbox with
  | m :: _ =>
    ((s.learn s.core.key s.cur.slot (s.mailKnown s.core.key m)).setS d (m.extractLsb' 64 64)).setS (regAfter d 1) (m.extractLsb' 0 64)
  | [] => (s.setS d (BitVec.allOnes 64)).setS (regAfter d 1) 0

def execMpop (g : Guard) (d : SReg) (s : State) : Out :=
  .next (slotOp (.mpop g d) s noChecks fun s =>
    let s := s.mailPair d
    let gone := (s.core.mailbox.head?.bind s.core.completionOf).map (·.1)
    { s with core := { s.core with mailbox := s.core.mailbox.tail, done := s.core.done.filter fun p => some p.1 ≠ gone } })

def execMpeek (g : Guard) (d : SReg) (s : State) : Out :=
  .next (slotOp (.mpeek g d) s noChecks fun s => s.mailPair d)

/-! ## FENCE (R98 to R101, R122, R328) -/

/-- A mark for the next push, and the condition on the thread's later remote accesses. While two FENCEs' windows are open, the later
one alone is kept: its cycle F is never the lower, and its PC is TADDR of R123 (log 89). -/
def execFence (g : Guard) (sc : FenceScope) (s : State) : Out :=
  .next (slotOp (.fence g sc) s noChecks fun s =>
    let f := s.cur.pre.lastRemote.getD (s.cur.tick + 4)
    let l := addKnown s.thread.fenced s.thread.performed
    let s := { s with core := { s.core with marks := s.core.marks ++ [⟨sc, f, s.cur.slot, s.fresh, l⟩] } }
    if sc = .core then s
    else s.modThread fun t => { t with fence := some (f, s.cur.pc), fenceId := s.fresh, fenced := l, performed := [] })

/-! ## ACSNAP (R329, R353) -/

def acsnapLanes (m : MemOp) (x : SReg) (s : State) : List Lane :=
  let o := s.offsetX m x 1
  (List.range 17).map fun j => ⟨j, j, (o + 64 * j) % 2 ^ 64, 64, 64⟩

/-- The counters of a slot at the boundary that began the issuing rotation: a lower slot has been charged since. -/
def snapCounters (t : Thread) (before : Bool) : List Nat :=
  (List.finRange 16).map fun n =>
    let v := t.acct[n.val].toNat
    if n.val = 15 then 0 else if before && t.lastCause.code == n then (v + 2 ^ 48 - 1) % 2 ^ 48 else v

/-- The ACSNAP record, lowest byte first (Table 16-2). -/
def State.snapRecord (s : State) : List Byte :=
  let b := s.cur.slot.val
  let d := s.die s.core.die
  let header := pack [(64, s.cur.vt - b), (64, s.cur.tick - b), (64, d.dhist.getD (4 + b) s.cur.dtick), (32, s.lidx),
    (16, s.record.asid), (24, s.core.corexy), (248, 0)]
  leBytes 64 header
    ++ (List.finRange 8).flatMap fun u => (snapCounters s.core.slots[u.val] (u.val < b)).flatMap (leBytes 8)

def execAcsnap (g : Guard) (m : MemOp) (x : SReg) (s : State) : Out :=
  .next (slotOp (.acsnap g m x) s
    (fun s =>
      let q := s.rg m.seg
      let l := acsnapLanes m x s
      laneChecks s q .wr false true l ++ accessTraps s 3 false true (s.ownSpans q l))
    fun s =>
      let loc := (s.resolve (s.rg m.seg) (s.offsetX m x 1)).2
      (s.spStore loc 1088 (ofLeBytes s.snapRecord)).clearCovered [(loc, 1088)])

end Sys2Proof.Machine
end

