-- ==== Sys2Proof/Machine/Exchange.lean ====
section
/-!
DEFINITION. SEND, RECV and RECVT (R146 to R150, R333 to R336).
-/
namespace Sys2Proof.Machine

open Sys2Proof

/-- The logical index of a core of the issuer's rectangle (R334). -/
def State.rectCore (s : State) (i : Nat) : Nat := s.record.rankOf s.lidx * s.record.rect + i

/-- X-slot words come after the L slot's lanes (R148). -/
def xOrder : Nat := 4096

def execSend (g : Guard) (a : SReg) (dst : BitVec 8) (seq : BitVec 5) (s : State) : Out :=
  .next (slotOp (.send g a dst seq) s noChecks fun s =>
    s.sendFlight (.word (seq.zeroExtend 8) (s.rs a)) (s.rectCore dst.toNat) xOrder)

/-- The tag that RECV and RECVT name: SENDER :: SEQ (R334). -/
def State.tagOf (s : State) (d : SReg) (t : TagSel) : BitVec 32 :=
  match t with
  | .imm i q => BitVec.ofNat 32 (s.rectCore i.toNat * 256 + q.toNat)
  | .reg => (s.rs d).truncate 32

def Landed.tag (l : Landed) : BitVec 32 := l.sender ++ l.seq

/-- The oldest-landed word with a tag. -/
def Core.landed (c : Core) (tag : BitVec 32) : Option Word := (c.landing.find? fun l => l.tag = tag).map (·.data)

/-- Free the oldest-landed entry with a tag. -/
def Core.freeLanded (c : Core) (tag : BitVec 32) : Core :=
  { c with landing := c.landing.eraseP fun l => l.tag = tag }

def execRecv (g : Guard) (d : SReg) (tag : TagSel) (s : State) : Out :=
  .next (slotOp (.recv g d tag) s
    (fun s => if (s.core.landed (s.tagOf d tag)).isSome || s.mayWait then []
      else [trapSchedule 4 ((s.tagOf d tag).zeroExtend 64)])
    fun s =>
      match s.core.landed (s.tagOf d tag) with
      | some v => ({ s with core := s.core.freeLanded (s.tagOf d tag) }).setS d v
      | none => s.beginWait (.recv (s.tagOf d tag) (physS s.cur.pre.rrb d)))

/-- The physical predicate that a wait writes when it ends; none of it when a LOOP of the bundle writes it (R250). -/
def State.waitPred (s : State) (b : PReg) : PReg :=
  let q := physP s.cur.pre.rrb b
  if s.cur.loopPred = some q then 0 else q

def execRecvt (g : Guard) (d a : SReg) (b : PReg) (tag : TagSel) (s : State) : Out :=
  .next (slotOp (.recvt g d a b tag) s noChecks fun s =>
    let t := s.tagOf d tag
    match s.core.landed t with
    | some v => (({ s with core := s.core.freeLanded t }).setS d v).setP b false
    | none =>
      if (s.rs a).toNat ≤ s.core.vx then (s.setS d 0).setP b true
      else s.beginWait (.recvt t (physS s.cur.pre.rrb d) (s.rs a) (s.waitPred b)))

end Sys2Proof.Machine
end

