-- ==== Sys2Proof/Machine/Window.lean ====
section
/-!
DEFINITION. Window words and active messages on their way out (R16, R161, R340 to R342).
-/
namespace Sys2Proof.Machine

open Sys2Proof

/-! ## Routes (R16, R161) -/

/-- Dies from column a to column b of a row, both included. -/
def rowRoute (row a b : Nat) : List Nat :=
  if a ≤ b then (List.range (b + 1 - a)).map fun i => 4 * row + a + i
  else (List.range (a + 1 - b)).map fun i => 4 * row + a - i

/-- The row and column of a compute die. -/
def dieRow (d : Nat) : Nat := d / 4
def dieCol (d : Nat) : Nat := d % 4

/-- The column by which a hub die is entered or left. -/
def hubCol (h : Nat) : Nat := if h = 8 then 0 else 3

/-- The dies of a route from a to b, both included: along the row to the destination's column, then between the rows; a hub
die is entered or left through the compute die of the destination's or source's row at its edge. -/
def dieRoute (a b : Nat) : List Nat :=
  if a = b then [a]
  else if a < 8 ∧ b < 8 then
    rowRoute (dieRow a) (dieCol a) (dieCol b) ++ (if dieRow a = dieRow b then [] else [b])
  else if a < 8 then rowRoute (dieRow a) (dieCol a) (hubCol b) ++ [b]
  else if b < 8 then a :: rowRoute (dieRow b) (hubCol a) (dieCol b)
  else a :: rowRoute 0 (hubCol a) (hubCol b) ++ [b]

/-! ## Destinations -/

/-- Cores of the team on one package. -/
def Record.perPackage (r : Record) : Nat := r.m * r.n * r.d

/-- The package rank of a logical index. -/
def Record.packageOf (r : Record) (lidx : Nat) : Nat := lidx / Nat.max r.perPackage 1

/-- The index of the package of a logical index in the system. -/
def Record.packageIndex (r : Record) (lidx : Nat) : Nat := Config.packageOfRank r.jobKey (r.packageOf lidx)

/-- Whether a logical index stands on this package. -/
def Record.here (r : Record) (lidx : Nat) : Bool := r.packageOf lidx == r.pkgRank

/-- The die on which a core of a context stands; 0 when there is none. -/
def State.dieOf (s : State) (ctx lidx : Nat) : Nat :=
  match s.findCore ⟨ctx, lidx⟩ with
  | some c => c.die.val
  | none => 0

/-- A window word of a sender's core leaves at a TICK of its die, with a place in its block. A word for another package goes
to a hub die, one and the same for all the words of a die to a package, so that they keep their order (R178; log 14). -/
def State.sendWindow (s : State) (c : Core) (r : Record) (dst : Nat) (seq : Byte) (data : Word)
    (handle : Option (BitVec 24)) (issue sent order : Nat) : State :=
  let (id, s) := s.newId
  let target := if r.here dst then s.dieOf c.key.ctx dst else 8 + Config.hubOf c.die.val (r.packageOf dst) % 2
  let w : WindowWord := ⟨id, c.key.ctx, c.key.lidx, c.die.val, dst, seq, data, if r.here dst then 1 else 2, handle, r.jobKey,
    dieRoute c.die.val target, issue, order, 0, none, 0, sent, none, .moving⟩
  { s with windows := s.windows ++ [w] }

/-- Links of a word's route (Lk). -/
def WindowWord.links (w : WindowWord) : Nat := w.crossed + (w.route.length - 1)

/-! ## WSEND and AMSG (R340, R341) -/

/-- The check of a destination word. -/
def destTraps (s : State) (b : SReg) : List Trap :=
  if bitsNat (s.rs b) 63 24 ≠ 0 || s.record.tsize ≤ bitsNat (s.rs b) 23 0 then [trapRights 4 0 (s.rs b) 0] else []

/-- The words of a WSEND. See log 13. -/
def State.wsendWords (s : State) (a : SReg) (nw : Option (BitVec 5)) : List Word :=
  match nw with
  | none => [s.rs a]
  | some n => (List.range (n.toNat + 1)).map fun i => BitVec.ofNat 64 (s.spLoad ((s.rs a).toNat + 8 * i) 8)

/-- The checks of a block that an X-slot form reads by raw offset: alignment, bounds, poison and watchpoints. See log 13. -/
def rawChecks (s : State) (o n unit : Nat) : List Trap :=
  (if o % unit ≠ 0 then [trapAlign 4 0 (BitVec.ofNat 64 o) 0] else [])
  ++ (if o + n > partSPB s.record.part then [trapBounds 4 0 (BitVec.ofNat 64 o) 0] else [])
  ++ accessTraps s 4 true false [(0, 0, o, n)]

def execWsend (g : Guard) (a b : SReg) (seq : Byte) (nw : Option (BitVec 5)) (s : State) : Out :=
  .next (slotOp (.wsend g a b seq nw) s
    (fun s => destTraps s b ++ (match nw with
      | some n => rawChecks s (s.rs a).toNat (8 * (n.toNat + 1)) 8
      | none => []))
    fun s =>
      let dst := bitsNat (s.rs b) 23 0
      ((s.wsendWords a nw).zipIdx).foldl
        (fun t w => t.sendWindow t.core t.record dst seq w.1 none t.cur.tick t.cur.dtick w.2) s)

/-- An item leaves by the port of a hub die that leads to its package; a removed port carries no traffic, and the item is lost (R467;
log 69). -/
def State.leaveBy (s : State) (hub : Nat) (pkg : Nat) (item : FabricItem) : State :=
  if s.portUp (Fin.ofNat 2 hub) (Fin.ofNat 16 (Config.portOf hub pkg)) then { s with fabricOut := s.fabricOut ++ [(pkg, item)] } else s

/-- Table 15-3. -/
def activeMessage (tag : BitVec 14) (sender : Nat) (data : Word) : Quad :=
  BitVec.ofNat 128 (pack [(2, 0), (14, tag.toNat), (4, 0), (3, 7), (2, 0), (1, 1), (14, 0), (24, sender), (64, data.toNat)])

def execAmsg (g : Guard) (a b : SReg) (tag : BitVec 14) (s : State) : Out :=
  .next (slotOp (.amsg g a b tag) s (fun s => destTraps s b) fun s =>
    let dst := bitsNat (s.rs b) 23 0
    let r := s.record
    let m := activeMessage tag s.lidx (s.rs a)
    if r.here dst then
      let (id, s) := s.newId
      { s with messages := s.messages ++ [⟨id, s.core.key.ctx, s.lidx, dst, m⟩] }
    else
      s.leaveBy (Config.hubOf s.core.die.val (r.packageOf dst) % 2) (r.packageIndex dst) (.message r.jobKey m ⟨s.core.key.ctx, dst⟩))

end Sys2Proof.Machine
end

