-- ==== Sys2Proof/Machine/Channel.lean ====
section
/-!
DEFINITION. The dynamic channels' queue registers, QPUSH and QPOP (R343 to R346).
-/
namespace Sys2Proof.Machine

open Sys2Proof

/-- PUSHED and POPPED of a queue register (Table 15-4). -/
def qPushed (q : Word) : Nat := bitsNat q 63 32
def qPopped (q : Word) : Nat := bitsNat q 31 0
/-- Out. -/
def qOut (q : Word) : Nat := (qPushed q + 2 ^ 32 - qPopped q) % 2 ^ 32

def qWord (pushed popped : Nat) : Word := BitVec.ofNat 64 (pushed % 2 ^ 32 * 2 ^ 32 + popped % 2 ^ 32)

/-- A push with its number: PUSHED advances at W. -/
def Core.pushed (c : Core) (id : Nat) (q : QReg) : Core :=
  { c with q := c.q.set q.val (qWord (qPushed c.q[q.val] + 1) (qPopped c.q[q.val])), asked := c.asked ++ [(id, q, none)] }

def execQpush (g : Guard) (q : QReg) (b : SReg) (prio : Fin 8) (s : State) : Out :=
  .next (slotOp (.qpush g q b prio) s
    (fun s => (if q = 0 then rawChecks s (s.rs b).toNat 128 64 else [])
      ++ (if qOut s.core.q[q.val] = 16 then [trapQueue 4 (BitVec.ofNat 64 q.val)] else []))
    fun s =>
      let (id, s) := s.newId
      let s := { s with core := s.core.pushed id q }
      if q = 0 then
        { s with submitted := s.submitted ++ [(s.core.key, id, memBytes s.core.sp (s.rs b).toNat 128, prio.val)] }
      else
        s.sendEvent 5 s.core.key.ctx 0 [BitVec.ofNat 64 s.core.key.lidx, BitVec.ofNat 64 q.val, s.rs b])

def execQpop (g : Guard) (d : SReg) (q : QReg) (cnt : Bool) (s : State) : Out :=
  .next (slotOp (.qpop g d q cnt) s noChecks fun s =>
    let v := s.core.q[q.val]
    if cnt then s.setS d v
    else
      match s.core.resp.find? fun r => r.1 = q with
      | some r =>
        let c := { s.core with resp := s.core.resp.eraseP (fun x => x.1 = q),
                               q := s.core.q.set q.val (qWord (qPushed v) (qPopped v + 1)) }
        ({ s with core := c }).setS d r.2
      | none => s.setS d 0)

end Sys2Proof.Machine
end

