-- ==== Sys2Proof/Machine/Control.lean ====
section
/-!
DEFINITION. Meanings of the S slot's control transfers, threads, traps and PARK (R246 to R256).
-/
namespace Sys2Proof.Machine

open Sys2Proof

/-! ## Control transfer (R246 to R250) -/

/-- A taken transfer: the bundle the thread issues next (R246). -/
def State.goto (s : State) (pc : Pc) : State := { s with cur := { s.cur with next := pc } }

/-- The PC of the open bundle plus an immediate, modulo 4,096. -/
def State.relative (s : State) (imm : BitVec 36) : Pc := s.cur.pc + imm.truncate 12

/-- Dead marking of CALL and RET (R79): the registers that DEADM names, through the RRB read at D; v registers from NV on
are not there. -/
def Thread.markDead (t : Thread) (rrb : BitVec 3) (deadm : Word) (nv : Nat) : Thread :=
  let named (lo n hi : Nat) : BitVec 32 :=
    (List.finRange 32).foldl (fun (m : BitVec 32) i =>
      if i.val ≥ lo && i.val < n && deadm.getLsbD (hi + i.val) then m ||| BitVec.twoPow 32 (physS rrb i).val else m) 0
  { t with sdead := t.sdead ||| named 2 32 0, vdead := t.vdead ||| named 0 nv 32 }

def State.markDead (s : State) : State :=
  s.modThread fun t => t.markDead s.cur.pre.rrb s.cur.pre.deadm (partNV s.record.part)

def execBr (g : Guard) (imm : BitVec 36) (s : State) : Out :=
  .next (slotOp (.br g imm) s noChecks fun s => s.goto (s.relative imm))

def execJmp (g : Guard) (t : Pc) (s : State) : Out := .next (slotOp (.jmp g t) s noChecks fun s => s.goto t)

def execJr (g : Guard) (a : SReg) (s : State) : Out :=
  .next (slotOp (.jr g a) s noChecks fun s => s.goto ((s.rs a).truncate 12))

/-- CALL: dead marking, then the link value, then the transfer (R79, R247). -/
def State.callTo (s : State) (t : Pc) : State :=
  ((s.markDead).setS 1 ((s.cur.pc + 1).zeroExtend 64)).goto t

def execCall (g : Guard) (t : Pc) (s : State) : Out := .next (slotOp (.call g t) s noChecks fun s => s.callTo t)

def execCallr (g : Guard) (a : SReg) (s : State) : Out :=
  .next (slotOp (.callr g a) s noChecks fun s => s.callTo ((s.rs a).truncate 12))

def execRet (g : Guard) (s : State) : Out :=
  .next (slotOp (.ret g) s noChecks fun s => (s.markDead).goto ((s.rs 1).truncate 12))

/-- The physical predicate that a taken LOOP writes: logical p8 under the new RRB (R249). -/
def loopStage (rrb : BitVec 3) : PReg := physP (rrb + 1) 8

/-- LOOP (R249, R250). -/
def State.loopTo (s : State) (imm : BitVec 36) : State :=
  let t := s.cur.pre
  if t.lc = 0 && t.ec = 0 then s
  else
    let stage := t.lc != 0
    let q := loopStage t.rrb
    let s := s.modThread fun u =>
      let u := if stage then { u with lc := t.lc - 1 } else { u with ec := t.ec - 1 }
      { u with rrb := t.rrb + 1, p := u.p.set q.val stage }
    ({ s with cur := { s.cur with loopPred := some q } }).goto (s.relative imm)

def execLoop (g : Guard) (imm : BitVec 36) (s : State) : Out :=
  .next (slotOp (.loop g imm) s noChecks fun s => s.loopTo imm)

def execLset (g : Guard) (a : SReg) (ec : Byte) (s : State) : Out :=
  .next (slotOp (.lset g a ec) s noChecks fun s =>
    let v := s.rs a
    s.modThread fun t => { t with lc := v, ec := ec })

/-! ## Threads and traps (R251 to R255) -/

/-- The first VTICK after v that belongs to slot u. -/
def slotAfter (v u : Nat) : Nat := v + 1 + (u + 8 - (v + 1) % 8) % 8

/-- A spawned thread (Table 11-7) in the storage of its slot; by is the spawner as read at D, w the VTICK of SPAWN's W. -/
def Thread.spawned (old by' : Thread) (arg : Word) (entry : Pc) (u w : Nat) : Thread :=
  { Thread.reset with
    phase := .ready, start := slotAfter w u, pc := entry, lastrp := entry,
    s := (Vector.replicate 32 0).set 2 arg,
    v := old.v, t := old.t, g := by'.g, tvec := by'.tvec, seed := by'.seed, wireto := by'.wireto,
    chk := by'.chk, deadtrap := by'.deadtrap,
    fpctl := by'.fpctl &&& ~~~0x1F,
    acct := old.acct, lastCause := old.lastCause, lastPc := old.lastPc, episode := old.episode }

/-- SPAWN (R36, R251): the slot is tested at W. Responses to the pushes of an earlier thread of slot 7 stay on their way (log 112). -/
def State.spawn (s : State) (d a : SReg) (entry : Pc) (u : Fin 8) : State :=
  if s.core.slots[u.val].phase = .vacant then
    let arg := s.rs a
    let pre := s.cur.pre
    let w := s.cur.vt + 7
    let core := s.core.modSlot u fun old => old.spawned pre arg entry u.val w
    let core := if u = 7 && s.record.chan then { core with q := Vector.replicate 8 0 } else core
    ({ s with core := core }).setS d 0
  else s.setS d 1

def execSpawn (g : Guard) (d a : SReg) (entry : Pc) (u : Fin 8) (s : State) : Out :=
  .next (slotOp (.spawn g d a entry u) s noChecks fun s => s.spawn d a entry u)

/-- HALT (R37, R35, R253): the thread is retired, with its pending results and windows; w is the VTICK of its W. See log 81. -/
def Thread.halted (t : Thread) (w : Nat) : Thread :=
  { t with phase := .vacant, start := w, pending := [], windows := [], deferred := [] }

def execHalt (g : Guard) (s : State) : Out :=
  .next (slotOp (.halt g) s noChecks fun s => s.modThread fun t => t.halted (s.cur.vt + 7))

def execTrap (g : Guard) (imm : BitVec 36) (s : State) : Out :=
  .next (slotOp (.trap g imm) s noChecks fun s => s.takeTrap (trapSoftware (imm.zeroExtend 64)))

/-- ERET (R47, R255). -/
def State.eret (s : State) : State :=
  (s.modThread fun t => { t with trapped := false, skipBreak := true }).goto s.cur.pre.tpc

def execEret (g : Guard) (s : State) : Out := .next (slotOp (.eret g) s noChecks State.eret)

/-- PARK (R256): the current value in the E3 cycle x is that of the last write whose effect came before x. -/
def execPark (g : Guard) (a : SReg) (c : CReg) (s : State) : Out :=
  .next (slotOp (.park g a c) s noChecks fun s =>
    if s.core.sharedAt c 9 s.core.vx ≠ s.rs a then s else s.beginWait (.park (s.rs a) c))

end Sys2Proof.Machine
end

