-- ==== Sys2Proof/Machine/Engine.lean ====
section
/-!
DEFINITION. Request words, the checks on them, and the engine commands of the L slot (R129 to R135, R321, R322).
-/
namespace Sys2Proof.Machine

open Sys2Proof

/-! ## Request words (Table 5-1) -/

def wSeg (w : Word) : GReg := Fin.ofNat 8 (bitsNat w 63 61)
def wOff (w : Word) : Nat := bitsNat w 39 0
def wMc (w : Word) : Nat := bitsNat w 63 62
def wDstr (w : Word) : Nat := bitsNat w 61 47
def wSstr (w : Word) : Nat := bitsNat w 46 32
def wNrow (w : Word) : Nat := bitsNat w 31 20
def wLen (w : Word) : Nat := bitsNat w 19 0
def wIseg (w : Word) : GReg := Fin.ofNat 8 (bitsNat w 63 61)
def wIw (w : Word) : Nat := bitsNat w 60 59
def wEsz (w : Word) : Nat := 8 * 2 ^ bitsNat w 58 56
def wIcnt (w : Word) : Nat := bitsNat w 55 36
def wIoff (w : Word) : Nat := bitsNat w 35 16
def wCmode (w : Word) : Nat := bitsNat w 63 62
def wTag (w : Word) : Nat := bitsNat w 61 46
def wBooff (w : Word) : Nat := bitsNat w 19 0

/-- Bytes of an index. -/
def wIsz (w : Word) : Nat := 4 * (1 + wIw w)

def EngOp.indexed : EngOp → Bool
  | .gath | .scat => true
  | .copy | .iload => false

/-- Table 5-3 OP. -/
def EngOp.code : EngOp → Nat
  | .copy => 0 | .gath => 1 | .scat => 2 | .iload => 3

/-- R131: nonzero reserved fields, MC = 3, IW ≥ 2, or MC ≠ 0 with NROW ≠ 1. -/
def requestIllegal (op : EngOp) (w0 w1 w2 w3 : Word) : Bool :=
  bitsNat w0 60 40 != 0 || bitsNat w1 60 40 != 0 || bitsNat w3 45 20 != 0
  || (if op.indexed then bitsNat w2 15 0 != 0 || wIw w2 ≥ 2
      else wMc w2 == 3 || (wMc w2 != 0 && wNrow w2 != 1))

/-- A request of zero length. -/
def requestEmpty (op : EngOp) (w2 : Word) : Bool :=
  if op.indexed then wIcnt w2 == 0 else wNrow w2 == 0 || wLen w2 == 0

/-- The bytes of an operand of COPY or ILOAD with a stride. -/
def copyExtent (off str : Nat) (w2 : Word) : Nat := off + (wNrow w2 - 1) * 8 * str + wLen w2

/-- A kind that a data operand may have. See log 19. -/
def dataKind (g : Quad) : Bool := segKind g == 1 || segKind g == 2 || segKind g == 3

/-- The BOUNDS checks of Table 5-2, in the order of R132: the offending offsets. -/
def requestBounds (op : EngOp) (w0 w1 w2 w3 : Word) (dg sg ig : Quad) (spb : Nat) : List Nat :=
  (if op.indexed then
      (if op = .gath ∧ wOff w0 + wIcnt w2 * wEsz w2 > segLimit dg then [wOff w0] else [])
      ++ (if op = .scat ∧ wOff w1 + wIcnt w2 * wEsz w2 > segLimit sg then [wOff w1] else [])
      ++ (if wIoff w2 + wIcnt w2 * wIsz w2 > segLimit ig then [wIoff w2] else [])
    else
      (if copyExtent (wOff w0) (wDstr w2) w2 > segLimit dg then [wOff w0] else [])
      ++ (if copyExtent (wOff w1) (wSstr w2) w2 > segLimit sg then [wOff w1] else []))
  ++ (if wCmode w3 % 2 = 1 ∧ wBooff w3 + 16 > spb then [wBooff w3] else [])

/-- The RIGHTS checks of Table 5-2 and R322. -/
def requestRights (op : EngOp) (w0 w1 w2 : Word) (dg sg ig : Quad) : List Nat :=
  (if op = .iload then (if segKind dg == 4 && segEN dg && wMc w2 == 0 then [] else [wOff w0])
    else if dataKind dg && segEN dg && segWR dg && (op.indexed || wMc w2 == 0 || segKind dg == 1) then []
    else [wOff w0])
  ++ (if dataKind sg && segEN sg && segRD sg then [] else [wOff w1])
  ++ (if op.indexed && !(segKind ig == 1 && segRD ig) then [wIoff w2] else [])

/-- The ALIGN checks of Table 5-2 and R322. -/
def requestAlign (op : EngOp) (w0 w1 w2 w3 : Word) : List Nat :=
  let unit := if op = .iload then 32 else 8
  (if wOff w0 % unit ≠ 0 then [wOff w0] else [])
  ++ (if wOff w1 % 8 ≠ 0 then [wOff w1] else [])
  ++ (if !op.indexed && wLen w2 % unit != 0 then [wLen w2] else [])
  ++ (if op = .iload ∧ 8 * wDstr w2 % 32 ≠ 0 then [8 * wDstr w2] else [])
  ++ (if op.indexed && wIoff w2 % wIsz w2 != 0 then [wIoff w2] else [])
  ++ (if wCmode w3 % 2 = 1 ∧ wBooff w3 % 16 ≠ 0 then [wBooff w3] else [])

/-- The segment values and the words of a request as its bundle reads them. -/
def State.requestWord (s : State) (q : Fin 8) (i : Nat) : Word := s.rs (regAfter (Fin.ofNat 32 (4 * q.val)) i)

/-- The checks of an engine command (R131, R132). See log 43. -/
def engineChecks (op : EngOp) (q : Fin 8) (s : State) : List Trap :=
  let w0 := s.requestWord q 0
  let w1 := s.requestWord q 1
  let w2 := s.requestWord q 2
  let w3 := s.requestWord q 3
  let dg := s.rg (wSeg w0)
  let sg := s.rg (wSeg w1)
  let ig := s.rg (wIseg w2)
  if requestIllegal op w0 w1 w2 w3 then [trapIllegal 3]
  else
    let addr (n : Nat) : Word := BitVec.ofNat 64 n
    (if requestEmpty op w2 then [] else
      ((requestBounds op w0 w1 w2 w3 dg sg ig (partSPB s.record.part)).take 1).map fun o => trapBounds 3 0 (addr o) 0)
    ++ ((requestRights op w0 w1 w2 dg sg ig).take 1).map (fun o => trapRights 3 0 (addr o) 0)
    ++ ((requestAlign op w0 w1 w2 w3).take 1).map (fun o => trapAlign 3 0 (addr o) 0)

/-- Row and column neighbours that a multicast writes, as indexes within the rectangle, the issuer included (R134). -/
def Record.multicast (r : Record) (mc own : Nat) : List Nat :=
  (List.range r.rect).filter fun i => if mc = 1 then r.ly i == r.ly own else r.lx i == r.lx own

/-! ## The units of a request (R75, R133 to R136, R144) -/

/-- Where 8 bytes of an operand lie. -/
inductive Place where
  | sp (core : CoreKey) (off : Nat)
  | code (core : CoreKey) (off : Nat)
  | glob (va : Nat)
  deriving DecidableEq, Repr

/-- The place of an offset of a segment value, for a request of a core (R75, R133). -/
def placeOf (r : Record) (k : CoreKey) (g : Quad) (o : Nat) : Place :=
  match segKind g with
  | 2 =>
    let p := meshResolve g r.rect o
    .sp ⟨k.ctx, r.rankOf k.lidx * r.rect + p.1⟩ p.2
  | 3 => .glob (segBase g + o)
  | 4 => .code k (segBase g + o)
  | _ => .sp k (segBase g + o)

def Place.va : Place → Option Nat
  | .glob v => some v
  | _ => none

/-- A request word with another OFFSET. -/
def withOff (w : Word) (o : Nat) : Word := BitVec.ofNat 64 (w.toNat / 2 ^ 40 * 2 ^ 40 + o % 2 ^ 40)

/-- Source and destination offsets of element i, whose index value is x (R135). -/
def Request.elemSrc (r : Request) (i x : Nat) : Nat := wOff r.w1 + (if r.op = .gath then x else i) * wEsz r.w2
def Request.elemDst (r : Request) (i x : Nat) : Nat := wOff r.w0 + (if r.op = .gath then i else x) * wEsz r.w2

/-- The source offset that is read next, behind what is read already, with the bytes left of its row or element: sources are read upward
(log 82). -/
def Request.readAt (r : Request) : Option (Nat × Nat) :=
  let b := 8 * r.buf.length
  if r.op.indexed then
    match r.idx with
    | none => none
    | some x => let o := 8 * r.unit + b
      if o < wEsz r.w2 then some (r.elemSrc r.next x + o, wEsz r.w2 - o) else none
  else if b < r.rowLeft then some (wOff r.w1 + b, r.rowLeft - b) else none

/-- The destination offset of the unit that is written next. -/
def Request.writeAt (r : Request) : Nat :=
  if r.op.indexed then r.elemDst r.next (r.idx.getD 0) + 8 * r.unit else wOff r.w0

/-- The place of the unit written next; a multicast writes the receiver whose turn it is (R134). -/
def Request.target (r : Request) (rec' : Record) (k : CoreKey) : Place :=
  match r.recv[r.turn]? with
  | some i => .sp ⟨k.ctx, rec'.rankOf k.lidx * rec'.rect + i⟩ (segBase r.dseg + r.writeAt)
  | none => placeOf rec' k r.dseg r.writeAt

/-- The core whose object counts the unit written next. -/
def Request.counter (r : Request) (rec' : Record) (k : CoreKey) : CoreKey :=
  match r.recv[r.turn]? with
  | some i => ⟨k.ctx, rec'.rankOf k.lidx * rec'.rect + i⟩
  | none => k

/-- The physical address of an admitted unit that covers 8 bytes of a virtual address. -/
def Request.physOf (r : Request) (va : Nat) (write : Bool) : Option Nat :=
  (r.admitted.find? fun u => u.write == write && decide (u.va ≤ va) && decide (va + 8 ≤ u.va + u.len)).map fun u =>
    u.pa + (va - u.va)

/-- A GLOBAL range of a segment offset, cut where 64 KiB of virtual address end: virtual address, offset and bytes (R433). -/
def cutUnits (va off n : Nat) : List (Nat × Nat × Nat) :=
  let m := 2 ^ 16 - va % 2 ^ 16
  if n ≤ m then [(va, off, n)] else [(va, off, m), (va + m, off + m, n - m)]

/-- Every data operand is LOCAL or MESH: such a request completes before a freeze finishes (R144). See log 49. -/
def Request.near (r : Request) : Bool :=
  (segKind r.dseg == 1 || segKind r.dseg == 2) && (segKind r.sseg == 1 || segKind r.sseg == 2)

/-- Part of an element, or of a multicast unit's receivers, has been written: the rest of it follows before a freeze finishes, so that no
element is left partly written (R143, R144; log 50). -/
def Request.underway (r : Request) : Bool := r.unit != 0 || r.turn != 0

/-- A multicast. -/
def Request.casts (r : Request) : Bool := !r.op.indexed && wMc r.w2 != 0

/-- The unit written last has landed: the request goes on to the next receiver, in ascending index (log 88), and when it has landed
everywhere, to the next unit. The OFFSETs of a COPY advance (R144). -/
def Request.advance (r : Request) : Request :=
  if r.turn + 1 < r.recv.length then { r with turn := r.turn + 1 }
  else
    let r := { r with turn := 0, buf := r.buf.tail }
    if r.op.indexed then
      if 8 * (r.unit + 1) < wEsz r.w2 then { r with unit := r.unit + 1 }
      else { r with unit := 0, idx := none, next := r.next + 1 }
    else if 8 < r.rowLeft then
      { r with w0 := withOff r.w0 (wOff r.w0 + 8), w1 := withOff r.w1 (wOff r.w1 + 8), rowLeft := r.rowLeft - 8 }
    else if 1 < r.rowsLeft then
      { r with w0 := withOff r.w0 (wOff r.w0 + 8 + 8 * wDstr r.w2 - wLen r.w2),
               w1 := withOff r.w1 (wOff r.w1 + 8 + 8 * wSstr r.w2 - wLen r.w2), rowsLeft := r.rowsLeft - 1,
               rowLeft := wLen r.w2 }
    else { r with rowsLeft := 0, rowLeft := 0, state := .finishing }

/-! ### Command images (R144, R145, Table 5-7) -/

/-- The image of a request: w0 to w3, and STARTED, ROWLEFT and NEXT. An element's index counts from the request's first (log 98). -/
def Request.toImage (r : Request) : Vector Word 5 :=
  let progress : Word := BitVec.ofNat 64 (pack [(1, b2n r.begun), (11, 0),
    (20, if r.op.indexed then 0 else r.rowLeft), (32, if r.op.indexed then r.next else r.rowsLeft)])
  #v[r.w0, r.w1, r.w2, r.w3, progress]

/-- A freeze captures a request: what is read and not written is read again later, and its units are withdrawn. Nothing but the image
says how far it has come. -/
def Request.capture (r : Request) : Request :=
  match r.image with
  | some _ => r
  | none =>
    { r with
      image := some r.toImage
      state := .queued
      idx := none
      unit := 0
      turn := 0
      buf := []
      admitted := []
      parked := false
      bad := none }

/-- An image is pushed again: it goes on from its progress word. -/
def Request.repush (r : Request) : Request :=
  match r.image with
  | none => r
  | some v =>
    let p := v[4]
    let r := { r with w0 := v[0], w1 := v[1], w2 := v[2], w3 := v[3], begun := bitAt p 63, image := none }
    if r.op.indexed then { r with next := bitsNat p 31 0 }
    else { r with rowsLeft := bitsNat p 31 0, rowLeft := bitsNat p 51 32 }

/-- An engine command (R129, R321): the push at E3, or busy. See log 79. -/
def engineOp (i : Instr) (op : EngOp) (d : PReg) (q : Fin 8) (s : State) : Out :=
  .next (slotOp i s (engineChecks op q) fun s =>
    if s.core.fifo.length < 16 then
      let (id, s) := s.newId
      let w2 := s.requestWord q 2
      let r : Request :=
        { id := id, op := op, slot := s.cur.slot, w0 := s.requestWord q 0, w1 := s.requestWord q 1, w2 := w2,
          w3 := s.requestWord q 3, dseg := s.rg (wSeg (s.requestWord q 0)), sseg := s.rg (wSeg (s.requestWord q 1)),
          iseg := s.rg (wIseg w2), marks := s.core.marks, state := .queued, rowsLeft := wNrow w2, rowLeft := wLen w2,
          next := 0, idx := none, unit := 0, buf := [], recv := [], turn := 0, status := 0, errIdx := 0, errOff := 0,
          stained := [], moved := [], admitted := [], parked := false, begun := false, bad := none, image := none,
          known := s.core.marks.foldl (fun l m => addKnown l m.known) (addKnown s.core.known s.thread.known) }
      ({ s with core := { s.core with fifo := s.core.fifo ++ [r], marks := [] } }).setP d false
    else s.setP d true)

def execCopy (g : Guard) (d : PReg) (q : Fin 8) (s : State) : Out := engineOp (.copy g d q) .copy d q s

def execGath (g : Guard) (d : PReg) (q : Fin 8) (s : State) : Out := engineOp (.gath g d q) .gath d q s

def execScat (g : Guard) (d : PReg) (q : Fin 8) (s : State) : Out := engineOp (.scat g d q) .scat d q s

def execIload (g : Guard) (d : PReg) (q : Fin 8) (s : State) : Out := engineOp (.iload g d q) .iload d q s

end Sys2Proof.Machine
end

