-- ==== Sys2Proof/Machine/Time.lean ====
section
/-!
DEFINITION. TAMP and WAITT (R156 to R160, R165, R338, R339).
-/
namespace Sys2Proof.Machine

open Sys2Proof

/-- A die's estimate of another die's TICK: it lags by what the last stamps left (R158; log 5). -/
def State.estimate (s : State) (own d : Fin 10) : Nat :=
  if own = d then (s.die own).tick
  else (s.die d).tick - (s.die own).estimates.getD d.val 0

/-- The condition of a TAMP on a core's die (Table of R159). -/
def State.tampHolds (s : State) (c : Core) (sc : TampScope) (n : Nat) : Bool :=
  let die := s.die c.die
  match sc with
  | .die => n ≤ die.tick
  | .package =>
    let members : List (Fin 10) := match s.findCtx c.key.ctx with | some x => x.ranks.map (·.1) | none => []
    die.alock && members.all fun d => n ≤ s.estimate c.die d
  | .domain => s.firm.plock && n ≤ die.dtick

/-- A TAMP released at the first rotation boundary after cycle x, given as the VTICK and the TICK of x (R160). -/
def Thread.tampReleased (t : Thread) (sc : TampScope) (vx tick : Nat) : Thread :=
  let b := tick + (8 - vx % 8)
  { t with tampAt := (sc, b, none) :: t.tampAt.filter fun p => p.1 ≠ sc }

/-- A base register plus a signed immediate (R338, R339). -/
def State.timeValue (s : State) (a : SReg) (imm : BitVec 30) : Word := s.rs a + imm.signExtend 64

/-- A TAMP whose condition holds at E3 is released at the boundary of the rotation in which the thread issues next, eight cycles after
its own (R160, R338). -/
def execTamp (g : Guard) (sc : TampScope) (a : SReg) (imm : BitVec 30) (s : State) : Out :=
  .next (slotOp (.tamp g sc a imm) s noChecks fun s =>
    let n := s.timeValue a imm
    if s.tampHolds s.core sc n.toNat then
      let x := s.cur.vt
      let tick := s.cur.tick
      s.modThread fun t => t.tampReleased sc x tick
    else s.beginWait (.tamp sc n))

/-- The count that a WAITT compares, in the current cycle. -/
def State.counter (s : State) (c : Core) : Counter → Nat
  | .tick => (s.die c.die).tick
  | .vtick => c.vx
  | .dtick => (s.die c.die).dtick

/-- See log 46. -/
def execWaitt (g : Guard) (c : Counter) (d : PReg) (a : SReg) (imm : BitVec 30) (s : State) : Out :=
  .next (slotOp (.waitt g c d a imm) s noChecks fun s =>
    let v := s.timeValue a imm
    let n := s.counter s.core c
    if v.toNat < n then s.setP d true
    else
      let s := s.setP d false
      if n = v.toNat then s else s.beginWait (.waitt c v (s.waitPred d)))

end Sys2Proof.Machine
end

