-- ==== Sys2Proof/Machine/Wire.lean ====
section
/-!
DEFINITION. Barrier wires: arrivals, riders, the reduction, BARW and BARWR (R152 to R155, R337).
-/
namespace Sys2Proof.Machine

open Sys2Proof

/-- One step of a wire reduction (Table 6-3). -/
def wireStep (op : WireOp) (a b : Word) : Word :=
  match op with
  | .addI64 => a + b
  | .addF64 => BitVec.ofNat 64 (roundTo .fp64 (fpSum [fpDecode .fp64 a.toNat, fpDecode .fp64 b.toNat] .rne).1 .rne 0 false).1
  | .minI64 => if a.toInt ≤ b.toInt then a else b
  | .maxI64 => if a.toInt ≤ b.toInt then b else a
  | .minN64 => if a.toNat ≤ b.toNat then a else b
  | .maxN64 => if a.toNat ≤ b.toNat then b else a
  | .and => a &&& b
  | .or => a ||| b
  | .xor => a ^^^ b

/-- What a core that arrives by BARW contributes (R337). -/
def wireIdentity : WireOp → Word
  | .addI64 | .or | .xor | .maxN64 => 0
  | .addF64 => 0x8000000000000000
  | .and | .minN64 => BitVec.allOnes 64
  | .minI64 => 0x7FFFFFFFFFFFFFFF
  | .maxI64 => 0x8000000000000000

/-- Left fold of a list that is not empty. -/
def foldStep (op : WireOp) : List Word → Word
  | [] => 0
  | a :: l => l.foldl (wireStep op) a

/-- The indexes of a scope within the rectangle, in the order of R154. -/
def Record.scopeCores (r : Record) (sc : WireScope) (line : Nat) : List Nat :=
  (List.range r.rect).filter fun i =>
    match sc with
    | .all => true
    | .row => r.ly i == line
    | .col => r.lx i == line

/-- The row or column of a core. -/
def Record.line (r : Record) (sc : WireScope) (lidx : Nat) : Nat :=
  match sc with
  | .all => 0
  | .row => r.ly lidx
  | .col => r.lx lidx

/-- m′ + n′ of a scope (R153). -/
def Record.scopeSpan (r : Record) : WireScope → Nat
  | .all => r.m + r.n
  | .row => r.m + 1
  | .col => 1 + r.n

/-- The latest arrival cycle, when every core of the scope has arrived. -/
def Episode.last (e : Episode) (r : Record) : Option Nat :=
  let cores := r.scopeCores e.scope e.line
  if cores.all fun i => e.arrivals.any fun a => r.local a.lidx = i then
    some (e.arrivals.foldl (fun m a => Nat.max m a.cycle) 0)
  else none

/-- The release cycle of R153. -/
def Episode.release (e : Episode) (r : Record) : Option Nat := (e.last r).map fun l => l + 24 + r.scopeSpan e.scope

/-- The first arrival: the earliest, and of several the lowest logical index (R337). -/
def Episode.first (e : Episode) : Option Arrival :=
  e.arrivals.foldl (fun b a => match b with
    | none => some a
    | some x => if a.cycle < x.cycle || (a.cycle == x.cycle && a.lidx < x.lidx) then some a else some x) none

/-- The operation of an episode (R337). -/
def Episode.op (e : Episode) : WireOp :=
  match e.first with
  | some a => if a.payload.isSome then a.op else .or
  | none => .or

/-- A core's contribution. -/
def Episode.part (e : Episode) (r : Record) (i : Nat) : Word :=
  match e.arrivals.find? fun a => r.local a.lidx = i with
  | some a => a.payload.getD (wireIdentity e.op)
  | none => wireIdentity e.op

/-- The result of R154. -/
def Episode.result (e : Episode) (r : Record) : Word :=
  match e.scope with
  | .all => foldStep e.op ((List.range r.n).map fun y =>
      foldStep e.op ((r.scopeCores .row y).map (e.part r)))
  | _ => foldStep e.op ((r.scopeCores e.scope e.line).map (e.part r))

/-- BARW or BARWR at E3 (R152): the thread's core arrives in the open episode of its scope, opens one, or the thread rides;
then the thread waits. A WIRETO of 0 is no timeout (R155). -/
def State.wireArrive (s : State) (sc : WireScope) (op : WireOp) (payload : Option Word) (d : Option SReg) : State :=
  let r := s.record
  let line := r.line sc s.lidx
  let key := s.core.key
  let now := s.cur.tick + 4
  let arrival : Arrival := ⟨s.lidx, payload, op, now⟩
  let lim := s.cur.pre.wireto.toNat
  let wait := (key, s.cur.slot, if lim = 0 then none else some (s.core.vx + lim))
  let waiter := if s.thread.phase == .vacant then [] else [wait]
  let same (e : Episode) : Bool :=
    e.ctx == key.ctx && e.die == s.core.die && e.scope == sc && e.line == line
  match s.episodes.find? same with
  | some e =>
    let arrive (x : Episode) : Episode :=
      { x with arrivals := if x.arrivals.any fun a => a.lidx = s.lidx then x.arrivals else x.arrivals ++ [arrival],
               waiters := x.waiters ++ waiter }
    ({ s with episodes := mapIf (fun x => x.id = e.id) arrive s.episodes }).beginWait (.wire e.id d)
  | none =>
    let (id, s) := s.newId
    let e : Episode := ⟨id, key.ctx, s.core.die, sc, line, [arrival], waiter⟩
    ({ s with episodes := s.episodes ++ [e] }).beginWait (.wire id d)

def execBarw (g : Guard) (sc : WireScope) (s : State) : Out :=
  .next (slotOp (.barw g sc) s noChecks fun s => s.wireArrive sc .or none none)

def execBarwr (g : Guard) (op : WireOp) (sc : WireScope) (d a : SReg) (s : State) : Out :=
  .next (slotOp (.barwr g op sc d a) s noChecks fun s =>
    s.wireArrive sc op (some (s.rs a)) (some (physS s.cur.pre.rrb d)))

end Sys2Proof.Machine
end

