-- ==== Sys2Proof/Machine/Pipeline.lean ====
section
/-!
DEFINITION. Steps of a core between bundles: results that become ready, deferred traps, holds, and the ends of waits
(R31 to R48, R149 to R165, R256, R305, R332).
-/
namespace Sys2Proof.Machine

open Sys2Proof

/-! ## A thread of a core -/

/-- The VTICK of the issue cycle that a core's turn handles: its E3 work falls in cycle vx. -/
def Core.vi (c : Core) : Nat := c.vx - 4

/-- The slot whose turn it is. -/
def Core.turnSlot (c : Core) : Fin 8 := Fin.ofNat 8 (c.vx + 4)

/-- Run f on a core that is there, in focus; anything else changes nothing. -/
def State.onCore (s : State) (k : CoreKey) (f : State → State) : State :=
  if (s.findCore k).isSome then f (s.focus k) else s

/-- Change a slot of the focused core. -/
def State.modSlot (s : State) (t : Fin 8) (f : Thread → Thread) : State := { s with core := s.core.modSlot t f }

def State.slotOf (s : State) (t : Fin 8) : Thread := s.core.slots[t.val]

/-- Write a vector register of a slot outside a bundle; the write clears its granule's poison (R72). -/
def State.putVector (s : State) (t : Fin 8) (q : VReg) (v mask : VWord) : State :=
  let s := s.modSlot t fun th => th.putV q v mask
  let off := vectorOffset s.record.part t.val q.val
  { s with core := { s.core with poison := poisonClear s.core.poison off 64 } }

/-! ## LONG_RESULT_READY (R31, R46, R263) -/

/-- A result whose ready rotation has begun. -/
def Pend.due (p : Pend) (vi : Nat) : Bool :=
  match p.ready with
  | some r => decide (r ≤ vi)
  | none => false

/-- The deferred trap of a result, if it has one: POISON, or FP by the enables then current (R46, R203). -/
def Pend.deferred (p : Pend) (enables : Classes) : List Deferred :=
  match p.poison with
  | some g => [⟨p.issue, 0x0B, BitVec.ofNat 64 g, 0⟩]
  | none =>
    if p.traps then
      match p.raised.find? fun x => x.2 &&& enables ≠ 0 with
      | some x => [⟨p.issue, 0x0F, p.pc.zeroExtend 64, BitVec.ofNat 6 x.1⟩]
      | none => []
    else []

/-- Write a result and set its flags (R46, R202). Deferred traps stand in the order of issue; of two whose operations issued in one
bundle, that whose result is ready first stands first, and of those ready together the L slot's before the V slot's (log 83). -/
def State.writeResult (s : State) (t : Fin 8) (p : Pend) : State :=
  let en := fpEnables (s.slotOf t).fpctl
  let s := match p.reg, p.val with
    | some (.s q), .scalar v => s.modSlot t fun th => th.putS q v
    | some (.v q), .vector v m => s.putVector t q v m
    | _, _ => s
  s.modSlot t fun th =>
    let th := p.raised.foldl (fun (u : Thread) x => u.orFlags x.2) th
    { th with deferred := (p.deferred en).foldl (fun l d => insertBy (fun a b => a.issue < b.issue) d l) th.deferred }

def execLongResultReady (c : CoreKey) (t : Fin 8) (s : State) : Out :=
  .next (s.onCore c fun s =>
    let vi := s.core.vi
    let due := (s.slotOf t).pending.filter fun p => p.due vi
    let s := due.foldl (fun s p => s.writeResult t p) s
    s.modSlot t fun th => { th with pending := th.pending.filter fun p => !p.due vi })

/-! ## DEFERRED_TRAP (R46) -/

/-- A trap entry of a slot outside a bundle, charged at a PC; a second trap parks the thread (R48). -/
def State.trapEntry (s : State) (t : Fin 8) (r : Trap) (pc next : Pc) : State :=
  let trapped := (s.slotOf t).trapped
  let s := s.modSlot t fun th => th.enterTrap trapped r pc next
  let s := { s with core := s.core.charge t (if trapped then .faultPark else .trapEntry) (some pc) }
  if trapped then s.sendEvent 2 s.core.key.ctx 0 [BitVec.ofNat 64 s.core.key.lidx, BitVec.ofNat 64 t.val] else s

/-- A deferred trap as the trap entry takes it. -/
def Deferred.trap (d : Deferred) : Trap := ⟨1, d.code, 0, 0, false, d.taddr, d.tlane, .trap⟩

/-- A deferred trap is due: the thread would issue, and is not in a trap. -/
def Thread.defers (th : Thread) : Bool := th.phase == .ready && !th.trapped && !th.deferred.isEmpty

def execDeferredTrap (c : CoreKey) (t : Fin 8) (s : State) : Out :=
  .next (s.onCore c fun s =>
    let th := s.slotOf t
    match th.deferred with
    | d :: rest =>
      if th.defers then (s.modSlot t fun u => { u with deferred := rest }).trapEntry t d.trap th.pc th.pc else s
    | [] => s)

/-! ## HOLD_RELEASE (R33) -/

/-- The instructions of a bundle in the order in which the model takes their effects. See log 16. -/
def bundleSlots (b : Bundle) : List Instr := [b.s, b.l, b.x, b.v, b.m]

/-- The registers of an instruction that the scoreboard checks: the guard always, the rest when the slot executes (R33). -/
def namedRefs (th : Thread) (i : Instr) : List Ref :=
  let n := slotInfo i
  let rest := if th.readP n.guard.pred != n.guard.neg then scoredRefs th i else []
  (Ref.p n.guard.pred :: rest).map (Ref.phys th.rrb)

/-- The instruction store as F reads it in the issue cycle: what ILOADs have written since, while the bundle went on to E3, is not yet
there (R97, R120). -/
def Core.fetchStore (c : Core) : Memory × List Nat :=
  (c.overwritten.filter fun x => decide (c.vi ≤ x.1)).foldl (fun p x =>
    (memWrite p.1 x.2.1 8 x.2.2.1, if x.2.2.2 then insertNat (x.2.1 / 8) p.2 else p.2)) (c.istore, c.istoreBad)

/-- The bundle at a PC of a core's instruction store. -/
def Core.fetch (c : Core) (pc : Pc) : Nat := memRead c.fetchStore.1 (pc.toNat * 32) 32

/-- Some result that the thread's next bundle names is not ready. -/
def State.awaitsResult (s : State) (t : Fin 8) : Bool :=
  let th := s.slotOf t
  match decodeBundle (BitVec.ofNat 256 (s.core.fetch th.pc)) with
  | some b => (bundleSlots b).any fun i => (namedRefs th i).any fun r => th.pending.any fun p => p.reg == some r
  | none => false

def execHoldRelease (c : CoreKey) (t : Fin 8) (s : State) : Out :=
  .next (s.onCore c fun s =>
    if s.awaitsResult t then s else s.modSlot t fun th => { th with held := false })

/-! ## The ends of waits (R38) -/

/-- The wait of a slot, while it goes on. -/
def Thread.openWait (th : Thread) : Option Wait :=
  match th.phase with
  | .waiting w => if w.done.isNone then some w else none
  | _ => none

def Thread.waitKind (th : Thread) : Option WaitKind :=
  match th.openWait with
  | some w => some w.kind
  | none => none

/-- The wait ends in cycle x (VTICK). -/
def Thread.endWait (th : Thread) (x : Nat) : Thread :=
  match th.phase with
  | .waiting w => { th with phase := .waiting { w with done := some x } }
  | _ => th

/-- The wait ends in cycle x by a trap, taken when the thread's cycle comes (R45). -/
def Thread.trapWait (th : Thread) (x : Nat) (r : Trap) : Thread := { th.endWait x with recorded := some r }

/-- A later evaluation that finds the condition false: the wait goes on, but a counted team traps (R361). -/
def State.stayWaiting (s : State) (t : Fin 8) (a : Word) : State :=
  if s.record.elastic then s else s.modSlot t fun th => th.trapWait s.core.vx (trapSchedule 3 a)

/-! ## WAIT_RETRY (R305) -/

/-- A waiting BWAIT, MWAIT or QTAKE of the focused core is evaluated; its wait ends, where it does, in cycle x. -/
def State.evalWait (s : State) (c : CoreKey) (t : Fin 8) (x : Nat) : State :=
  match (s.slotOf t).waitKind with
  | some (.bwait loc off phase) =>
    match bwaitTraps s.core loc off with
    | r :: _ => s.modSlot t fun th => th.trapWait x r
    | [] =>
      let s := s.noteRead (spaceOf c) loc 16
      if phaseReached (BarrierObject.ofNat (memRead s.core.sp loc 16)).phase phase.toNat then
        (s.acquire c t loc phase.toNat).modSlot t fun th => th.endWait x
      else s.stayWaiting t off
  | some .mwait =>
    match mwaitTraps s.core with
    | r :: _ => s.modSlot t fun th => th.trapWait x r
    | [] => if s.core.mailbox.isEmpty then s.stayWaiting t 0 else s.modSlot t fun th => th.endWait x
  | some (.qtake loc off room d) =>
    match qtakeTraps s.core loc room off with
    | r :: _ => s.modSlot t fun th => th.trapWait x r
    | [] =>
      let s := s.noteRead (spaceOf c) loc 16
      let h := memRead s.core.sp loc 16
      if qReady h then
        let v := memRead s.core.sp (loc + qEntry h) 8
        let u := (s.noteRead (spaceOf c) (loc + qEntry h) 8).spStoreBy t loc 16 (qTaken h)
        (u.learn c t (s.core.entryKnown (loc + qEntry h))).modSlot t fun th => (th.putS d (BitVec.ofNat 64 v)).endWait x
      else s.stayWaiting t off
  | _ => s

def execWaitRetry (c : CoreKey) (t : Fin 8) (s : State) : Out := .next (s.onCore c fun s => s.evalWait c t s.core.vx)

/-! ## RECV_RETRY and RECVT_DEADLINE (R332, R335, R336) -/

def execRecvRetry (c : CoreKey) (t : Fin 8) (s : State) : Out :=
  .next (s.onCore c fun s =>
    let x := s.core.vx
    let take (tag : BitVec 32) (f : Thread → Word → Thread) (other : State) : State :=
      match s.core.landed tag with
      | some v => ({ s with core := s.core.freeLanded tag }).modSlot t fun th => (f th v).endWait x
      | none => other
    match (s.slotOf t).waitKind with
    | some (.recv tag d) => take tag (fun th v => th.putS d v) (s.stayWaiting t (tag.zeroExtend 64))
    | some (.recvt tag d _ b) => take tag (fun th v => (th.putS d v).putP b false) s
    | _ => s)

def execRecvtDeadline (c : CoreKey) (t : Fin 8) (s : State) : Out :=
  .next (s.onCore c fun s =>
    match (s.slotOf t).waitKind with
    | some (.recvt _ d deadline b) =>
      if deadline.toNat ≤ s.core.vx then s.modSlot t fun th => ((th.putS d 0).putP b true).endWait s.core.vx else s
    | _ => s)

/-! ## PARK_WAKE (R256) -/

/-- The parked thread's register differs in cycle x. -/
def Core.parkDiffers (c : Core) (th : Thread) : Bool :=
  match th.waitKind with
  | some (.park a r) => c.sharedAt r 9 c.vx != a
  | _ => false

def execParkWake (c : CoreKey) (t : Fin 8) (s : State) : Out :=
  .next (s.onCore c fun s =>
    if s.core.parkDiffers (s.slotOf t) then s.modSlot t fun th => th.endWait s.core.vx else s)

/-! ## TAMP_RELEASE and WAITT_REACHED (R52, R159, R160, R165) -/

/-- The waiting TAMP's condition holds. -/
def State.tampDue (s : State) (c : Core) (th : Thread) : Bool :=
  match th.waitKind with
  | some (.tamp sc n) => s.tampHolds c sc n.toNat
  | _ => false

def execTampRelease (c : CoreKey) (t : Fin 8) (s : State) : Out :=
  .next (s.onCore c fun s =>
    match (s.slotOf t).waitKind with
    | some (.tamp sc n) =>
      if s.tampHolds s.core sc n.toNat then
        let tick := (s.die s.core.die).tick
        s.modSlot t fun th => (th.tampReleased sc s.core.vx tick).endWait s.core.vx
      else s
    | _ => s)

/-- The waiting WAITT's counter has reached its value. -/
def State.waittDue (s : State) (c : Core) (th : Thread) : Bool :=
  match th.waitKind with
  | some (.waitt k v _) => decide (v.toNat ≤ s.counter c k)
  | _ => false

def execWaittReached (c : CoreKey) (t : Fin 8) (s : State) : Out :=
  .next (s.onCore c fun s =>
    if s.waittDue s.core (s.slotOf t) then s.modSlot t fun th => th.endWait s.core.vx else s)

/-! ## WIRE_RELEASE and WIRETO_EXPIRY (R153, R155) -/

/-- The cycle, in the core's VTICK, of an event that comes now. VTICK stands at its boundary while the core is frozen or away (R53): the
event falls before the cycle of that boundary. -/
def Core.vtickNow (c : Core) : Nat :=
  match c.res with
  | .running => c.vx
  | .frozen | .away .. => c.vi - 1

/-- The debugger holds the thread in cycle x: from its stop's boundary to its resume's (R361). -/
def Thread.heldAt (th : Thread) (x : Nat) : Bool :=
  match th.stopped, th.stopAsked with
  | some _, _ => th.resumed.isNone
  | none, some b => decide (b ≤ x)
  | none, none => false

/-- An event of a wire episode ends a thread's wait in it: the result goes to its destination, or, while the debugger holds the thread, is
kept for its resume (R361). See log 51. -/
def State.endWire (s : State) (ep : Nat) (k : CoreKey) (t : Fin 8) (v : Option Word) (r : Option Trap) : State :=
  s.modCore k fun c => c.modSlot t fun th =>
    match th.waitKind with
    | some (.wire e d) =>
      if e = ep then
        let th := match d, v with
          | some q, some v => if th.heldAt c.vx then { th with got := some v } else th.putS q v
          | _, _ => th
        { th.endWait c.vtickNow with recorded := r }
      else th
    | _ => th

/-- What is in flight for a core of a team that is frozen whole stands still (R51): it arrives at its VTICK after resume. -/
def State.stillCore (s : State) (c : Core) : Bool :=
  c.res != .running && (match s.findCtx c.key.ctx with
    | some x => !x.record.elastic || (x.whole && (x.state != .freezing || decide (c.frozenAt ≤ (s.die c.die).tick)))
    | none => true)

/-- An episode of a team that is frozen whole goes on at its VTICK after resume (R51). -/
def State.wireStill (s : State) (e : Episode) : Bool :=
  e.arrivals.any fun a => match s.findCore ⟨e.ctx, a.lidx⟩ with
    | some c => s.stillCore c
    | none => false

def execWireRelease (ep : Nat) (s : State) : Out :=
  .next (match s.episodes.find? fun e => e.id = ep with
    | none => s
    | some e =>
      let r := s.recordOf e.ctx
      if s.wireStill e then s else
      match e.release r with
      | none => s
      | some l =>
        let tick := (s.die e.die).tick
        if l ≤ tick then
          let v := e.result r
          let s := e.waiters.foldl (fun s w => s.endWire ep w.1 w.2.1 (some v) none) s
          { s with episodes := s.episodes.filter fun x => x.id ≠ ep }
        else s)

/-- A waiter's timeout has expired on its core. -/
def State.expired (s : State) (w : CoreKey × Fin 8 × Option Nat) : Bool :=
  match w.2.2, s.findCore w.1 with
  | some e, some c => c.res == .running && decide (e ≤ c.vx)
  | _, _ => false

/-- TADDR of a timeout: ly and lx of the first core of the scope that did not arrive. -/
def Episode.missing (e : Episode) (r : Record) : Word :=
  match (r.scopeCores e.scope e.line).find? fun i => !e.arrivals.any fun a => r.local a.lidx = i with
  | some i => BitVec.ofNat 64 (r.ly i * 256 + r.lx i)
  | none => 0

/-- An incomplete episode in which a thread's timeout has expired. -/
def State.wireExpired (s : State) (e : Episode) : Bool :=
  (e.last (s.recordOf e.ctx)).isNone && e.waiters.any s.expired

def execWiretoExpiry (ep : Nat) (s : State) : Out :=
  .next (match s.episodes.find? fun e => e.id = ep with
    | none => s
    | some e =>
      if s.wireExpired e then
        let trap : Trap := ⟨3, 0x09, 0, 4, true, e.missing (s.recordOf e.ctx), 0, .trap⟩
        let s := e.waiters.foldl (fun s w => s.endWire ep w.1 w.2.1 none (some trap)) s
        { s with episodes := s.episodes.filter fun x => x.id ≠ ep }
      else s)

end Sys2Proof.Machine
end

