-- ==== Sys2Proof/Machine/Timetable.lean ====
section
/-!
DEFINITION. Timetables' headers and entries, messages of the core, and CARM, CFIRE and TRIG (R139, R166 to R176, R347, R348).
-/
namespace Sys2Proof.Machine

open Sys2Proof

/-! ## Header and entries (Tables 7-1 and 7-2) -/

def thHandle (h : Nat) : Nat := h / 2 ^ 104 % 2 ^ 24
def thNent (h : Nat) : Nat := h / 2 ^ 92 % 2 ^ 12
def thState (h : Nat) : Nat := h / 2 ^ 88 % 16
def thTrig (h : Nat) : Nat := h / 2 ^ 80 % 256
def thStride (h : Nat) : Nat := h / 2 ^ 60 % 2 ^ 20
def thTag (h : Nat) : Nat := h / 2 ^ 44 % 2 ^ 16
def thCmode (h : Nat) : Nat := h / 2 ^ 42 % 4
def thBooff (h : Nat) : Nat := h / 2 ^ 22 % 2 ^ 20
def thRuns (h : Nat) : Nat := h / 2 % 2 ^ 21
def thMissed (h : Nat) : Bool := h.testBit 0

/-- The header with another STATE. -/
def thWithState (h st : Nat) : Nat := h - thState h * 2 ^ 88 + st * 2 ^ 88

def teKind (e : Nat) : Nat := e / 2 ^ 124 % 16
def teOp (e : Nat) : Nat := e / 2 ^ 121 % 8
def teFmt (e : Nat) : Nat := e / 2 ^ 119 % 4
def teRnd (e : Nat) : Nat := e / 2 ^ 116 % 8
def tePeer (e : Nat) : Nat := e / 2 ^ 92 % 2 ^ 24
def teSeq (e : Nat) : Nat := e / 2 ^ 84 % 256
def teWt (e : Nat) : Nat := e / 2 ^ 68 % 2 ^ 16
def teLen (e : Nat) : Nat := e / 2 ^ 58 % 2 ^ 10
def teLoff (e : Nat) : Nat := e / 2 ^ 38 % 2 ^ 20

/-- The header at an offset of a core's scratchpad, and entry i. -/
def Core.header (c : Core) (a : Nat) : Nat := memRead c.sp a 16
def Core.entry (c : Core) (a i : Nat) : Nat := memRead c.sp (a + 16 + 16 * i) 16

/-- A sequencer write to a core's own scratchpad, which it has read (R84, R96, R360). -/
def State.seqWrite (s : State) (k : CoreKey) (a n v : Nat) : State := s.padChange .other k a n v

/-- The places taken: timetables in their check, ARMED or RUNNING (R169); a program's IDLE frees its place. -/
def Core.places (c : Core) : List Timetable :=
  c.tables.filter fun t => t.checking.isSome || thState (c.header t.hdr) == 1 || thState (c.header t.hdr) == 2

/-! ## Posting to the mailbox (R139) -/

/-- An item becomes ready to post: it stands among the held items in the order of R139 until the posts of the cycle. -/
def Core.post (c : Core) (h : HeldItem) : Core :=
  let before (a b : HeldItem) : Bool :=
    a.cycle < b.cycle || (a.cycle == b.cycle && (a.cls < b.cls || (a.cls == b.cls && a.order < b.order)))
  { c with heldMail := insertBy before h c.heldMail }

/-- Table 5-3. -/
def completionMessage (tag status slot op errIdx offset : Nat) : Quad :=
  BitVec.ofNat 128 (pack [(16, tag), (4, status), (3, slot), (2, op), (7, 0), (32, errIdx), (64, offset)])

/-- A timetable's message on its core (R169, R172, R173), in the current cycle of its die. -/
def State.tablePost (s : State) (k : CoreKey) (hdr status offset : Nat) : State :=
  match s.findCore k with
  | none => s
  | some c =>
    let now := (s.die c.die).tick
    s.modCore k fun c => c.post ⟨now, 1, hdr, completionMessage (thTag (c.header hdr)) status 7 0 0 offset⟩

/-! ## CARM (R347) -/

/-- A header that is not IDLE stays as it is: R347's step 2 is followed, where R169 alone would write REJECTED (log 92). A timetable in its
check, whose STATE is IDLE still, keeps its one place, and its check begins again (log 116). -/
def execCarm (g : Guard) (d : PReg) (a : SReg) (s : State) : Out :=
  .next (slotOp (.carm g d a) s (fun s => rawChecks s (s.rs a).toNat 16 16) fun s =>
    if 8 ≤ s.core.places.length then s.setP d true
    else
      let o := (s.rs a).toNat
      let h := s.core.header o
      let s := s.setP d false
      if thState h ≠ 0 then s.tablePost s.core.key o 1 o
      else
        let t : Timetable := ⟨o, some (s.cur.tick + 4 + 1 + thNent h), false, false, 0, false, 0, 0, 0, false⟩
        { s with core := { s.core with tables := s.core.places.filter (fun x => x.hdr ≠ o) ++ [t] } })

/-! ## CFIRE and TRIG (R170, R174, R348) -/

/-- The ranks of a bound handle; of one that is no more bound, none (log 108). -/
def State.ranksOf (s : State) (h : Nat) : List Nat :=
  match s.handles.find? fun x => x.handle.toNat = h with
  | some x => x.ranks
  | none => []

/-- Whether every rank of a group stands on the package. -/
def State.groupHere (s : State) (r : Record) (h : Nat) : Bool := (s.ranksOf h).all r.here

/-- A TAMP scope covers a group. -/
def State.covers (s : State) (r : Record) (lidx h : Nat) : TampScope → Bool
  | .die => (s.ranksOf h).all fun l => r.rankOf l == r.rankOf lidx
  | .package => s.groupHere r h
  | .domain => true

/-- The count from which a base is taken: the release of the thread's last TAMP whose scope covers every rank, else the
context's first rotation boundary; on TICK when every rank is here, else on DTICK (R170, R348). -/
def State.origin (s : State) (c : Core) (t : Thread) (h : Nat) : Nat :=
  let r := s.recordOf c.key.ctx
  let here := s.groupHere r h
  match t.tampAt.find? fun p => s.covers r c.key.lidx h p.1 with
  | some p => if here then p.2.1 else p.2.2.getD (s.die c.die).dtick
  | none => if here then c.tick0 else c.dtick0

/-- Fire one timetable of the focused core with a base (R170, R174). See log 47. -/
def State.fire (s : State) (hdr : Nat) (b : Word) : State :=
  let c := s.core
  let h := c.header hdr
  match c.tables.find? fun t => t.hdr = hdr && t.checking.isNone with
  | none => s
  | some _ =>
    if thState h = 1 then
      let on := !s.groupHere s.record (thHandle h)
      let base := s.origin c s.cur.pre (thHandle h) + b.toNat
      let start (t : Timetable) : Timetable :=
        { t with running := true, base := base, onDtick := on, entry := 0, taken := 0, bytes := 0, asleep := false }
      let tables := mapIf (fun t => t.hdr = hdr) start c.tables
      let s := { s with core := { s.core with tables := tables } }
      s.seqWrite c.key hdr 16 (thWithState h 2)
    else if thState h = 2 then s.seqWrite c.key hdr 16 (setBitN h 0 true)
    else s

def execCfire (g : Guard) (a b : SReg) (s : State) : Out :=
  .next (slotOp (.cfire g a b) s noChecks fun s => s.fire (s.rs a).toNat (s.rs b))

def execTrig (g : Guard) (a : SReg) (n : Byte) (s : State) : Out :=
  .next (slotOp (.trig g a n) s noChecks fun s =>
    let armed := s.core.tables.filter fun t => thState (s.core.header t.hdr) = 1 && thTrig (s.core.header t.hdr) = n.toNat
    armed.foldl (fun u t => u.fire t.hdr (s.rs a)) s)

end Sys2Proof.Machine
end

