-- ==== Sys2Proof/Machine/Network.lean ====
section
/-!
DEFINITION. Words in flight: remote accesses and their replies, SEND words, window words, active messages, and the links they
cross (R84 to R92, R110 to R115, R146 to R150, R161, R162, R167, R341, R342).
-/
namespace Sys2Proof.Machine

open Sys2Proof

/-! ## Routes and links (R146) -/

/-- One step from a towards b. -/
def stepTo (a b : Nat) : Nat := if a < b then a + 1 else if b < a then a - 1 else a

/-- The place after n links of the dimension-order route: first along x, then along y. -/
def placeAfter (ax ay bx by' : Nat) : Nat → Nat × Nat
  | 0 => (ax, ay)
  | n + 1 =>
    let p := placeAfter ax ay bx by' n
    if p.1 ≠ bx then (stepTo p.1 bx, p.2) else (p.1, stepTo p.2 by')

/-- The routers at the two ends of the word's n-th link, counted from 0. -/
def Record.linkAt (r : Record) (src dst n : Nat) : (Nat × Nat) × (Nat × Nat) :=
  let p := placeAfter (r.lx src) (r.ly src) (r.lx dst) (r.ly dst)
  (p n, p (n + 1))

/-- A link direction: context, rank of the rectangle and the two routers. -/
abbrev LinkName := Nat × Nat × (Nat × Nat) × (Nat × Nat)

def State.linkOf (s : State) (f : Flight) (n : Nat) : LinkName :=
  let r := s.recordOf f.ctx
  (f.ctx, r.rankOf f.src, r.linkAt f.src f.dst n)

/-- The order of R148. -/
def Flight.before (a b : Flight) : Bool :=
  a.issue < b.issue || (a.issue == b.issue &&
    (a.src < b.src || (a.src == b.src && (a.cls < b.cls || (a.cls == b.cls && a.order < b.order)))))

/-- The words of a frozen team stand still, so that they arrive at their VTICK after resume (R51, R91). -/
def State.flightStill (s : State) (f : Flight) : Bool :=
  match s.findCore ⟨f.ctx, f.src⟩ with
  | some c => s.stillCore c
  | none => !(s.recordOf f.ctx).elastic

/-- A word stands on a die. -/
def State.flightOn (s : State) (d : Fin 10) (f : Flight) : Bool :=
  match s.findCore ⟨f.ctx, f.src⟩ with
  | some c => c.die == d
  | none => false

def Flight.isReply (f : Flight) : Bool :=
  match f.kind with
  | .reply .. => true
  | _ => false

/-- Cross a link in a cycle: the next two cycles later, the landing four after the last (R147). -/
def Flight.cross (f : Flight) (x : Nat) : Flight :=
  { f with crossed := f.crossed + 1,
           due := if f.crossed + 1 < f.hops then x + 2 else x + 4 }

/-- Words that need a link in the cycle, in the order of R148, cross unless the link is taken in it. -/
def crossLinks (link : Flight → LinkName) (x : Nat) : List Flight → List LinkName → List Flight
  | [], _ => []
  | f :: fs, taken =>
    let l := link f
    if taken.contains l then { f with due := x + 1 } :: crossLinks link x fs taken
    else f.cross x :: crossLinks link x fs (l :: taken)

/-- The core that a word goes to is at its place. -/
def State.present (s : State) (k : CoreKey) : Bool :=
  match s.findCore k with
  | some c => c.res == .running
  | none => false

def Flight.isWord (f : Flight) : Bool :=
  match f.kind with
  | .word .. => true
  | _ => false

/-- A word that waits at a full landing buffer, or landed in this cycle after waiting, occupies the link it came by (R150). -/
def State.blocks (s : State) (f : Flight) : Bool :=
  f.isWord && f.held && decide (f.hops ≤ f.crossed) && decide (0 < f.hops) && s.present ⟨f.ctx, f.dst⟩

/-- The last link of a word is occupied. See log 32. -/
def State.stuckBehind (s : State) (f : Flight) : Bool :=
  decide (0 < f.hops) && s.flights.any fun g => s.blocks g && s.linkOf g (g.hops - 1) == s.linkOf f (f.hops - 1)

/-- The links of a die in a cycle. -/
def State.linkPhase (s : State) (d : Fin 10) : State :=
  let x := (s.die d).tick
  let here (f : Flight) : Bool := s.flightOn d f && !s.flightStill f
  let wants (f : Flight) : Bool := here f && decide (f.crossed < f.hops) && decide (f.due ≤ x)
  let taken := (s.flights.filter fun f => s.flightOn d f && s.blocks f).map fun f => s.linkOf f (f.hops - 1)
  let moved := crossLinks (fun f => s.linkOf f f.crossed) x (sortBy Flight.before (s.flights.filter wants)) taken
  let rest := s.flights.filter fun f => !wants f && !decide (f.hops < f.crossed)
  { s with flights := rest ++ moved }

/-! ## REMOTE_ACCESS_ARRIVAL (R87, R107, R110 to R115) -/

/-- Send an owner's reply to the issuing core (R148, R383). -/
def State.sendReply (s : State) (f : Flight) (slot : Fin 8) (pend : Nat) (v : Word) (poison : Option Nat) (cls : Classes)
    (x : Nat) : State :=
  let (id, s) := s.newId
  let hops := f.hops
  let kind : FlightKind := .reply slot pend v poison cls
  let r : Flight := ⟨id, kind, f.ctx, f.dst, f.src, x - 5, 0, id, 0, hops, if hops = 0 then x else x + 2, false, [], 0⟩
  { s with flights := s.flights ++ [r] }

/-- What an access does at its owner, in cycle x of the owner's die (R110, R111). See log 17. -/
def State.performAccess (s : State) (f : Flight) (op : RemoteOp) (slot : Fin 8) (pend : Option Nat) (x : Nat) :
    State :=
  let k : CoreKey := ⟨f.ctx, f.dst⟩
  let sender : CoreKey := ⟨f.ctx, f.src⟩
  match s.findCore k with
  | none => s
  | some c =>
    let w : Writer := .remote sender slot f.id f.known
    let writes (s : State) (ws : Writes) : State := ws.foldl (fun s x =>
      if x.2.1 = 8 then s.padWrite w k x.1 8 x.2.2 else s.padChange w k x.1 x.2.1 x.2.2) s
    let reply (s : State) (v : Word) (p : Option Nat) (cls : Classes) : State :=
      match pend with
      | some id => s.sendReply f slot id v p cls x
      | none => s
    match op with
    | .store loc n v => s.padWrite w k loc n v.toNat
    | .nibble loc hi v => s.padWrite w k loc 1 (putNibble (memRead c.sp loc 1) hi v.toNat)
    | .load loc n sgn =>
      let s := ((s.noteWrite w (spaceOf k) loc 0).noteRead (spaceOf k) loc n).watchArrival k true false loc n
      match poisonAt c loc n with
      | some g => reply s 0 (some g) 0
      | none => reply s (extendBytes n (memRead c.sp loc n) sgn) none 0
    | .atomic op loc w64 v mode seed vt lidx thr =>
      let n := atomicSize w64
      match poisonAt c loc n with
      | some g => reply (s.watchArrival k true true loc n) 0 (some g) 0
      | none =>
        let bits := (hash64 seed lidx thr vt 192).toNat % 2 ^ 32
        let old := memRead c.sp loc n
        let r := atomicApply op w64 old v.toNat mode bits
        reply (s.padChange w k loc n r.1) (BitVec.ofNat 64 old) none r.2
    | .qpub loc room n =>
      let h := memRead c.sp loc 16
      if qpubValid h room n.toNat then
        (writes s (qpubWrites h loc n.toNat)).publish k f.known (loc + 16 + 8 * (n.toNat % qCap h))
      else writes s (qErrWrites h loc)
    | .depdec loc task =>
      let spb := partSPB (s.recordOf f.ctx).part
      let t := writes s (depdecWrites c.sp loc task.toNat spb)
      (depdecEntry c.sp loc spb).elim t (t.publish k f.known)
    | .boarr loc => writes s (objectWrites c.sp loc 0 (-1))

/-- A word that stands at its destination. -/
def Flight.there (f : Flight) (x : Nat) : Bool := f.crossed == f.hops && decide (f.due ≤ x)

def State.dropFlight (s : State) (id : Nat) : State := { s with flights := s.flights.filter fun f => f.id ≠ id }

/-- Hold a word whose destination core is evicted, or whose buffer is full: what is held stands last among the words, in the order in
which it came (R92, R150). See log 34. -/
def State.holdFlight (s : State) (id : Nat) : State :=
  let comes (f : Flight) : Bool := f.id == id && !f.held
  { s with flights := (s.flights.filter fun f => !comes f) ++ (s.flights.filter comes).map fun f => { f with held := true } }

/-- The cycle of a core's die. -/
def State.tickOf (s : State) (k : CoreKey) : Nat :=
  match s.findCore k with
  | some c => (s.die c.die).tick
  | none => 0

/-- The access of a word performs. -/
def State.accessArrives (s : State) (f : Flight) : State :=
  match f.kind with
  | .access op slot pend =>
    let k : CoreKey := ⟨f.ctx, f.dst⟩
    let s := (s.dropFlight f.id).modCore k fun c => if f.known.isEmpty then c else { c with known := addKnown c.known f.known }
    let s := s.performAccess f op slot pend (s.tickOf k)
    s.passFences ⟨f.ctx, f.src⟩ slot f.id ((s.findCore k).elim [] (·.known))
  | _ => s

/-- An access whose last link a waiting word ahead of it occupies competes for that link again: it never passes a word of the
same route (R148, R150). -/
def State.sendBack (s : State) (id x : Nat) : State :=
  { s with flights := mapIf (fun f => f.id = id) (fun f => { f with crossed := f.hops - 1, due := x }) s.flights }

def execRemoteAccessArrival (id : Nat) (s : State) : Out :=
  .next (match s.flights.find? fun f => f.id = id with
    | none => s
    | some f =>
      let x := s.tickOf ⟨f.ctx, f.dst⟩
      if f.there x && !s.flightStill f then
        if s.present ⟨f.ctx, f.dst⟩ then (if s.stuckBehind f then s.sendBack id x else s.accessArrives f) else s.holdFlight id
      else s)

/-! ## REMOTE_REPLY_ARRIVAL (R31, R88, R311) -/

/-- Latency of an RLD in rotations (Table 2-2). -/
def replyLatency (hops : Nat) : Nat := 1 + (8 + 4 * hops + 7) / 8

/-- The rotation from which a reply that lands now is read: that of its latency, or, when it comes later, the first in which the
slot's bundle issues after the landing. See log 33. -/
def Core.readableFrom (c : Core) (slot : Fin 8) (p : Pend) (hops : Nat) : Nat :=
  Nat.max (rotation p.issue + 8 * replyLatency hops)
    (if c.res == .running then (c.vx + 1 - slot.val + 7) / 8 * 8 else 0)

def execRemoteReplyArrival (id : Nat) (s : State) : Out :=
  .next (match s.flights.find? fun f => f.id = id with
    | none => s
    | some f =>
      match f.kind with
      | .reply slot pend v poison cls =>
        let now := s.tickOf ⟨f.ctx, f.src⟩
        if f.there now && !s.flightStill f then
          if s.stuckBehind f then s.sendBack id now
          else (s.dropFlight id).modCore ⟨f.ctx, f.dst⟩ fun c =>
            let set (p : Pend) : Pend :=
              { p with val := .scalar v, ready := some (c.readableFrom slot p f.hops), raised := [(0, cls)], poison := poison }
            c.modSlot slot fun th => { th with pending := mapIf (fun p => p.id = pend) set th.pending }
        else s
      | _ => s)

/-! ## SCHEDULED_WORD_LANDING (R147, R149, R150) -/

/-- Room in a landing buffer. -/
def Core.landingRoom (c : Core) : Bool := decide (c.landing.length < 64)

def Core.land (c : Core) (l : Landed) : Core := { c with landing := c.landing ++ [l] }

/-- A SEND word at its destination lands, or waits for an entry. A word that waited occupies its link through the cycle of
its landing: it stays among the words, past its last link, until the links of the cycle are done. -/
def State.wordLands (s : State) (f : Flight) : State :=
  match f.kind, s.findCore ⟨f.ctx, f.dst⟩ with
  | .word seq data, some c =>
    if c.landingRoom then
      let s := s.modCore ⟨f.ctx, f.dst⟩ fun c => c.land ⟨data, BitVec.ofNat 24 f.src, seq, 0⟩
      if f.held then
        { s with flights := mapIf (fun g => g.id = f.id) (fun g => { g with crossed := g.hops + 1 }) s.flights }
      else s.dropFlight f.id
    else s.holdFlight f.id
  | _, _ => s

def execScheduledWordLanding (id : Nat) (s : State) : Out :=
  .next (match s.flights.find? fun f => f.id = id with
    | none => s
    | some f =>
      if f.there (s.tickOf ⟨f.ctx, f.dst⟩) && !s.flightStill f then
        if s.present ⟨f.ctx, f.dst⟩ then s.wordLands f else s.holdFlight id
      else s)

/-! ## WINDOW_WORD_LANDING (R161, R162, R340) -/

/-- A run of a counted core's timetables goes on: the firmware places a freeze after its last entry (R176). -/
def State.runsOn (s : State) (k : Core) : Bool :=
  !(s.recordOf k.key.ctx).elastic && k.tables.any (·.running)

/-- A word of a team that is frozen whole stands still from its sender's boundary on; to a counted team's frozen core so does one from
another package (R51). -/
def State.windowStill (s : State) (w : WindowWord) : Bool :=
  match s.findCore ⟨w.ctx, w.sender⟩ with
  | some c => s.stillCore c
  | none => !(s.recordOf w.ctx).elastic && (match s.findCore ⟨w.ctx, w.dst⟩ with
    | some c => c.res != .running
    | none => false)

/-- The TICK of the sending die at which a word that has crossed n links reaches the entry of the next. -/
def WindowWord.entryAt (w : WindowWord) : Nat := w.issue + 8 + 40 * w.crossed + w.waited

/-- The TICK of the sending die at which a word that has crossed its whole route lands. -/
def WindowWord.landsAt (w : WindowWord) : Nat := w.issue + 16 + 40 * w.crossed + w.waited

/-- The rank of words at one link's entry (R161). Of words that tie on tick and sender, and are not of one block, the one that issued
first goes first, and else the list's order stands (log 91). -/
def WindowWord.before (a b : WindowWord) : Bool :=
  let ra := a.reached.getD 0
  let rb := b.reached.getD 0
  ra < rb || (ra == rb && (a.sender < b.sender || (a.sender == b.sender &&
    (a.issue < b.issue || (a.issue == b.issue && a.order < b.order)))))

/-- At most eight words cross one direction of one die link in a tick of the entry's die. -/
def crossDies (now : Nat) : List WindowWord → List Nat → List WindowWord
  | [], _ => []
  | w :: ws, taken =>
    let next := w.route.getD 1 0
    if (taken.filter (· == next)).length < 8 then
      { w with crossed := w.crossed + 1, route := w.route.tail, reached := none,
               waited := w.waited + (now - w.reached.getD now) } :: crossDies now ws (next :: taken)
    else w :: crossDies now ws taken

/-- The die links that leave a die, in one of its ticks. -/
def State.windowPhase (s : State) (d : Fin 10) : State :=
  let now := (s.die d).tick
  let srcTick (w : WindowWord) : Nat := (s.die (Fin.ofNat 10 w.srcDie)).tick
  let enter (w : WindowWord) : WindowWord :=
    if w.reached.isNone && decide (w.entryAt ≤ srcTick w) then { w with reached := some now } else w
  let mine (w : WindowWord) : Bool := w.route.headD 0 == d.val && decide (1 < w.route.length) && !s.windowStill w
  let words := mapIf mine enter (s.windows.filter fun w => !(w.route.headD 0 == d.val && w.stand == .landed))
  let ready (w : WindowWord) : Bool := mine w && w.reached.isSome
  { s with windows := words.filter (fun w => !ready w) ++ crossDies now (sortBy WindowWord.before (words.filter ready)) [] }

/-- A word's flight is over: on the sending die's TICK; for one from another package, when its flight's end has come on its core's die's
DTICK, each tick waited at a link one more, and it has come from its hub die (R161). -/
def State.windowThere (s : State) (w : WindowWord) : Bool :=
  decide (w.route.length ≤ 1) && w.stand != .landed && !s.windowStill w
    && decide (w.landsAt ≤ (s.die (Fin.ofNat 10 w.srcDie)).tick) && (match w.due with
      | some x => decide (x + w.waited ≤ (s.die (Fin.ofNat 10 (w.route.headD 0))).dtick)
      | none => true)

/-- A word is for another package: at a hub die it leaves this one. -/
def WindowWord.leaves (w : WindowWord) : Bool := w.origin == 2 && w.due.isNone

def State.dropWindow (s : State) (id : Nat) : State := { s with windows := s.windows.filter fun w => w.id ≠ id }

/-- A core takes a window word: while it runs, and a counted team's frozen one the words of a timetable, which a peer that has not come
to the team's boundary yet still sends (R176). -/
def State.receives (s : State) (c : Core) (w : WindowWord) : Bool :=
  c.res == .running || (c.res == .frozen && w.handle.isSome && !(s.recordOf c.key.ctx).elastic)

/-- A word that waits at the window port of a die for room, or has waited and landed in this cycle: the port is taken (R150). -/
def State.portTaken (s : State) (w : WindowWord) : Bool :=
  let ahead := if w.reached.isSome then s.windows.takeWhile fun x => x.id != w.id else s.windows
  let there (x : WindowWord) : Bool := x.id != w.id && x.route == w.route && !x.leaves
  s.windows.any (fun x => there x && x.stand == .landed)
    || ahead.any fun x => there x && x.stand == .waiting && x.reached.isSome && s.present ⟨x.ctx, x.dst⟩ && !s.windowStill x

/-- A word takes an entry of its core's buffer; one that waited occupies the port through the cycle. -/
def State.windowLands (s : State) (w : WindowWord) : State :=
  let t := if w.stand == .waiting then { s with windows := mapIf (fun x => x.id = w.id) (fun x => { x with stand := .landed }) s.windows }
    else s.dropWindow w.id
  t.modCore ⟨w.ctx, w.dst⟩ fun c => c.land ⟨w.data, BitVec.ofNat 24 w.sender, w.seq, w.origin⟩

/-- A word whose flight is over lands in its core, waits at the die's window port for room, or for the core's return, or leaves the
package at a hub die; it names its destination by this package's context number (log 54). -/
def execWindowWordLanding (id : Nat) (s : State) : Out :=
  .next (match s.windows.find? fun w => w.id = id with
    | none => s
    | some w =>
      if !s.windowThere w then s
      else if w.leaves then
        let item : FabricItem := match w.handle with
          | some h => .groupWord h w.jobKey w.sender w.seq w.data ⟨w.ctx, w.dst⟩ (w.sent + w.waited)
          | none => .windowWord w.jobKey w.sender w.seq w.data ⟨w.ctx, w.dst⟩ (w.sent + w.waited)
        (s.dropWindow id).leaveBy (w.route.headD 8 - 8) ((s.recordOf w.ctx).packageIndex w.dst) item
      else
        match s.findCore ⟨w.ctx, w.dst⟩ with
        | none => s.dropWindow id
        | some c =>
          if !s.receives c w || s.portTaken w then s
          else if c.landingRoom then s.windowLands w
          else { s with windows := mapIf (fun x => x.id = id) (fun x => { x with stand := .waiting }) s.windows })

/-! ## HUB_WORD_ARRIVAL (R167, R342) -/

/-- The destination of an item, and whether its key or handle lets it in. -/
def State.admits (s : State) (item : FabricItem) : Bool :=
  let keyOf (k : CoreKey) : Option Word := (s.findCtx k.ctx).map fun x => x.record.jobKey
  match item with
  | .groupWord h _ sender _ _ dst _ =>
    match s.handles.find? (fun x => x.handle = h), keyOf dst with
    | some b, some key => b.jobKey == key && b.ranks.contains sender
    | _, _ => false
  | .windowWord key _ _ _ dst _ | .message key _ dst | .halted key _ dst => keyOf dst == some key

def itemDst : FabricItem → CoreKey
  | .groupWord _ _ _ _ _ d _ | .windowWord _ _ _ _ d _ | .message _ _ d | .halted _ _ d => d

/-- The flight between this package and that of a sender, recorded at link training (R161); 0 when there is none (log 54). -/
def State.flightFrom (s : State) (ctx sender : Nat) : Nat :=
  ((s.firm.flights.find? fun x => x.1 = (s.recordOf ctx).packageIndex sender).map fun x => x.2.toNat).getD 0

/-- An item from another package at one of the 16 ports of a hub die, 16h to 16h + 15 (R15): it goes on to its core, or is dropped,
counted and reported with its handle and port. A word goes over the die links from the hub die to its core's, at the entry of the first
of them as it comes; it lands when the recorded flight from its issue is over, counted in DTICK, and no sooner than it has come (R161;
log 54). Nothing comes by a removed port (R467). -/
def execHubWordArrival (hub : Fin 2) (port : Fin 16) (item : FabricItem) (s : State) : Out :=
  let die : Fin 10 := if hub = 0 then 8 else 9
  .next (
    if !s.portUp hub port then s
    else if s.admits item && (s.findCore (itemDst item)).isSome then
      let (id, s) := s.newId
      let k := (itemDst item)
      let word (sender : Nat) (seq : Byte) (data : Word) (sent : Nat) : State :=
        let w : WindowWord := ⟨id, k.ctx, sender, die.val, k.lidx, seq, data, 2, none, 0,
          dieRoute die.val (s.dieOf k.ctx k.lidx), (s.die die).tick - 8, 0, 0, none, 0, sent, some (sent + s.flightFrom k.ctx sender), .moving⟩
        { s with windows := s.windows ++ [w] }
      match item with
      | .groupWord _ _ sender seq data _ sent => word sender seq data sent
      | .windowWord _ sender seq data _ sent => word sender seq data sent
      | .message _ m _ => { s with messages := s.messages ++ [⟨id, k.ctx, bitsNat m 87 64, k.lidx, m⟩] }
      | .halted _ rank _ => s.modCtx k.ctx fun x => { x with heard := rank :: x.heard }
    else
      let handle := match item with
        | .groupWord h .. => h.toNat
        | _ => 0
      let s := s.modFirm fun f => { f with wordsDropped := f.wordsDropped + 1 }
      s.sendEvent 3 (itemDst item).ctx handle [BitVec.ofNat 64 (hub.val * 16 + port.val)])

/-! ## ACTIVE_MESSAGE_ARRIVAL (R139, R341) -/

/-- Messages of one core to one core come in the order they were sent. -/
def State.firstMessage (s : State) (m : Message) : Bool :=
  match s.messages.find? fun x => x.ctx = m.ctx && x.src = m.src && x.dst = m.dst with
  | some x => x.id == m.id
  | none => false

/-- A message comes between two cycles of its die, and is ready to post in the next one. -/
def execActiveMessageArrival (id : Nat) (s : State) : Out :=
  .next (match s.messages.find? fun m => m.id = id with
    | none => s
    | some m =>
      let k : CoreKey := ⟨m.ctx, m.dst⟩
      if s.present k && s.firstMessage m then
        let now := s.tickOf k
        let s := { s with messages := s.messages.filter fun x => x.id ≠ id }
        s.modCore k fun c => c.post ⟨now + 1, 2, m.src, m.msg⟩
      else s)

end Sys2Proof.Machine
end

