-- ==== Sys2Proof/Machine/Translation.lean ====
section
/-!
DEFINITION. Physical memory, page tables, the ports' translation caches, fault service and shootdowns (R426 to R442), and the
dirty bitmaps that port writes set (R446, R447).
-/
namespace Sys2Proof.Machine

open Sys2Proof

/-- Ticks of DTICK in a millisecond (R156). -/
def dticksPerMs : Nat := 3600000

/-- Whether an ASID lies in a slice's range. -/
def Slice.hasAsid (x : Slice) (a : Nat) : Bool := decide (x.asidBase ≤ a) && decide (a < x.asidBase + x.asidCnt)

/-! ## Walks (R430) -/

/-- What a walk yields. -/
inductive Walk where
  | leaf (pa size : Nat) (rd wr : Bool)
  | fault (kind : WalkFault) (level : Nat)
  deriving DecidableEq, Repr

/-- Bits hi:lo of a number. -/
def natBits (x hi lo : Nat) : Nat := x / 2 ^ lo % 2 ^ (hi + 1 - lo)

/-- The levels of a walk that are left, from a table. -/
def State.walkFrom (s : State) (sl : Fin 8) (va : Nat) (write diag : Bool) : Nat → Nat → Walk
  | 0, _ => .fault .badEntry 3
  | n + 1, t =>
    let lvl := 3 - n
    let ea := t + 8 * natBits va (63 - 12 * lvl) (52 - 12 * lvl)
    let e := memRead s.mem ea 8
    let type := natBits e 63 62
    let size := natBits e 61 60
    let pa := natBits e 40 15 * 2 ^ 15
    let rsvd := natBits e 57 41 != 0 || natBits e 14 0 != 0 || (type == 1 && natBits e 61 58 != 0)
    if !(poisonIn s.memPoison ea 8).isEmpty then .fault .tPoison lvl
    else if type = 0 then .fault .notMapped lvl
    else if type = 3 || rsvd then .fault .badEntry lvl
    else if type = 1 then (if lvl = 3 then .fault .badEntry 3 else s.walkFrom sl va write diag n pa)
    else if !((lvl == 3 && decide (size ≤ 1)) || (lvl == 2 && size == 2)) then .fault .badEntry lvl
    else
      let sz := if size = 0 then 2 ^ 16 else if size = 1 then 2 ^ 21 else 2 ^ 30
      let rd := e.testBit 59
      let wr := e.testBit 58
      if pa % sz ≠ 0 then .fault .badEntry lvl
      else if (!write && !rd) || (write && !wr) then .fault .rights lvl
      else if !(s.owns sl pa sz && covered populated 16 pa (pa + sz)) || (diag && decide (pa < 0x8000000000)) then
        .fault .hole lvl
      else .leaf (pa + va % sz) sz rd wr

/-- Walk of R430; a DIAG context reaches only capacity memory (R458). -/
def State.walk (s : State) (sl : Fin 8) (asid va : Nat) (write diag : Bool) : Walk :=
  let r := s.tcb sl (8 * asid)
  if !(s.slice sl).hasAsid asid || !r.testBit 63 then .fault .notMapped 0
  else if natBits r 61 41 ≠ 0 || natBits r 14 0 ≠ 0 then .fault .badEntry 0
  else s.walkFrom sl va write diag 3 (natBits r 40 15 * 2 ^ 15)

/-- The entries that a walk reads, from a table. -/
def State.trailFrom (s : State) (va : Nat) : Nat → Nat → List Nat
  | 0, _ => []
  | n + 1, t =>
    let lvl := 3 - n
    let ea := t + 8 * natBits va (63 - 12 * lvl) (52 - 12 * lvl)
    let e := memRead s.mem ea 8
    ea :: (if natBits e 63 62 = 1 then s.trailFrom va n (natBits e 40 15 * 2 ^ 15) else [])

/-- A walk reads its root word and its entries: they keep their values (R119). -/
def State.noteWalk (s : State) (sl : Fin 8) (asid va : Nat) : State :=
  let root := tcbBase sl.val + 8 * asid
  (root :: s.trailFrom va 3 (natBits (memRead s.mem root 8) 40 15 * 2 ^ 15)).foldl (fun s a => s.noteRead 0 a 8) s

/-! ## The translation cache (R432, R434) -/

def Xlate.holds (x : Xlate) (asid va : Nat) : Bool := x.asid == asid && decide (x.va ≤ va) && decide (va < x.va + x.size)

/-- Translate at a port: by a cached translation that is still there, allows the access and names memory of the slice (R443), else
by a fresh walk, whose result is cached when it succeeds. Whether an entry has been replaced is not architectural: a free choice (log 4). -/
def State.translate (s : State) (d : Fin 10) (sl : Fin 8) (asid va : Nat) (write diag : Bool) : Walk × State :=
  let (kept, s) := s.pick 2
  let hit := (s.die d).cache.find? fun x => x.holds asid va
  let usable := kept = 0 && (match hit with
    | some x => (if write then x.wr else x.rd) && s.owns sl x.pa x.size
    | none => false)
  if usable then
    match hit with
    | some x => (.leaf (x.pa + (va - x.va)) x.size x.rd x.wr, s)
    | none => (.fault .notMapped 0, s)
  else
    let s := s.modDie d fun x => { x with cache := x.cache.filter fun e => !e.holds asid va }
    let w := s.walk sl asid va write diag
    let s := s.noteWalk sl asid va
    match w with
    | .leaf pa sz rd wr =>
      let e : Xlate := ⟨asid, va / sz * sz, sz, pa / sz * sz, rd, wr⟩
      (w, s.modDie d fun x => { x with cache := (e :: x.cache).take 8192 })
    | .fault .. => (w, s)

/-! ## Fault queues (R435 to R438) -/

def WalkFault.code : WalkFault → Nat
  | .notMapped => 1 | .rights => 2 | .badEntry => 3 | .hole => 4 | .tPoison => 5

/-- Change a request of a core's FIFO. -/
def Core.modReq (c : Core) (id : Nat) (f : Request → Request) : Core :=
  { c with fifo := mapIf (fun r => r.id = id) f c.fifo }

def State.modReq (s : State) (k : CoreKey) (id : Nat) (f : Request → Request) : State := s.modCore k fun c => c.modReq id f

def Core.req (c : Core) (id : Nat) : Option Request := c.fifo.find? fun r => r.id = id

/-- A parked unit as a record's lowest fields name it. -/
def Parked.same (a b : Parked) : Bool := a.core == b.core && a.req == b.req && a.va == b.va && a.write == b.write

/-- Take a unit out of a port's fault queue: an entry frees, so returned requests are offered again (R436). -/
def State.unpark (s : State) (d : Fin 10) (p : Parked) : State :=
  s.modDie d fun x => { x with faults := x.faults.filter (fun q => !q.same p), refused := [] }

/-- Park a unit, or return it when the queue is full (R435, R436). -/
def State.park (s : State) (d : Fin 10) (p : Parked) : State :=
  if (s.die d).faults.length < 128 then
    (s.modDie d fun x => { x with faults := x.faults ++ [p] }).modReq p.core p.req fun r => { r with parked := true }
  else
    s.modDie d fun x => { x with refused := if x.refused.contains p.asid then x.refused else p.asid :: x.refused }

/-- An object with a fault flag and the offset, unless it has one (R141, R143). REMAIN holds the offset modulo 2^40, and the message modulo
2^64, of an element whose offset is above 40 bits (log 113). -/
def markedObject (old status off : Nat) : Nat :=
  let b := BarrierObject.ofNat old
  if b.faulted then old
  else
    let b' : BarrierObject := { b with error := b.error || status == 1, poison := b.poison || status == 2,
                                       fault := b.fault || status == 3, remain := signedNat 40 (off % 2 ^ 40) }
    b'.toNat

/-- The object of a core is marked. -/
def Core.markObject (c : Core) (loc status off : Nat) : Core :=
  { c with sp := memWrite c.sp loc 16 (markedObject (memRead c.sp loc 16) status off) }

/-- The cores whose objects a request counts into: the issuer, or every receiver of a multicast. -/
def Request.counters (r : Request) (k : CoreKey) (rec' : Record) : List CoreKey :=
  if !r.op.indexed && wMc r.w2 != 0 then r.recv.map fun i => ⟨k.ctx, rec'.rankOf k.lidx * rec'.rect + i⟩ else [k]

/-- The first failure of a request: its objects take the flag and the offset, and its message the status and the lowest failing
index. A later failure changes neither (R143). See log 20. -/
def State.noteFailure (s : State) (k : CoreKey) (r : Request) (status idx off : Nat) : State :=
  if r.status ≠ 0 then s
  else
    let mark (s : State) (c : CoreKey) : State :=
      ((s.modCore c fun x => x.markObject (wBooff r.w3) status off).noteWrite (.engine k r.id none) (spaceOf c) (wBooff r.w3)
        16).watchArrival c true true (wBooff r.w3) 16
    let s := if wCmode r.w3 % 2 = 1 then (r.counters k (s.recordOf k.ctx)).foldl mark s else s
    s.modReq k r.id fun r => { r with status := BitVec.ofNat 4 status, errIdx := idx, errOff := BitVec.ofNat 64 off }

/-- A request stops abnormally (R143). -/
def State.failReq (s : State) (k : CoreKey) (id status idx off : Nat) : State :=
  match (s.findCore k).bind (·.req id) with
  | none => s
  | some r => (s.noteFailure k r status idx off).modReq k id fun r =>
      { r with state := .finishing, buf := [], admitted := [], parked := false }

/-- The element index that a failure reports: 0 for COPY and ILOAD. -/
def Request.failIndex (r : Request) : Nat := if r.op.indexed then r.next else 0

/-- Refuse a parked unit (R437): its request ends with FAULT. -/
def State.refuseUnit (s : State) (d : Fin 10) (p : Parked) : State :=
  let idx := match (s.findCore p.core).bind (·.req p.req) with
    | some r => r.failIndex
    | none => 0
  (s.unpark d p).failReq p.core p.req 3 idx p.segOff

/-- Table 24-4. -/
def faultRecord (p : Parked) (d : Fin 10) (x y seq : Nat) (kind : WalkFault) (level answer : Nat) : Nat :=
  pack [(62, 0), (2, answer), (32, seq), (16, p.asid), (4, kind.code), (2, level), (1, b2n p.write), (4, d.val), (4, y),
    (4, x), (3, p.slot.val), (6, 0), (64, p.dtick), (52, p.va)]

def State.logFull (s : State) (sl : Fin 8) : Bool :=
  (s.tcb sl offFlTail + 2 ^ 64 - s.tcb sl offFlHead) % 2 ^ 64 == 8192

/-- Where record SEQ of a slice's log lies. -/
def recordAt (sl : Fin 8) (seq : Nat) : Nat := tcbBase sl.val + 0xA0000 + 32 * (seq % 8192)

/-- Append a record: its SEQ is FLTAIL. -/
def State.logFault (s : State) (sl : Fin 8) (d : Fin 10) (p : Parked) (kind : WalkFault) (level answer : Nat) :
    Nat × State :=
  let seq := s.tcb sl offFlTail
  let (x, y) := match s.findCore p.core with
    | some c => (c.x.val, c.y.val)
    | none => (0, 0)
  let s := s.firmWrite (recordAt sl seq) 32 (faultRecord p d x y seq kind level answer)
  (seq, s.setTcb sl offFlTail ((seq + 1) % 2 ^ 64))

/-! ### Admission (R433 to R436) -/

/-- Translate pieces of one direction: the units, or the virtual address and offset of the first that faults. -/
def State.translatePieces (s : State) (d : Fin 10) (sl : Fin 8) (asid : Nat) (write diag waited : Bool) :
    List (Nat × Nat × Nat) → (List PortUnit × Option (Nat × Nat)) × State
  | [] => (([], none), s)
  | (va, off, n) :: rest =>
    match s.translate d sl asid va write diag with
    | (.leaf pa sz .., s) =>
      let u : PortUnit := ⟨va, pa, n, write, (s.die d).tick, (va / sz * sz, sz), false, waited⟩
      let (p, s) := s.translatePieces d sl asid write diag waited rest
      ((u :: p.1, p.2), s)
    | (.fault .., s) => (([], some (va, off)), s)

/-- The port takes the pieces that a request offers: it admits all of them, or parks or returns the first that faults. -/
def State.takePieces (s : State) (k : Core) (r : Request) (pieces : List (Nat × Nat × Nat)) (write waited : Bool) : State :=
  let rec' := s.recordOf k.key.ctx
  let d := k.die
  if (s.die d).refused.contains rec'.asid then s
  else
    match s.translatePieces d (s.sliceOf k.key) rec'.asid write rec'.diag waited pieces with
    | ((us, none), s) => s.modReq k.key r.id fun r => { r with admitted := r.admitted ++ us }
    | ((_, some (va, off)), s) =>
      let (n, s) := s.newId
      s.park d ⟨k.key, r.id, r.slot, rec'.asid, va, off, write, (s.die d).dtick, n, none⟩

/-- What a request writes next at a GLOBAL destination: of an element, all that is read of it, so that a refusal leaves the
element unwritten (R143); else what is read. -/
def Request.writePieces (r : Request) (va : Nat) : List (Nat × Nat × Nat) :=
  cutUnits va r.writeAt (8 * r.buf.length)

/-- The unit of a parked entry is admitted by a walk that succeeded. -/
def State.admitParked (s : State) (d : Fin 10) (p : Parked) (pa sz : Nat) : State :=
  let s := (s.unpark d p).modReq p.core p.req fun r => { r with parked := false }
  match s.findCore p.core with
  | none => s
  | some k =>
    match k.req p.req with
    | none => s
    | some r =>
      if r.op.indexed && p.write then
        s.takePieces k r (r.writePieces (p.va + r.writeAt - p.segOff)) true true
      else
        let u : PortUnit := ⟨p.va, pa, 8, p.write, (s.die d).tick, (p.va / sz * sz, sz), false, true⟩
        s.modReq p.core p.req fun r => { r with admitted := r.admitted ++ [u] }

/-- The service cores take a parked unit (R437, steps 1 to 3). -/
def State.serve (s : State) (d : Fin 10) (p : Parked) : State :=
  let sl := s.sliceOf p.core
  match s.walk sl p.asid p.va p.write (s.recordOf p.core.ctx).diag with
  | .leaf pa sz _ _ => s.admitParked d p pa sz
  | .fault kind level =>
    let refuse := kind == .hole || !(s.tcb sl (8 * p.asid)).testBit 62
    if kind = .tPoison then
      if s.logFull sl then s else ((s.logFault sl d p kind level 2).2).refuseUnit d p
    else if refuse then s.refuseUnit d p
    else if s.logFull sl then s
    else
      let (seq, s) := s.logFault sl d p kind level 0
      let now := (s.die d).dtick
      s.modDie d fun x => { x with faults := mapIf (fun q => q.same p) (fun q => { q with record := some (seq, now) }) x.faults }

/-! ## FAULT_SERVICE, FAULT_ANSWER_POLL, FAULT_TIMEOUT (R437) -/

/-- A slice's unit that parked before another one and has no record yet: one that waits for room in the log is still the first (R437;
log 105). -/
def State.parkedBefore (s : State) (p : Parked) : Bool :=
  let sl := s.sliceOf p.core
  (List.finRange 10).any fun d => (s.die d).faults.any fun q =>
    s.sliceOf q.core == sl && q.record.isNone && decide (q.order < p.order)

/-- The service cores take a unit of a port that has no record and is its slice's oldest. Of the units of several slices any comes first
(log 4). -/
def execFaultService (die : Fin 10) (s : State) : Out :=
  let ready := (s.die die).faults.filter fun p => p.record.isNone && !s.parkedBefore p
  let (i, s) := s.pick ready.length
  .next (match ready[i]? with
    | some p => s.serve die p
    | none => s)

/-- The pending records of a slice: die, unit, SEQ and the DTICK at which the record was appended. -/
def State.pendingFaults (s : State) (sl : Fin 8) : List (Fin 10 × Parked × Nat × Nat) :=
  (List.finRange 10).flatMap fun d => (s.die d).faults.filterMap fun p =>
    if s.sliceOf p.core = sl then p.record.map fun r => (d, p, r.1, r.2) else none

/-- A record's ANSWER; a released record that is unanswered reads as REFUSE. The counters are modulo 2^64 (R438): a record is
released when it is not among the FLTAIL − FLHEAD newest. -/
def State.answerOf (s : State) (sl : Fin 8) (seq : Nat) : Nat :=
  let a := memRead s.mem (recordAt sl seq + 24) 8 % 4
  let back (n : Nat) : Nat := (s.tcb sl offFlTail + 2 ^ 64 - n % 2 ^ 64) % 2 ^ 64
  if a = 0 && decide (back (s.tcb sl offFlHead) < back seq) then 2 else a

/-- Act on the answer of one pending record. -/
def State.answerUnit (s : State) (sl : Fin 8) (d : Fin 10) (p : Parked) (seq : Nat) : State :=
  match s.answerOf sl seq with
  | 1 =>
    let p' := { p with record := none }
    (s.modDie d fun x => { x with faults := mapIf (fun q => q.same p) (fun _ => p') x.faults }).serve d p'
  | 2 => s.refuseUnit d p
  | _ => s

def execFaultAnswerPoll (slice : Fin 8) (s : State) : Out :=
  .next ((s.pendingFaults slice).foldl (fun s x => s.answerUnit slice x.1 x.2.1 x.2.2.1) s)

def execFaultTimeout (slice : Fin 8) (s : State) : Out :=
  let fto := s.tcb slice offFto % 2 ^ 32
  .next ((s.pendingFaults slice).foldl (fun s x =>
    if fto ≠ 0 && s.answerOf slice x.2.2.1 == 0 && decide (x.2.2.2 + fto * dticksPerMs ≤ (s.die x.1).dtick) then
      s.refuseUnit x.1 x.2.1
    else s) s)

/-! ## Shootdowns (R439) -/

/-- The command that the service cores execute next: CMDDONE's ring entry, when the driver has written one and no command waits
for its acknowledgements. -/
def State.command (s : State) (sl : Fin 8) : Option Nat :=
  let done := s.tcb sl offCmdDone
  if done ≠ s.tcb sl offCmdTail && !(s.slice sl).shoot then
    some (memRead s.mem (tcbBase sl.val + 0x90000 + 16 * (done % 4096)) 16)
  else none

/-- Whether a command covers [va, va + n) of an ASID. -/
def commandCovers (c asid va n : Nat) : Bool :=
  match natBits c 127 120 with
  | 1 =>
    let first := natBits c 51 16 * 2 ^ 16
    let last := first + Nat.max (natBits c 103 72) 1 * 2 ^ 16
    natBits c 119 104 == asid && decide (first < va + n) && decide (va < last)
  | 2 => natBits c 119 104 == asid
  | _ => true

/-- Every port of a slice drops what a command covers; units that use a dropped page, of whatever size, are marked. -/
def State.shootdown (s : State) (sl : Fin 8) (c : Nat) : State :=
  let covers (asid va n : Nat) : Bool := (s.slice sl).hasAsid asid && commandCovers c asid va n
  let s := (List.finRange 10).foldl (fun s d => s.modDie d fun x =>
    { x with cache := x.cache.filter fun e => !covers e.asid e.va e.size }) s
  let mark (asid : Nat) (u : PortUnit) : PortUnit := if covers asid u.page.1 u.page.2 then { u with dropped := true } else u
  let s := s.contexts.foldl (fun s x => s.modCores (fun k => k.key.ctx == x.num) fun k =>
    { k with fifo := k.fifo.map fun r => { r with admitted := r.admitted.map (mark x.record.asid) } }) s
  s.modSlice sl fun x => { x with shoot := true }

/-- Execute the next command when its OP is one of those given. -/
def State.shootdownIf (s : State) (sl : Fin 8) (p : Nat → Bool) : State :=
  match s.command sl with
  | some c => if p (natBits c 127 120) then s.shootdown sl c else s
  | none => s

def execShootdownPages (slice : Fin 8) (s : State) : Out := .next (s.shootdownIf slice fun op => op == 1)

def execShootdownAsid (slice : Fin 8) (s : State) : Out := .next (s.shootdownIf slice fun op => op == 2)

def execShootdownSlice (slice : Fin 8) (s : State) : Out := .next (s.shootdownIf slice fun op => op != 1 && op != 2)

/-- Every unit that used a dropped translation has completed: CMDDONE advances. -/
def execShootdownAck (slice : Fin 8) (s : State) : Out :=
  let waits := s.cores.any fun c => s.sliceOf c.key == slice && c.fifo.any fun r => r.admitted.any (·.dropped)
  .next (if (s.slice slice).shoot && !waits then
      (s.setTcb slice offCmdDone ((s.tcb slice offCmdDone + 1) % 2 ^ 64)).modSlice slice fun x => { x with shoot := false }
    else s)

end Sys2Proof.Machine
end

