-- ==== Sys2Proof/Machine/EngineRun.lean ====
section
/-!
DEFINITION. The transfer engine at work: starts, admissions, units, sub-lists, completions and the mailbox (R93 to R97, R109,
R130 to R145, R433).
-/
namespace Sys2Proof.Machine

open Sys2Proof

/-! ## Which requests move (R130, R144) -/

/-- The core's engine goes on with a request: while the core runs, and at a freeze with a near one. -/
def Core.moves (c : Core) (r : Request) : Bool :=
  r.state == .started && !r.parked && (match c.res with
    | .running => true
    | .frozen => r.near || r.underway
    | .away .. => false)

/-- A scratchpad that an engine can reach: its core is not away. -/
def State.reachable (s : State) : Place → Bool
  | .sp k _ | .code k _ => match s.findCore k with
    | some c => match c.res with
      | .away .. => false
      | _ => true
    | none => false
  | .glob _ => true

/-- Some core of a context is away: a MESH operand may lie there. -/
def State.someAway (s : State) (ctx : Nat) : Bool := s.cores.any fun c => c.key.ctx == ctx && (match c.res with
  | .away .. => true
  | _ => false)

/-- The destination offsets of a COPY's rows, all of them: w0 has advanced through some. -/
def Request.rowStarts (r : Request) : List Nat :=
  let here := wOff r.w0 + r.rowLeft - wLen r.w2
  (List.range (wNrow r.w2)).map fun i => here + 8 * i * wDstr r.w2 - 8 * (wNrow r.w2 - r.rowsLeft) * wDstr r.w2

/-- Destination offsets of a request's units. -/
def Request.writeOffsets (r : Request) : List Nat :=
  if r.op.indexed then
    (List.range (wIcnt r.w2)).flatMap fun i => (List.range (wEsz r.w2 / 8)).map fun j => r.elemDst i 0 + 8 * j
  else r.rowStarts.flatMap fun o => (List.range (wLen r.w2 / 8)).map fun j => o + 8 * j

/-- A request of a core may write the core's own scratchpad. Where a SCAT's elements go is not known before their indices are read. -/
def Request.writesOwn (r : Request) (rec' : Record) (k : CoreKey) : Bool :=
  match segKind r.dseg with
  | 1 => true
  | 2 => r.op == .scat || r.writeOffsets.any fun o => match placeOf rec' k r.dseg o with
      | .sp c _ => c == k
      | _ => false
  | _ => false

/-- A mark of a core waits for a request ahead of it: for its counts and its message, and for its writes to locations that the scope
covers (R99, Table 4-2). See log 52. -/
def Mark.awaits (m : Mark) (rec' : Record) (k : CoreKey) (r : Request) : Bool :=
  wCmode r.w3 != 0 || (match m.scope with
    | .core => r.writesOwn rec' k
    | .die => segKind r.dseg == 1 || segKind r.dseg == 2
    | .package | .system => true)

/-- A mark's cycle F has not passed, or a remote access of its thread from before the FENCE, held for an owner, has not performed yet
(R99, R122). -/
def State.fencing (s : State) (k : CoreKey) (tick : Nat) (m : Mark) : Bool :=
  decide (tick ≤ m.f) || s.flights.any fun f => f.ctx == k.ctx && f.src == k.lidx && (match f.kind with
    | .access _ t _ => m.follows t f.id
    | _ => false)

/-- The requests of a FIFO that a freeze captures: those with a GLOBAL or CODE operand, those with a MESH operand or receivers in a team
one of whose cores is away, and those that a FENCE mark keeps behind one of them, or behind a cycle F that has not come; every request
behind such a mark waits with it (R99, R144, R145). far says which operands are out of reach, open' whether a mark's remote accesses
are not over and awaits what a mark waits for; ahead holds the captured requests, and stuck says whether such a mark stands, ahead. See
log 50. -/
def capturedIds (far : Request → Bool) (open' : Mark → Bool) (awaits : Mark → Request → Bool) :
    List Request → Bool → List Request → List Nat
  | _, _, [] => []
  | ahead, stuck, r :: rs =>
    let stuck := stuck || (r.state == .queued && r.marks.any fun m => ahead.any (awaits m) || open' m)
    let it := (r.state == .queued || r.state == .started) && (far r || r.image.isSome || (stuck && r.state == .queued))
    (if it then [r.id] else []) ++ capturedIds far open' awaits (if it then r :: ahead else ahead) stuck rs

/-- The requests of a core that its freeze captures. -/
def State.captured (s : State) (c : Core) : List Nat :=
  let away := s.someAway c.key.ctx
  capturedIds (fun r => !r.near || (away && (segKind r.dseg == 2 || segKind r.sseg == 2 || r.casts)))
    (s.fencing c.key c.frozenAt) (fun m r => m.awaits (s.recordOf c.key.ctx) c.key r) [] false c.fifo

/-! ## ENGINE_REQUEST_START (R99, R122, R130) -/

/-- A mark's conditions: no request ahead has writes, counts or a message left that it waits for, cycle F has passed, and every remote
access that it covers has performed. See log 52. -/
def State.marksMet (s : State) (c : Core) (r : Request) (tick : Nat) : Bool :=
  r.marks.all fun m => !s.fencing c.key tick m
    && (c.fifo.takeWhile fun q => q.id != r.id).all fun q => !m.awaits (s.recordOf c.key.ctx) c.key q

/-- The request that starts next, when fewer than four are in progress and its marks are met. A frozen core starts those that its
freeze does not capture; its time stands at the freeze. -/
def State.nextStart (s : State) (c : Core) : Option Request :=
  let open' := if c.res == .running then c.fifo else (let l := s.captured c; c.fifo.filter fun r => !l.contains r.id)
  let tick := if c.res == .running then (s.die c.die).tick else c.frozenAt
  let busy := (open'.filter fun x => x.state == .started || x.state == .finishing).length
  match open'.find? fun r => r.state == .queued with
  | none => none
  | some r => if busy < 4 && (c.res == .frozen || c.res == .running) && s.marksMet c r tick then some r else none

/-- A request that starts, or goes on after a re-push; one of zero length has only its completion left (R138). -/
def Request.start (r : Request) (rec' : Record) (k : CoreKey) : Request :=
  let recv := if !r.op.indexed && wMc r.w2 != 0 then rec'.multicast (wMc r.w2) (rec'.local k.lidx) else []
  { r with state := if requestEmpty r.op r.w2 then .finishing else .started, begun := true, recv := recv }

def execEngineRequestStart (c : CoreKey) (s : State) : Out :=
  .next (match s.findCore c with
    | none => s
    | some k =>
      match s.nextStart k with
      | some r => s.modReq c r.id fun r => r.start (s.recordOf c.ctx) c
      | none => s)

/-! ## Units read and written (R96, R109, R119, R125, R133, R134, R141) -/

/-- A core and a request of it. -/
def State.request (s : State) (c : CoreKey) (id : Nat) : Option (Core × Request) :=
  match s.findCore c with
  | none => none
  | some k => (k.req id).map fun r => (k, r)

/-- Space and address of a place, for R96. -/
def Request.address (r : Request) (write : Bool) : Place → Nat × Nat
  | .sp k o => (spaceOf k, o)
  | .code _ o => (0, o)
  | .glob va => (0, (r.physOf va write).getD 0)

/-- A source byte was written since the push by an unordered access. -/
def Request.isStained (r : Request) (space a : Nat) : Bool :=
  r.stained.any fun x => x.space == space && decide (x.addr ≤ a) && decide (a < x.addr + x.len) && !knows r.known x.id x.req x.counted

/-- Byte i of a source place lies in the destination range of the same COPY, at any receiver (R133). -/
def Request.inDestination (r : Request) (rec' : Record) (k : CoreKey) (p : Place) (i : Nat) : Bool :=
  r.op == .copy && r.rowStarts.any fun o =>
    let b := segBase r.dseg + o
    match p with
    | .glob va => segKind r.dseg == 3 && meets (va + i) 1 b (wLen r.w2)
    | .code .. => false
    | .sp c a =>
      match segKind r.dseg with
      | 1 => (r.counters k rec').contains c && meets (a + i) 1 b (wLen r.w2)
      | 2 => (List.range (wLen r.w2 / 8)).any fun j => placeOf rec' k r.dseg (o + 8 * j) == .sp c ((a + i) / 8 * 8)
      | _ => false

/-- Units of one granule that a request has written (R125). -/
def Request.granuleUnits (r : Request) (space a : Nat) : Nat :=
  ((r.moved.filter fun m => m.dspace == space && m.dst / 64 == a / 64).map (·.dst)).eraseDups.length

/-- An ILOAD writes a unit of an instruction store; what it overwrites is kept for the fetches of the latest cycles (R97). -/
def Core.istoreWrite (c : Core) (o v : Nat) : Core :=
  let bad := c.istoreBad.contains (o / 8)
  { c with istore := memWrite c.istore o 8 v, istoreBad := c.istoreBad.filter (· ≠ o / 8),
           overwritten := (c.vx, o, memRead c.istore o 8, bad) :: c.overwritten.filter fun x => decide (c.vx ≤ x.1 + 4) }

/-- Write eight bytes at a place; the write of a request's eighth unit of a granule clears its poison (R125). -/
def State.writeUnit (s : State) (k : Core) (r : Request) (counted : Option (CoreKey × Nat × Nat)) (d : Place) (v : Nat) (whole : Bool) :
    State :=
  let w : Writer := .engine k.key r.id counted
  match d with
  | .sp c o =>
    let s := s.padWrite w c o 8 v
    if whole then s.modCore c fun x => { x with poison := x.poison.filter (· ≠ o / 64) } else s
  | .code c o => s.modCore c fun x => x.istoreWrite o v
  | .glob va =>
    let pa := (r.physOf va true).getD 0
    let s := s.physWrite w k.die (s.sliceOf k.key) pa 8 v
    if whole then { s with memPoison := s.memPoison.filter (· ≠ pa / 64) } else s

/-- The object and the phase that a count of a core goes into. -/
def State.countedIn (s : State) (c : CoreKey) (r : Request) : Option (CoreKey × Nat × Nat) :=
  if wCmode r.w3 % 2 = 0 then none
  else (s.findCore c).map fun x =>
    (c, wBooff r.w3, (BarrierObject.ofNat (memRead x.sp (wBooff r.w3) 16)).phase + 1)

/-- Count eight bytes into the object of a core (R134, R141): what the request followed stands behind the phase (R94). The object may
lie in a poisoned granule: the count is made on its bytes, and the poison stays (log 101). -/
def State.countUnit (s : State) (k c : CoreKey) (r : Request) : State :=
  if wCmode r.w3 % 2 = 0 then s
  else match s.findCore c with
    | none => s
    | some x =>
      let s := match s.countedIn c r with
        | some (_, loc, n) => if r.known.isEmpty || x.phases.contains (loc, n, r.known) then s
          else s.modCore c fun x => { x with phases := (loc, n, r.known) :: x.phases }
        | none => s
      (objectWrites x.sp (wBooff r.w3) (-8) 0).foldl
        (fun s w => s.padChange (.engine k r.id (s.countedIn c r)) c w.1 w.2.1 w.2.2) s

/-- Admitted units whose last eight bytes have been accessed complete; the port's latency monitor counts those that never waited in
a fault queue (R362). -/
def State.retireUnits (s : State) (k : CoreKey) (r : Request) (va : Option Nat) (write : Bool) : State :=
  match va with
  | none => s
  | some va =>
    let last (u : PortUnit) : Bool := u.write == write && u.va + u.len == va + 8
    match s.findCore k with
    | none => s
    | some c =>
      let now := (s.die c.die).tick
      let s := s.modDie c.die fun d =>
        { d with latency := (r.admitted.filter fun u => last u && !u.waited).foldl (fun m u => m.add (now - u.since)) d.latency }
      s.modReq k r.id fun r => { r with admitted := r.admitted.filter fun u => !last u }

/-- Read the next unit of a request. -/
def State.readUnit (s : State) (k : Core) (r : Request) (p : Place) : State :=
  let (space, a) := r.address false p
  let v := match p with
    | .code c o => (s.findCore c).elim 0 fun x => memRead x.istore o 8
    | _ => s.unitAt space a
  let s := match p with
    | .sp c o => s.watchArrival c true false o 8
    | _ => s
  let s := match p with
    | .code .. => s
    | _ => s.noteRead space a 8
  (s.modReq k.key r.id fun r => { r with buf := r.buf ++ [⟨space, a, v⟩] }).retireUnits k.key r p.va false

/-- Two elements of one SCAT that write one unit leave the whole value of one of them: whether a later one stands is free (R135,
log 4). -/
def State.overrides (s : State) (r : Request) (space a : Nat) : Bool × State :=
  if r.op == .scat && r.moved.any fun m => m.dspace == space && m.dst == a then
    let (n, s) := s.pick 2
    (n = 0, s)
  else (true, s)

/-- Write the oldest unit read to the place whose turn it is, count it and go on. Bytes of it that R96 or R133 makes undefined are
free. -/
def State.landUnit (s : State) (k : Core) (r : Request) (u : ReadUnit) (d : Place) : State :=
  let rec' := s.recordOf k.key.ctx
  let src := placeOf rec' k.key r.sseg (wOff r.w1)
  let undef (i : Nat) : Bool := r.op != .iload && (r.isStained u.space (u.src + i) || r.inDestination rec' k.key src i)
  let (dspace, da) := r.address true d
  let (stands, s) := s.overrides r dspace da
  let c := r.counter rec' k.key
  let s := if stands then
      let (v, s) := s.freeBytes u.val undef
      let open' : BitVec 8 := BitVec.ofNat 8 ((List.range 8).foldl (fun m i => if undef i then m else m + 2 ^ i) 0)
      let counted := s.countedIn c r
      let m : MovedUnit := ⟨u.space, u.src, dspace, da, counted, if r.op == .iload then 0 else open'⟩
      let r' := { r with moved := m :: r.moved }
      let s := s.writeUnit k r counted d v (decide (8 ≤ r'.granuleUnits dspace da))
      s.modReq k.key r.id fun r => { r with moved := m :: r.moved }
    else s
  let s := (s.countUnit k.key c r).retireUnits k.key r d.va true
  s.modReq k.key r.id Request.advance

/-! ## Elements of GATH and SCAT (R135, R136, R143) -/

/-- The offending offset of an element out of bounds. -/
def Request.outOfBounds (r : Request) (i x : Nat) : Option Nat :=
  let e := wEsz r.w2
  if r.elemSrc i x + e > segLimit r.sseg then some (r.elemSrc i x)
  else if r.elemDst i x + e > segLimit r.dseg then some (r.elemDst i x) else none

/-- Take up the next element: its index is read, whole as old or new. Elements move in ascending order, as NEXT of Table 5-7 asks
(log 55). A poisoned index ends the request; an element out of bounds moves nothing, and whether any later one moves is free
(log 4). -/
def State.takeElement (s : State) (k : Core) (r : Request) : State :=
  let i := r.next
  let o := wIoff r.w2 + i * wIsz r.w2
  let a := segBase r.iseg + o
  if wIcnt r.w2 ≤ i then s.modReq k.key r.id fun r => { r with state := .finishing }
  else if !(poisonIn k.poison a (wIsz r.w2)).isEmpty then s.failReq k.key r.id 2 i o
  else
    let x := memRead k.sp a (wIsz r.w2)
    let s := (s.noteRead (spaceOf k.key) a (wIsz r.w2)).watchArrival k.key true false a (wIsz r.w2)
    match r.outOfBounds i x with
    | none => s.modReq k.key r.id fun r => { r with idx := some x, unit := 0 }
    | some bad =>
      let s := s.noteFailure k.key r 1 i bad
      let (n, s) := s.pick 2
      s.modReq k.key r.id fun r => { r with next := i + 1, state := if n = 0 then .started else .finishing }

/-- The indexed segment of a GATH or SCAT is MESH (R136). -/
def Request.splits (r : Request) : Bool :=
  match r.op with
  | .gath => segKind r.sseg == 2
  | .scat => segKind r.dseg == 2
  | _ => false

/-! ## The steps of a request -/

/-- One step of a request's data. -/
inductive EngineStep where
  | element
  /-- Offer pieces to the port: their direction. -/
  | admission (pieces : List (Nat × Nat × Nat)) (write : Bool)
  | read (p : Place)
  | write (u : ReadUnit) (p : Place)
  /-- The next source unit, at this offset, is poisoned: its access is over, and the request ends once everything before has landed. -/
  | poisoned (off : Nat)
  deriving DecidableEq, Repr

/-- The unit at a place may be accessed: one in global memory when the port has admitted it, whatever happens to the rest of its
request (R435, R440); one in a scratchpad while the request goes on. -/
def State.accessible (s : State) (k : Core) (r : Request) (write : Bool) : Place → Bool
  | .glob va => r.state == .started && (r.physOf va write).isSome
  | p => k.moves r && s.reachable p

/-- The unit at a source place is poisoned. -/
def State.sourcePoison (s : State) (r : Request) (p : Place) : Bool :=
  match p with
  | .code .. => false
  | _ => let (space, a) := r.address false p; s.unitPoison space a

/-- What the source side of a request can do next. An element's units are read before they are written, a COPY's one admitted unit,
or eight bytes, at a time, upward (log 82). -/
def State.sourceSteps (s : State) (k : Core) (r : Request) : List EngineStep :=
  match r.bad, r.readAt with
  | some o, _ => if r.buf.isEmpty then [.poisoned o] else []
  | none, none => []
  | none, some (o, left) =>
    let p := placeOf (s.recordOf k.key.ctx) k.key r.sseg o
    if s.accessible k r false p then
      if s.sourcePoison r p then [.poisoned o]
      else if r.op.indexed || r.buf.isEmpty || p.va.isSome then [.read p] else []
    else match p with
      | .glob va => if k.moves r && (r.op.indexed || r.buf.isEmpty) then [.admission ((cutUnits va o left).take 1) false] else []
      | _ => []

/-- What is read of an element may be written: all of it, or all before a poisoned unit (R143). -/
def Request.elementRead (r : Request) : Bool := r.bad.isSome || r.readAt.isNone

/-- A multicast's first write of a unit waits until every receiver is there. -/
def State.castReady (s : State) (k : Core) (r : Request) : Bool :=
  r.turn != 0 || (r.counters k.key (s.recordOf k.key.ctx)).all fun c => s.reachable (.sp c 0)

/-- What the destination side can do next. -/
def State.destinationSteps (s : State) (k : Core) (r : Request) : List EngineStep :=
  match r.buf with
  | [] => []
  | u :: _ =>
    let p := r.target (s.recordOf k.key.ctx) k.key
    if s.accessible k r true p then (if s.castReady k r then [.write u p] else [])
    else match p with
      | .glob va => if k.moves r && (!r.op.indexed || r.elementRead) then [.admission (r.writePieces va) true] else []
      | _ => []

/-- The steps that a request can take now. -/
def State.engineSteps (s : State) (k : Core) (r : Request) : List EngineStep :=
  let ready := !r.op.indexed || r.elementRead
  (if r.op.indexed && r.idx.isNone && k.moves r then [.element] else [])
  ++ s.sourceSteps k r ++ (if ready then s.destinationSteps k r else [])

def EngineStep.isAdmission : EngineStep → Bool
  | .admission .. => true
  | _ => false

/-- Take a step. How much of what is offered a unit of a COPY covers is free (log 4). See log 82. -/
def State.engineStep (s : State) (k : Core) (r : Request) : EngineStep → State
  | .element => s.takeElement k r
  | .admission pieces write =>
    match r.op.indexed, pieces with
    | false, (va, off, n) :: _ =>
      let (m, s) := s.pick (n / 8)
      s.takePieces k r [(va, off, 8 * (m + 1))] write false
    | _, _ => s.takePieces k r pieces write false
  | .read p => s.readUnit k r p
  | .write u p => s.landUnit k r u p
  | .poisoned o =>
    if r.buf.isEmpty then s.failReq k.key r.id 2 r.failIndex o
    else s.modReq k.key r.id fun r => { r with bad := some o, admitted := r.admitted.filter (·.write) }

/-- Take one of the steps that a test picks; which one is free (R109, R116, log 4). -/
def State.stepRequest (s : State) (k : Core) (r : Request) (p : EngineStep → Bool) : State :=
  let l := (s.engineSteps k r).filter p
  let (i, s) := s.pick l.length
  match l[i]? with
  | some x => s.engineStep k r x
  | none => s

/-! ## ENGINE_UNIT_ADMISSION, ENGINE_UNIT_ACCESS and ENGINE_SUBLIST -/

def execEngineUnitAdmission (c : CoreKey) (req : Nat) (s : State) : Out :=
  .next (match s.request c req with
    | some (k, r) => s.stepRequest k r EngineStep.isAdmission
    | none => s)

def execEngineUnitAccess (c : CoreKey) (req : Nat) (s : State) : Out :=
  .next (match s.request c req with
    | some (k, r) => if r.splits then s else s.stepRequest k r fun x => !x.isAdmission
    | none => s)

/-- The owner's engine serves the issuer's sub-list: the same elements, counted at the issuer (R136). -/
def execEngineSublist (c : CoreKey) (req : Nat) (s : State) : Out :=
  .next (match s.request c req with
    | some (k, r) => if r.splits then s.stepRequest k r fun x => !x.isAdmission else s
    | none => s)

/-! ## ENGINE_REQUEST_COMPLETE (R138) -/

/-- OFFSET of a completion with STATUS 0. -/
def Request.byteCount (r : Request) : Nat :=
  if r.op.indexed then wIcnt r.w2 * wEsz r.w2
  else if wMc r.w2 = 0 then wNrow r.w2 * wLen r.w2 else wLen r.w2

def Request.message (r : Request) : Quad :=
  completionMessage (wTag r.w3) r.status.toNat r.slot.val r.op.code (if r.status = 0 then 0 else r.errIdx)
    (if r.status = 0 then r.byteCount else r.errOff.toNat)

/-- A request in progress has met a write of this one. -/
def State.writesMatter (s : State) (req : Nat) : Bool :=
  s.cores.any fun c => c.fifo.any fun r => r.stained.any fun x => x.req == some req

/-- A request whose writes and counts are done becomes ready to post, or leaves the FIFO. -/
def execEngineRequestComplete (c : CoreKey) (req : Nat) (s : State) : Out :=
  .next (match s.request c req with
    | none => s
    | some (k, r) =>
      if r.state ≠ .finishing then s
      else if wCmode r.w3 / 2 = 1 then
        let now := (s.die k.die).tick
        let known := [(req, r.message, if s.writesMatter req || !r.known.isEmpty then .request req :: r.known else [])]
        s.modCore c fun x => ({ x with done := x.done ++ known }.modReq req fun r => { r with state := .held }).post ⟨now, 0, req, r.message⟩
      else s.modCore c fun x => { x with fifo := x.fifo.filter fun r => r.id ≠ req })

/-! ## MAILBOX_HELD_POST (R139) -/

/-- Post what is ready while an entry is free; the entry of a posted completion's request frees with it. -/
def Core.postHeld (c : Core) : Nat → Core
  | 0 => c
  | n + 1 =>
    match c.heldMail with
    | [] => c
    | h :: rest =>
      if c.mailbox.length < 32 then
        let (fifo, done) := if h.cls = 0 then
            (c.fifo.filter (fun r => r.id ≠ h.order), c.done.filter (·.1 ≠ h.order) ++ c.done.filter (·.1 = h.order))
          else (c.fifo, c.done)
        Core.postHeld { c with mailbox := c.mailbox ++ [h.msg], heldMail := rest, fifo := fifo, done := done } n
      else c

def execMailboxHeldPost (c : CoreKey) (s : State) : Out := .next (s.modCore c fun x => x.postHeld x.heldMail.length)

end Sys2Proof.Machine
end

