-- ==== Sys2Proof/Machine/Trace.lean ====
section
/-!
DEFINITION. Crema sampling: pulses, records and the ends of sessions (R354 to R358).
-/
namespace Sys2Proof.Machine

open Sys2Proof

/-- The 16 bits of a slot in a core entry (Table 16-4). -/
def Thread.sample (t : Thread) : Nat := t.lastCause.code.val * 2 ^ 12 + (match t.lastPc with
  | some pc => pc.toNat
  | none => 0xFFF)

/-- The entry of a core that does not hold the session's context. -/
def absentEntry : Nat := pack ((16, 0) :: List.replicate 8 (16, 0xDFFF) ++ [(48, 0)])

/-- A core entry (Table 16-4); the pulse's cycle is four before the one whose E3 work the core does. -/
def Core.entry24 (c : Core) (asid : Nat) : Nat :=
  pack ((16, asid) :: (c.slots.toList.reverse.map fun t => (16, t.sample)) ++ [(48, (c.vx - 4) % 2 ^ 48)])

/-- A core holds its context in the pulse's cycle: it is neither frozen nor away, and it has begun (R27, R356, R358). -/
def State.holds (s : State) (c : Core) : Bool :=
  match c.res with
  | .away .. | .frozen => false
  | .running => decide (c.tick0 + 4 ≤ (s.die c.die).tick)

/-- The 256 entries of a die for a session, in ascending 16y + x. -/
def State.traceEntries (s : State) (x : Session) : List Nat :=
  (List.range 256).map fun i =>
    match s.cores.find? fun c => c.key.ctx = x.ctx && c.die == x.die && c.y.val * 16 + c.x.val == i with
    | some c => if s.holds c then c.entry24 x.asid else absentEntry
    | none => absentEntry

/-- A core differs from the previous record (R356). -/
def entryDiffers (k prev now : Nat) : Bool :=
  prev / 2 ^ 48 != now / 2 ^ 48 || (prev % 2 ^ 48 + 2 ^ k) % 2 ^ 48 != now % 2 ^ 48

/-- Table 16-3. -/
def crema (type reason : Nat) (x : Session) (asid dtick tick len lost : Nat) : Nat :=
  pack [(8, type), (8, reason), (4, x.die.val), (5, x.k), (39, 0), (32, x.seq % 2 ^ 32), (16, asid), (16, 0), (64, dtick),
    (64, tick), (32, len), (32, lost), (192, 0)]

/-- Zero padding to a multiple of 64 bytes. -/
def padTo64 (l : List Byte) : List Byte := l ++ List.replicate ((64 - l.length % 64) % 64) 0

/-- The body of a KEY or a DELTA record. -/
def keyBody (now : List Nat) : List Byte := now.flatMap (leBytes 24)

def deltaBody (k : Nat) (last now : List Nat) : List Byte :=
  let marks := (last.zip now).map fun p => entryDiffers k p.1 p.2
  let map := (marks.zipIdx).foldl (fun a p => if p.1 then a + 2 ^ p.2 else a) 0
  leBytes 32 map ++ ((now.zip marks).filter (·.2)).flatMap fun p => leBytes 24 p.1

/-- Write bytes into a session's ring, beside every counter and bitmap (R357). -/
def ringPut (m : Memory) (x : Session) : List Byte → Nat → Memory
  | [], _ => m
  | b :: bs, i => ringPut (memSet m (x.base + (x.wr + i) % Nat.max x.size 1) b) x bs (i + 1)

/-- Bytes free in the ring. -/
def Session.room (x : Session) : Nat := x.size - (x.wr - x.rd)

/-- Append a record; its bytes go only to memory that the session's slice still owns (R443). See log 53. -/
def State.putRecord (s : State) (x : Session) (type reason asid dtick tick : Nat) (body : List Byte) :
    Session × State :=
  let bytes := padTo64 (leBytes 64 0 ++ body)
  let hdr := crema type reason x asid dtick tick bytes.length x.lost
  let rec' := leBytes 64 hdr ++ bytes.drop 64
  ({ x with wr := x.wr + bytes.length, seq := x.seq + 1, sinceKey := (x.sinceKey + 1) % 64, lost := 0 }, { s with mem := if s.owns (Fin.ofNat 8 x.slice) x.base x.size then ringPut s.mem x rec' 0 else s.mem })

def State.setSession (s : State) (x : Session) : State :=
  { s with sessions := mapIf (fun y => y.id = x.id) (fun _ => x) s.sessions }

/-- One pulse of a session (R356, R357): a record whole, or none. The session's first record and every 64th are KEY; after a drop the
next is LOST with a KEY after it, both of one pulse and written when both fit (log 114). -/
def State.tracePulse (s : State) (x : Session) (dtick tick : Nat) : State :=
  let asid := x.asid
  let now := s.traceEntries x
  let key := x.needKey || x.sinceKey == 0
  if 0 < x.lost then
    if 64 + 6208 ≤ x.room then
      let (x, s) := s.putRecord x 2 0 asid dtick tick []
      let (x, s) := s.putRecord x 0 0 asid dtick tick (keyBody now)
      s.setSession { x with needKey := false, last := now }
    else s.setSession { x with lost := x.lost + 1 }
  else
    let body := if key then keyBody now else deltaBody x.k x.last now
    if 64 + (padTo64 body).length ≤ x.room then
      let (x, s) := s.putRecord x (if key then 0 else 1) 0 asid dtick tick body
      s.setSession { x with needKey := false, last := now }
    else s.setSession { x with lost := x.lost + 1 }

/-- The pulse of a session's die falls in the cycle four before the die's, whose charges are made (R355). -/
def State.pulseDue (s : State) (x : Session) : Bool :=
  let d := s.die x.die
  match d.dhist[4]? with
  | some t => t % 2 ^ x.k == 0
  | none => false

def execTracePulse (session : Nat) (s : State) : Out :=
  .next (match s.sessions.find? fun x => x.id = session with
    | none => s
    | some x =>
      if s.pulseDue x then
        let d := s.die x.die
        s.tracePulse x (d.dhist.getD 4 0) (d.tick - 4)
      else s)

/-- The record of a session that is in progress: by how many cycles the die's count is past its pulse (R358). -/
def State.inProgress (s : State) (x : Session) : Option Nat :=
  ((s.die x.die).dhist.take 4).findIdx? fun t => t % 2 ^ x.k == 0

/-- A session ends (R358): the record in progress, then a TRUNCATED record with its reason, when it fits, and no more. TRUNCATED has no
pulse: it holds the counts of the die as they stand when the session ends (log 114). -/
def State.endSession (s : State) (x : Session) (reason : Nat) : State :=
  let d := s.die x.die
  let s := match s.inProgress x with
    | some i => s.tracePulse x (d.dhist.getD i 0) (d.tick - i)
    | none => s
  let x : Session := (s.sessions.find? fun y => y.id == x.id).getD x
  let s := if 64 ≤ x.room then (s.putRecord x 3 reason x.asid d.dtick d.tick []).2 else s
  { s with sessions := s.sessions.filter fun y => y.id ≠ x.id }

def State.endSessions (s : State) (p : Session → Bool) (reason : Nat) : State :=
  (s.sessions.filter p).foldl (fun s x => s.endSession x reason) s

end Sys2Proof.Machine
end

