-- ==== Sys2Proof/Machine/Firmware.lean ====
section
/-!
DEFINITION. What the service firmware shares among frames and launches: which frames it serves (R410, R413, R457), and how a
context leaves the package (R37, R413, R418, R425, R441).
-/
namespace Sys2Proof.Machine

open Sys2Proof

/-- The DTICK by which the service firmware measures: the copy of HD0. See log 60. -/
def State.now (s : State) : Nat := (s.die 8).dtick

/-! ## Frames (R410, R413, R457) -/

/-- A dropped frame is counted and reported by EVENT 7, which names the lane and the SEQ (R410). -/
def State.dropFrame (s : State) (f : Frame) : State :=
  (s.modFirm fun x => { x with dropped := x.dropped + 1 }).sendEvent 7 0 0 [BitVec.ofNat 64 f.lane.val, BitVec.ofNat 64 f.seq]

/-- A frame answered REFUSED with a reason in payload bits 7:0. -/
def State.refuse (s : State) (f : Frame) (reason : Nat) : State := s.respond f 1 [BitVec.ofNat 64 reason]

/-- The frame kinds that the package serves as it stands (R457, R460, R462, R470): every kind from reduced service on; before
it and in the failed state those of the boot ROM. -/
def Firm.serves (x : Firm) (k : FrameKind) : Bool :=
  match x.service with
  | .reduced | .full => true
  | .boot => k == .image || k == .heartbeat || (k == .attest && decide (2 ≤ x.step))
  | .failed _ => k == .heartbeat || (k == .attest && decide (2 ≤ x.step))

/-- Act on a frame of a kind: dropped when R410 drops it, answered REFUSED when the package does not serve it. A frame of
another kind is not this step's. See log 57. -/
def frameOp (k : FrameKind) (f : Frame) (s : State) (body : State → State) : Out :=
  .next (
    if f.kind ≠ some k then s
    else if !f.accepted then s.dropFrame f
    else if s.firm.serves k then body s
    else s.refuse f (if k = .launch then 8 else 0))

/-! ## Cores on a die -/

/-- The cores of contexts. -/
def State.live (s : State) : List Core := s.cores.filter fun c => c.key.ctx ≠ 0

/-- A core holds its place: it is not away, or it is on its way in. -/
def Core.holdsPlace (c : Core) : Bool :=
  match c.res with
  | .away .. => c.resumeAt.isSome
  | _ => true

/-- The monitors of a core's place stay with the place (R362). -/
def State.keepMonitors (s : State) (c : Core) : State :=
  s.modDie c.die fun d =>
    { d with kept := (c.x.val, c.y.val, c.monitors) :: d.kept.filter fun p => !(p.1 == c.x.val && p.2.1 == c.y.val) }

/-- Take cores out of the package. -/
def State.removeCores (s : State) (p : Core → Bool) : State :=
  let s := (s.cores.filter p).foldl State.keepMonitors s
  let gone := p s.core
  { s with core := if gone then Core.reset else s.core,
           others := s.others.filter fun c => !p c && (c.key.ctx != 0 || !gone) }

/-- The cores of a context. -/
def State.coresOf (s : State) (ctx : Nat) : List Core := s.live.filter fun k => k.key.ctx = ctx

/-! ## The end of a context (R37, R413, R418, R425, R441) -/

/-- A unit in a fault queue is withdrawn: its pending record takes ANSWER 3 (R441). -/
def State.withdraw (s : State) (d : Fin 10) (p : Parked) : State :=
  let s := match p.record with
    | some (seq, _) =>
      let a := recordAt (s.sliceOf p.core) seq + 24
      s.firmWrite a 8 (memRead s.mem a 8 / 4 * 4 + 3)
    | none => s
  s.unpark d p

/-- Withdraw every parked unit of a context. -/
def State.withdrawAll (s : State) (ctx : Nat) : State :=
  (List.finRange 10).foldl (fun s d =>
    ((s.die d).faults.filter fun p => p.core.ctx = ctx).foldl (fun s p => s.withdraw d p) s) s

/-- Take a context out of the package, with its cores and what is in flight for it. -/
def State.removeContext (s : State) (ctx : Nat) : State :=
  let s := (s.withdrawAll ctx).removeCores fun c => c.key.ctx == ctx
  let s := { s with
    contexts := s.contexts.filter fun c => c.num ≠ ctx
    flights := s.flights.filter fun f => f.ctx ≠ ctx
    windows := s.windows.filter fun w => w.ctx ≠ ctx
    messages := s.messages.filter fun m => m.ctx ≠ ctx
    episodes := s.episodes.filter fun e => e.ctx ≠ ctx
    submitted := s.submitted.filter fun x => x.1.ctx ≠ ctx }
  (List.finRange 8).foldl (fun s n => s.modSlice n fun x => { x with queue := x.queue.filter fun q => q.team ≠ some ctx }) s

/-- The driver destroys a context: the bindings of its job key end too, when it was the last with that key (R166). One that completes
leaves its bindings. -/
def State.destroyContext (s : State) (ctx : Nat) : State :=
  let key := (s.recordOf ctx).jobKey
  let s := s.removeContext ctx
  if s.contexts.any fun c => c.record.jobKey == key then s
  else { s with handles := s.handles.filter fun h => h.jobKey != key }

/-- A completed predecessor notifies a token: the count of the queued launch falls, or a credit is kept (R418). -/
def State.notify (s : State) (sl : Fin 8) (token : Nat) : State :=
  if token = 0 then s
  else
    let named (q : Queued) : Bool := q.team.isNone && q.record.ltoken == token
    let now := s.now
    s.modSlice sl fun x =>
      if x.queue.any named then { x with queue := mapIf named (fun q => { q with dep := q.dep - 1 }) x.queue }
      else { x with credits := x.credits ++ [(token, now)] }

/-- The VTICK of the issue cycle that a core's latest charge is for, at the end of a cycle of die d: the cores of other dies have
gone on to their next. Of a core that has stopped, what it would be had it run on. -/
def State.reckoned (s : State) (d : Fin 10) (c : Core) : Nat :=
  if c.res == .running then (if c.die = d then c.vi else c.vi - 1) else c.vi + ((s.die c.die).tick - 4 - c.frozenAt)

/-- Every thread of every core of a context has halted, each at its W, in cycles up to lag before the end of a cycle of die d. -/
def State.haltedBy (s : State) (d : Fin 10) (lag : Nat) (c : Context) : Bool :=
  (s.coresOf c.num).all fun k => k.slots.toList.all fun t => t.phase == .vacant && decide (t.start + lag ≤ s.reckoned d k + 4)

/-- Every thread of every core of a context has halted, and the charges of the cycle of the last W are made, at the end of a cycle of a
die that holds some of them: the context leaves the model's state (R37). See log 36. -/
def State.contextDone (s : State) (d : Fin 10) (c : Context) : Bool :=
  (s.coresOf c.num).any (·.die == d) && s.haltedBy d 4 c

/-- A context completes: EVENT 1, its successors are notified, and it leaves (R37, R418). See log 74. -/
def State.completeContext (s : State) (c : Context) : State :=
  let sl : Fin 8 := Fin.ofNat 8 c.record.slice
  let s := s.sendEvent 1 c.num 0 []
  ((s.notify sl c.record.notify0).notify sl c.record.notify1).removeContext c.num

/-- The engine of a context has requests left. -/
def State.engineBusy (s : State) (c : Context) : Bool := (s.coresOf c.num).any fun k => !k.fifo.isEmpty

/-- The ranks of the other packages of a context's team. -/
def Context.partners (c : Context) : List Nat := (List.range (c.record.npkg + 1)).filter (· ≠ c.record.pkgRank)

/-- Every thread of the team on other packages has halted (R37). -/
def Context.partnersDone (c : Context) : Bool := c.partners.all c.heard.contains

/-- A context has ended by the end of the latest cycle of die d, while the model still makes the charges of its last cycles (R37; log 36). -/
def State.hasEnded (s : State) (d : Fin 10) (c : Context) : Bool := s.haltedBy d 1 c && !s.engineBusy c && c.partnersDone

/-- A context whose threads have all halted ends: as its driver's destroy asks when one has come (R425), else by completing. -/
def State.finishContext (s : State) (c : Context) : State := if c.doomed then s.destroyContext c.num else s.completeContext c

/-- The team's threads here have all halted: the packages that hold other parts of it are told, once (log 74). -/
def State.tellPartners (s : State) (c : Context) : State :=
  if c.told then s
  else
    let r := c.record
    let per := r.m * r.n * r.d
    let notice (p : Nat) : Nat × FabricItem := (Config.packageOfRank r.jobKey p, .halted r.jobKey r.pkgRank ⟨c.num, p * per⟩)
    { s with fabricOut := s.fabricOut ++ c.partners.map notice }.modCtx c.num fun x => { x with told := true }

/-- Contexts whose threads have all halted complete: where the team spans packages, once those of the other packages have (R37). While
their engines still move requests the instant is free (log 27, log 74). -/
def State.completeContexts (s : State) (d : Fin 10) : State :=
  (s.contexts.filter (s.contextDone d)).foldl (fun s c =>
    let s := s.tellPartners c
    if !c.partnersDone then s
    else if s.engineBusy c then
      let (n, s) := s.pick 2
      if n = 0 then s.finishContext c else s
    else s.finishContext c) s

/-- DESTROY, RESET: the context ends wherever it stands; while its team is freezing it ends once the team is quiesced (R425). -/
def State.endContext (s : State) (ctx : Nat) : State :=
  match s.findCtx ctx with
  | none => s
  | some c => if c.state = .freezing then s.modCtx ctx fun c => { c with doomed := true } else s.destroyContext ctx

end Sys2Proof.Machine
end

