-- ==== Sys2Proof/Machine/Sha3.lean ====
section
/-!
DEFINITION. SHAKE256, which R451, R455, R459, R460 and R462 name and do not define: FIPS 202 (log 25).
-/
namespace Sys2Proof.Machine

open Sys2Proof

/-- A list turned left by n places. -/
def turn (n : Nat) (l : List Word) : List Word := l.drop n ++ l.take n

def planeXor (a b : List Word) : List Word := List.zipWith (· ^^^ ·) a b

/-- The walk over the 24 lanes beside the origin: each lane's place (x, y) with the offset (t + 1)(t + 2)/2 by which it turns. -/
def walk : Nat → Nat → Nat → Nat → List ((Nat × Nat) × Nat)
  | 0, _, _, _ => []
  | n + 1, t, x, y => ((x, y), (t + 1) * (t + 2) / 2 % 64) :: walk n (t + 1) y ((2 * x + 3 * y) % 5)

/-- By how much a lane turns. -/
def laneTurn (x y : Nat) : Nat := ((walk 24 0 1 0).lookup (x, y)).getD 0

/-- The register that yields the bits of the round constants, after n steps from 1. -/
def feedback : Nat → Nat
  | 0 => 1
  | n + 1 =>
    let r := 2 * feedback n
    if r < 256 then r else (r - 256) ^^^ 0x71

/-- The constant of round i: its bits stand at 2^j − 1. -/
def roundWord (i : Nat) : Word :=
  BitVec.ofNat 64 ((List.range 7).foldl (fun w j => if (feedback (7 * i + j)).testBit 0 then w + 2 ^ (2 ^ j - 1) else w) 0)

/-- One round on the five planes: every lane takes the parities of the columns at its sides, the lanes turn and change places, each
plane is mixed along its row, and the origin takes the round's constant. -/
def keccakRound (planes : List (List Word)) (i : Nat) : List (List Word) :=
  let parity := planes.foldl planeXor (List.replicate 5 0)
  let side := planeXor (turn 4 parity) ((turn 1 parity).map fun w => w.rotateLeft 1)
  let mixed := planes.map (planeXor side)
  let moved := (List.range 5).map fun y => (List.range 5).map fun x =>
    ((mixed.getD x []).getD ((x + 3 * y) % 5) 0).rotateLeft (laneTurn ((x + 3 * y) % 5) x)
  let rows := moved.map fun p => planeXor p (List.zipWith (fun b c => ~~~b &&& c) (turn 1 p) (turn 2 p))
  rows.modifyHead fun p => p.modifyHead (· ^^^ roundWord i)

/-- The permutation: 24 rounds. -/
def keccak (planes : List (List Word)) : List (List Word) := (List.range 24).foldl keccakRound planes

/-- A lane's eight bytes, lowest first. -/
def laneBytes (w : Word) : List Byte := (List.range 8).map fun i => BitVec.ofNat 8 (w.toNat / 2 ^ (8 * i))

/-- A lane from its bytes. -/
def laneOf (bs : List Byte) : Word := BitVec.ofNat 64 (bs.foldr (fun b n => b.toNat + 256 * n) 0)

/-- n lanes from bytes. -/
def lanesOf : Nat → List Byte → List Word
  | 0, _ => []
  | n + 1, bs => laneOf (bs.take 8) :: lanesOf n (bs.drop 8)

/-- A block of 136 bytes enters the first 17 lanes. -/
def enter (planes : List (List Word)) (blk : List Byte) : List (List Word) :=
  let w := lanesOf 17 blk ++ List.replicate 8 0
  (planes.zipIdx).map fun p => planeXor p.1 (w.drop (5 * p.2))

/-- Absorb n blocks. -/
def absorb : Nat → List Byte → List (List Word) → List (List Word)
  | 0, _, a => a
  | n + 1, bs, a => absorb n (bs.drop 136) (keccak (enter a bs))

/-- SHAKE256 with at most 136 bytes of output. -/
def shake256 (msg : List Byte) (out : Nat) : List Byte :=
  let pad := 136 - msg.length % 136
  let last : List Byte := if pad = 1 then [0x9F] else 0x1F :: (List.replicate (pad - 2) 0 ++ [0x80])
  let a := absorb (msg.length / 136 + 1) (msg ++ last) (List.replicate 5 (List.replicate 5 0))
  ((a.flatMap id).flatMap laneBytes).take out

/-! ## Keys (R461) -/

/-- A secret of 57 bytes derived from the fused device secret with an ASCII label. -/
def derived (label : List Byte) : List Byte := shake256 (Config.fusedSecret.toList ++ label) 57

/-- The store key: label "PELIZ-STORE". -/
def storeKey : List Byte := derived [0x50, 0x45, 0x4C, 0x49, 0x5A, 0x2D, 0x53, 0x54, 0x4F, 0x52, 0x45]

/-- The identity key's secret: label "PELIZ-ID". -/
def identitySecret : List Byte := derived [0x50, 0x45, 0x4C, 0x49, 0x5A, 0x2D, 0x49, 0x44]

/-- IDPUB, 57 bytes. -/
def identityPublic : List Byte := (Config.ed448Public identitySecret).toList

/-- The signature under the identity key, 114 bytes. -/
def identitySign (m : List Byte) : List Byte := (Config.ed448Sign identitySecret m).toList

end Sys2Proof.Machine
end

