-- ==== Sys2Proof/Machine/Launch.lean ====
section
/-!
DEFINITION. Launch records: their layout, the firmware's checks, the queues and the credits (R398, R401 to R403, R415 to
R418, R422, R445).
-/
namespace Sys2Proof.Machine

open Sys2Proof

/-! ## Reading memory for the firmware -/

/-- Bytes of a slice's physical memory; none where a granule is poisoned. -/
def State.readPhys (s : State) (a n : Nat) : Option (List Byte) :=
  if (poisonIn s.memPoison a n).isEmpty then some (memBytes s.mem a n) else none

/-- n bytes of an address space, page by page; none where a walk faults or a granule is poisoned. -/
def State.readVirt (s : State) (sl : Fin 8) (asid : Nat) (diag : Bool) : Nat → Nat → Nat → Option (List Byte)
  | 0, _, n => if n = 0 then some [] else none
  | k + 1, va, n =>
    if n = 0 then some []
    else
      let m := Nat.min n (2 ^ 16 - va % 2 ^ 16)
      match s.walk sl asid va false diag with
      | .fault .. => none
      | .leaf pa _ _ _ =>
        match s.readPhys pa m, s.readVirt sl asid diag k (va + m) (n - m) with
        | some bs, some rest => some (bs ++ rest)
        | _, _ => none

/-- n bytes of an address space. -/
def State.readSpace (s : State) (sl : Fin 8) (asid : Nat) (diag : Bool) (va n : Nat) : Option (List Byte) :=
  s.readVirt sl asid diag (n / 2 ^ 16 + 2) va n

/-! ## The linked image (R398, R401 to R403) -/

/-- The fields of an image header that a launch uses (Table 21-2). -/
structure ImageHeader where
  ncode : Nat
  ndata : Nat
  nsym : Nat
  nfix : Nat
  tmpl : Nat
  deriving DecidableEq, Repr

/-- A header that R398 gives a linked image; one with TMPL above 1 is none (log 56). -/
def imageHeader (bs : List Byte) : Option ImageHeader :=
  let h := ofLeBytes bs
  if natBits h 511 480 == 0x56424F01 && natBits h 479 464 == 1 && natBits h 463 448 == 1 && natBits h 351 320 == 0
      && decide (natBits h 287 256 ≤ 1) && natBits h 255 0 == 0 then
    some ⟨natBits h 447 416, natBits h 415 384, natBits h 383 352, natBits h 319 288, natBits h 287 256⟩
  else none

/-- Offsets of the parts of an image. -/
def ImageHeader.codeAt (h : ImageHeader) : Nat := 64 + 256 * h.tmpl
def ImageHeader.dataAt (h : ImageHeader) : Nat := h.codeAt + 32 * h.ncode
def ImageHeader.fixAt (h : ImageHeader) : Nat := h.dataAt + h.ndata + 80 * h.nsym

/-- Eight segment values of 16 bytes each. -/
def segmentsOf (bs : List Byte) : Vector Quad 8 :=
  Vector.ofFn fun i => BitVec.ofNat 128 (ofLeBytes ((bs.drop (16 * i.val)).take 16))

/-! ## The record (R415) -/

/-- Bits of a word of a record. -/
def recordBits (ws : List Word) (w hi lo : Nat) : Nat := bitsNat (ws.getD w 0) hi lo

/-- The RSVD bits of Table 23-4 are 0. -/
def recordRsvdOk (ws : List Word) : Bool :=
  let z (w hi lo : Nat) : Bool := recordBits ws w hi lo == 0
  z 1 63 52 && z 2 63 52 && z 5 37 32 && z 5 9 8 && z 7 31 24 && z 8 39 28 && z 8 15 0
  && [11, 12, 13, 14, 15].all (fun w => z w 63 0)
  && (List.range 8).all fun t => z (9 + t / 4) (16 * (t % 4) + 15) (16 * (t % 4) + 12)

/-- ENTRYt of a record. -/
def recordEntry (ws : List Word) (t : Nat) : Nat := recordBits ws (9 + t / 4) (16 * (t % 4) + 11) (16 * (t % 4))

/-- Reasons 5 and 6 of Table 23-5, and what the image gives when neither holds: segment values, code and data. See log 59. -/
def State.readImage (s : State) (sl : Fin 8) (asid : Nat) (diag : Bool) (imgVa segVa spb rect : Nat) :
    Except Nat (Vector Quad 8 × List Byte × List Byte) :=
  let rd (va n : Nat) : Option (List Byte) := s.readSpace sl asid diag va n
  match (if imgVa % 64 = 0 then (rd imgVa 64).bind imageHeader else none) with
  | none => .error 5
  | some h =>
    if 4096 < h.ncode then .error 5
    else match rd (imgVa + h.codeAt) (32 * h.ncode), rd (imgVa + h.dataAt) h.ndata with
      | some code, some data =>
        let segs := if segVa = 0 then (if h.tmpl = 1 then rd (imgVa + 64 + 64) 128 else none)
          else if segVa % 16 = 0 then rd segVa 128 else none
        match segs.map segmentsOf, rd (imgVa + h.fixAt) (16 * h.nfix) with
        | some g, some fix =>
          let written := (List.range h.nfix).all fun i => Config.fixupWritten data (ofLeBytes ((fix.drop (16 * i)).take 16))
          if g.toList.all (fun q => segOk q spb rect) && written then .ok (g, code, data.take spb) else .error 6
        | _, _ => .error 6
      | _, _ => .error 5

/-- A range of an address space is read: its bytes, and what its walks read, keep their values (R119). -/
def State.noteVirt (s : State) (sl : Fin 8) (asid : Nat) (diag : Bool) : Nat → Nat → Nat → State
  | 0, _, _ => s
  | k + 1, va, n =>
    if n = 0 then s
    else
      let m := Nat.min n (2 ^ 16 - va % 2 ^ 16)
      let u := s.noteWalk sl asid va
      match s.walk sl asid va false diag with
      | .fault .. => u
      | .leaf pa _ _ _ => (u.noteRead 0 pa m).noteVirt sl asid diag k (va + m) (n - m)

/-- The check of a record reads its image and its segment values (R398, R416). -/
def State.noteImage (s : State) (sl : Fin 8) (asid : Nat) (diag : Bool) (imgVa segVa : Nat) : State :=
  let note (s : State) (va n : Nat) : State := s.noteVirt sl asid diag (n / 2 ^ 16 + 2) va n
  let n := match (s.readSpace sl asid diag imgVa 64).bind imageHeader with
    | some h => h.fixAt + 16 * h.nfix
    | none => 64
  if s.cores.all (·.fifo.isEmpty) then s else note (note s imgVa n) segVa (if segVa = 0 then 0 else 128)

/-- A token is queued in a slice. -/
def Slice.queued (x : Slice) (token : Nat) : Bool := x.queue.any fun q => q.team.isNone && q.record.ltoken == token

/-- Check a record (R416, R445): the lowest reason whose condition holds, or the record. A child launch that was pushed before its
slice stopped is queued (R456). parent is the pushing core's context
for a child launch, with the QPUSH's PRIO (R422). See log 56. -/
def State.checkRecord (s : State) (frameSlice : Nat) (ws : List Word) (parent : Option (Record × Nat)) :
    Except Nat Record :=
  let b := recordBits ws
  let prio := match parent with | some p => p.2 | none => b 5 47 44
  let slice := match parent with | some p => p.1.slice | none => b 5 43 41
  let asid := match parent with | some p => p.1.asid | none => b 5 63 48
  let key := match parent with | some p => p.1.jobKey | none => ws.getD 0 0
  let seed := match parent with | some p => p.1.seed | none => ws.getD 4 0
  let sl : Fin 8 := Fin.ofNat 8 slice
  let x := s.slice sl
  let part := ws.getD 3 0
  let m := b 5 31 27
  let n := b 5 26 22
  let d := b 5 21 18
  let dieMask := b 5 17 10
  let mask := b 5 7 0
  let diag := b 5 39 39 == 1
  let npkg := b 6 51 40
  let ltoken := b 7 55 32
  let reduced := s.firm.service == .reduced
  let popc := ((List.range 8).filter fun i => dieMask.testBit i).length
  if !recordRsvdOk ws || decide (8 ≤ prio) || slice != frameSlice || decide (6 ≤ b 6 39 37) then .error 1
  else if !x.hasAsid asid then .error 2
  else if !partOk part then .error 3
  else if !(decide (1 ≤ m) && decide (m ≤ 16) && decide (1 ≤ n) && decide (n ≤ 16) && decide (1 ≤ d) && decide (d ≤ 8))
      || (dieMask != 0 && (popc != d || (List.range 8).any fun i => dieMask.testBit i && !x.dieMask.getLsbD i))
      || (diag && !(decide (m ≤ 2) && decide (n ≤ 4) && d == 1 && dieMask == 0)) then .error 4
  else match s.readImage sl asid diag (b 1 51 0) (b 2 51 0) (partSPB part) (m * n) with
    | .error r => .error r
    | .ok (segs, code, data) =>
      if mask = 0 || ((List.range 8).any fun t => !mask.testBit t && recordEntry ws t != 0)
          || (b 5 38 38 == 1 && !mask.testBit 7) then .error 7
      else if diag != reduced || (diag && parent.isSome) then .error 8
      else if npkg != 0 && (!s.firm.plock || parent.isSome) then .error 9
      else if ltoken = 0 || x.queued ltoken || decide (256 ≤ x.queue.length) then .error 10
      else if x.dieMask = 0 || (x.stopped && parent.isNone) then .error 11
      else .ok
        { jobKey := key, imgVa := b 1 51 0, segVa := b 2 51 0, part := part, seed := seed, asid := asid, prio := prio,
          slice := slice, elastic := b 5 40 40 == 1, diag := diag, chan := b 5 38 38 == 1, m := m, n := n, d := d,
          dieMask := dieMask, mask := BitVec.ofNat 8 mask, pkgRank := b 6 63 52, npkg := npkg,
          rm := BitVec.ofNat 3 (b 6 39 37), en := BitVec.ofNat 5 (b 6 36 32), wireto := BitVec.ofNat 32 (b 6 31 0),
          depCnt := b 7 63 56, ltoken := ltoken, notify0 := b 7 23 0, notify1 := b 8 63 40,
          tvec := BitVec.ofNat 12 (b 8 27 16), entries := Vector.ofFn fun t => BitVec.ofNat 12 (recordEntry ws t.val),
          segs := segs, code := code, data := data }

/-! ## Queues (R417, R418) -/

/-- 1 s and 100 ms on DTICK (R156). -/
def dticksPerS : Nat := 1000 * dticksPerMs
def agingStep : Nat := 100 * dticksPerMs

/-- The effective priority of a queued launch (R417). -/
def Queued.effective (q : Queued) (now : Nat) : Nat := Nat.min 7 (q.record.prio + (now - q.since) / agingStep)

/-- The order in which the placer examines: effective priority, then arrival. -/
def Queued.before (now : Nat) (a b : Queued) : Bool :=
  a.effective now > b.effective now || (a.effective now == b.effective now && decide (a.arrival < b.arrival))

/-- A record enters its slice's queue: the credits of its token are applied (R418). -/
def State.enqueue (s : State) (r : Record) (o : Origin) : State :=
  let now := s.now
  let n := s.arrivals
  let s := s.modSlice (Fin.ofNat 8 r.slice) fun x =>
    let mine (c : Nat × Nat) : Bool := c.1 == r.ltoken
    { x with queue := x.queue ++ [⟨r, o, n, now, r.depCnt - (x.credits.filter mine).length, none⟩],
             credits := x.credits.filter fun c => !mine c }
  { s with arrivals := n + 1 }

/-- LAUNCH: the record is checked on arrival, and queued or refused; the response comes when it is placed (R416, R420). -/
def execLaunch (f : Frame) (s : State) : Out :=
  frameOp .launch f s fun s =>
    match s.checkRecord f.slice f.payload none with
    | .error r => s.refuse f r
    | .ok r => s.enqueue r (.frame f.lane f.seq)

/-- A credit is discarded 1 s after it came; a stopped slice's credits keep their lifetimes (R418, R453). -/
def execCreditExpiry (slice : Fin 8) (s : State) : Out :=
  let now := s.now
  .next (if (s.slice slice).stopped then s
    else s.modSlice slice fun x => { x with credits := x.credits.filter fun c => decide (now < c.2 + dticksPerS) })

/-! ## Child launches (R344, R422) -/

/-- A channel response (Table 15-5). -/
def channelWord (status data : Nat) : Word := BitVec.ofNat 64 (2 ^ 63 + status * 2 ^ 60 + data % 2 ^ 60)

/-- The response to a push becomes known. -/
def State.answerPush (s : State) (k : CoreKey) (id : Nat) (w : Word) : State :=
  s.modCore k fun c => { c with asked := c.asked.map fun x => if x.1 = id then (x.1, x.2.1, some w) else x }

/-- A launch leaves its queue unplaced: a child's push is answered REFUSED all the same, since every push has its response (R343); the
reason, for which Table 23-5 has no code, is free (log 57). -/
def State.dropLaunch (s : State) (o : Origin) : State :=
  match o with
  | .frame .. => s
  | .child k id =>
    let (r, s) := s.pick 256
    s.answerPush k id (channelWord 1 r)

/-- CANCEL: a queued launch that has not been placed leaves the queue (R413, R425). -/
def execCancel (f : Frame) (s : State) : Out :=
  frameOp .cancel f s fun s =>
    let it (q : Queued) : Bool := q.team.isNone && q.record.ltoken == f.operand 1
    let gone := (s.slice f.sliceNo).queue.filter it
    if gone.isEmpty then s.refuse f 0
    else
      let s := s.modSlice f.sliceNo fun x => { x with queue := x.queue.filter fun q => !it q }
      (gone.foldl (fun s q => s.dropLaunch q.origin) s).respond f 0 []

/-- The firmware checks one pushed record: queued, or answered REFUSED with the reason. -/
def State.checkPush (s : State) (x : CoreKey × Nat × List Byte × Nat) : State :=
  let r := s.recordOf x.1.ctx
  let ws := (List.range 16).map fun i => BitVec.ofNat 64 (ofLeBytes ((x.2.2.1.drop (8 * i)).take 8))
  let s := s.noteImage (s.sliceOf x.1) r.asid false (recordBits ws 1 51 0) (recordBits ws 2 51 0)
  match s.checkRecord r.slice ws (some (r, x.2.2.2)) with
  | .error e => s.answerPush x.1 x.2.1 (channelWord 1 e)
  | .ok rec' => s.enqueue rec' (.child x.1 x.2.1)

/-- The pushed records of a slice, in the order of their pushes. -/
def State.takePushes (s : State) (sl : Fin 8) : State :=
  let mine (x : CoreKey × Nat × List Byte × Nat) : Bool := s.sliceOf x.1 == sl
  let s' := { s with submitted := s.submitted.filter fun x => !mine x }
  (s.submitted.filter mine).foldl State.checkPush s'

/-- A launch's answer: the context number, to the lane or to the parent's channel (R344, R420). -/
def State.answerLaunch (s : State) (slice : Nat) (o : Origin) (num : Nat) : State :=
  match o with
  | .frame lane seq => s.sendFrame lane 0 true slice 0 0 (some seq) 0 [BitVec.ofNat 64 (num % 2 ^ 32)]
  | .child k id => s.answerPush k id (channelWord 0 (num % 2 ^ 32))

end Sys2Proof.Machine
end

