-- ==== Sys2Proof/Machine/Sequencer.lean ====
section
/-!
DEFINITION. The collective sequencer: the check of CARM, the actions of timetable entries and their ends; and the posting of
channel responses (R169 to R176, R344, R347, R348).
-/
namespace Sys2Proof.Machine

open Sys2Proof

/-! ## The check of CARM (R169, R347) -/

/-- The entry's own conditions of R169; prev is the WT of the entry before. SR and DYN name no mode of a timetable. -/
def entryOk (e prev p spb : Nat) : Bool :=
  decide (1 ≤ teKind e) && decide (teKind e ≤ 3) && decide (teOp e < 6) && decide (teRnd e < 5) && decide (e % 2 ^ 38 = 0)
  && decide (tePeer e < p) && decide (teLen e ≤ 512) && teLen e % 8 == 0 && teLoff e % 8 == 0
  && decide (teLoff e + teLen e ≤ spb) && decide (prev ≤ teWt e)

/-- The first of n entries, from entry i, that fails: its offset. -/
def Core.badEntry (c : Core) (a p spb : Nat) : Nat → Nat → Nat → Option Nat
  | 0, _, _ => none
  | n + 1, i, prev =>
    let e := c.entry a i
    let o := a + 16 + 16 * i
    if o + 16 ≤ spb && entryOk e prev p spb then c.badEntry a p spb n (i + 1) (teWt e) else some o

/-- The offset that a rejection reports; none when every condition of R169 holds. A BOOFF that Table 7-1 does not allow, one that is
no multiple of 16, is refused with the header's offset (log 93). -/
def State.tableFault (s : State) (c : Core) (a : Nat) : Option Nat :=
  let h := c.header a
  let r := s.recordOf c.key.ctx
  let spb := partSPB r.part
  let bound := match s.handles.find? fun x => x.handle.toNat = thHandle h with
    | some x => x.jobKey == r.jobKey && x.ranks.contains c.key.lidx
    | none => false
  if !bound || spb < thBooff h + 16 || thBooff h % 16 != 0 then some a
  else c.badEntry a (s.ranksOf (thHandle h)).length spb (thNent h) 0 0

/-- Forget a timetable's place. -/
def State.freeTable (s : State) (k : CoreKey) (hdr : Nat) : State :=
  s.modCore k fun c => { c with tables := c.tables.filter fun t => t.hdr ≠ hdr }

/-- The check ends with ARMED or REJECTED. Of a timetable that was written during its check the outcome is free, and so is the
entry that a rejection names (R347, log 4). -/
def execCarmCheckComplete (c : CoreKey) (hdr : Nat) (s : State) : Out :=
  .next (match s.findCore c with
    | none => s
    | some k =>
      match k.tables.find? fun t => t.hdr = hdr && t.checking.isSome with
      | none => s
      | some t =>
        let h := k.header hdr
        let s := s.watchArrival c true false hdr (16 + 16 * thNent h)
        let (j, s) := if t.touched then s.pick (3 + thNent h) else (0, s)
        let fault := if j = 0 then s.tableFault k hdr else if j = 1 then none else some (hdr + 16 * (j - 2))
        match fault with
        | none =>
          (s.modCore c fun x => { x with tables := mapIf (fun t => t.hdr = hdr) (fun t => { t with checking := none }) x.tables
            }).seqWrite c hdr 16 (thWithState h 1)
        | some o => ((s.seqWrite c hdr 16 (thWithState h 3)).tablePost c hdr 1 o).freeTable c hdr)

/-! ## Entries (R170, Table 7-3) -/

/-- The logical index of a rank of a timetable's group. -/
def State.peerOf (s : State) (h e : Nat) : Nat := (s.ranksOf (thHandle h)).getD (tePeer e) 0

/-- The guard and the flight to a peer (R161, R163, R170). Across packages the flight is that of link training, to the peer's
package. See log 54. -/
def State.guardTo (s : State) (c : Core) (peer : Nat) : Nat × Nat :=
  let r := s.recordOf c.key.ctx
  if !r.here peer then
    let f := (s.firm.flights.find? fun x => x.1 = r.packageIndex peer).map fun x => x.2.toNat
    (96, f.getD 0)
  else if r.rankOf peer = r.rankOf c.key.lidx then (8, 16)
  else (24, 16 + 40 * ((dieRoute c.die.val (s.dieOf c.key.ctx peer)).length - 1))

/-- A run that needs no transfer: a group of one, or every LEN 0 (R175). What a group of one does with entries of another LEN is the model's
(log 107). -/
def State.emptyRun (s : State) (c : Core) (hdr : Nat) : Bool :=
  let h := c.header hdr
  (s.ranksOf (thHandle h)).length == 1 || (List.range (thNent h)).all fun i => teLen (c.entry hdr i) == 0

/-- A timetable that runs: STATE is RUNNING still. -/
def Core.running (c : Core) (hdr : Nat) : Option Timetable :=
  if thState (c.header hdr) = 2 then c.tables.find? fun t => t.hdr = hdr && t.running else none

/-- The count that a run is measured on. -/
def State.runCount (s : State) (c : Core) (t : Timetable) : Nat :=
  if t.onDtick then (s.die c.die).dtick else (s.die c.die).tick

/-- The next entry of a run is due. -/
def State.entryDue (s : State) (c : Core) (t : Timetable) : Bool :=
  let e := c.entry t.hdr t.entry
  let (g, dw) := s.guardTo c (s.peerOf (c.header t.hdr) e)
  s.emptyRun c t.hdr || (if teKind e = 1 then decide (t.base + teWt e ≤ s.runCount c t + dw)
    else decide (t.base + teWt e + g ≤ s.runCount c t))

/-- Change a running timetable. -/
def State.modTable (s : State) (k : CoreKey) (hdr : Nat) (f : Timetable → Timetable) : State :=
  s.modCore k fun c => { c with tables := mapIf (fun t => t.hdr = hdr) f c.tables }

/-- The header's object takes one arrival, or ERROR with an offset. -/
def State.tableCount (s : State) (k : CoreKey) (h : Nat) : State :=
  match s.findCore k with
  | none => s
  | some c => (objectWrites c.sp (thBooff h) 0 (-1)).foldl (fun s w => s.seqWrite k w.1 w.2.1 w.2.2) s

/-- STOPPED and the message with STATUS 1; the place is free. -/
def State.haltRun (s : State) (k : CoreKey) (hdr h off : Nat) : State :=
  ((s.seqWrite k hdr 16 (thWithState h 4)).tablePost k hdr 1 off).freeTable k hdr

/-- A run stops at a missing word: STOPPED, the object's ERROR with the entry's offset whatever CMODE holds, and the message
(R172). -/
def State.stopRun (s : State) (k : CoreKey) (hdr off : Nat) : State :=
  match s.findCore k with
  | none => s
  | some c =>
    let o := thBooff (c.header hdr)
    let s := s.padChange .other k o 16 (markedObject (memRead c.sp o 16) 1 off)
    s.haltRun k hdr (c.header hdr) off

/-- The entries take a LOFF moved on by STRIDE, each as the sequencer's write. -/
def State.restride (s : State) (k : CoreKey) (hdr stride : Nat) : Nat → Nat → State
  | 0, _ => s
  | n + 1, i =>
    match s.findCore k with
    | none => s
    | some c =>
      let e := c.entry hdr i
      let o := (teLoff e + stride) % 2 ^ 20
      (s.seqWrite k (hdr + 16 + 16 * i) 16 (e - teLoff e * 2 ^ 38 + o * 2 ^ 38)).restride k hdr stride n (i + 1)

/-- The first of n entries that breaks LOFF + LEN ≤ SPB: its offset. -/
def Core.outside (c : Core) (hdr spb n : Nat) : Option Nat :=
  ((List.range n).find? fun i => decide (spb < teLoff (c.entry hdr i) + teLen (c.entry hdr i))).map fun i => hdr + 16 + 16 * i

/-- A run completes (R173): the arrival, the message, LOFF and RUNS; then ARMED, or, where an entry breaks the bound, STOPPED with the
offset of the first that does (log 94). -/
def State.completeRun (s : State) (k : CoreKey) (t : Timetable) : State :=
  match s.findCore k with
  | none => s
  | some c =>
    let h := c.header t.hdr
    let s := if thCmode h % 2 = 1 then s.tableCount k h else s
    let s := if thCmode h / 2 = 1 then s.tablePost k t.hdr 0 t.bytes else s
    let s := s.restride k t.hdr (thStride h) (thNent h) 0
    match s.findCore k with
    | none => s
    | some c =>
      let h := c.header t.hdr
      let h' := h - thRuns h * 2 + (thRuns h + 1) % 2 ^ 21 * 2
      match c.outside t.hdr (partSPB (s.recordOf k.ctx).part) (thNent h) with
      | some o => s.haltRun k t.hdr h' o
      | none =>
        (s.seqWrite k t.hdr 16 (thWithState h' 1)).modTable k t.hdr fun t =>
          { t with running := false, entry := 0, taken := 0, bytes := 0 }

/-- An entry has acted: the next one's turn comes, or the run completes. -/
def State.entryDone (s : State) (k : CoreKey) (hdr bytes : Nat) : State :=
  match (s.findCore k).bind fun c => (c.running hdr).map fun t => (c, t) with
  | none => s
  | some (c, t) =>
    let t' := { t with entry := t.entry + 1, taken := 0, bytes := t.bytes + bytes, asleep := false }
    let s := s.modTable k hdr fun _ => t'
    if t'.entry < thNent (c.header hdr) then s else s.completeRun k t'

/-! ### PUT -/

/-- A PUT sends its bytes as LEN/8 window words with the group's handle. -/
def State.putEntry (s : State) (c : Core) (t : Timetable) (e : Nat) : State :=
  let h := c.header t.hdr
  let r := s.recordOf c.key.ctx
  let dst := s.peerOf h e
  let now := (s.die c.die).tick
  let sent := (s.die c.die).dtick
  let s := (s.watchArrival c.key true false (teLoff e) (teLen e)).noteRead (spaceOf c.key) (teLoff e) (teLen e)
  let words := if s.emptyRun c t.hdr then [] else List.range (teLen e / 8)
  (words.foldl (fun s i =>
    s.sendWindow c r dst (BitVec.ofNat 8 (teSeq e)) (BitVec.ofNat 64 (memRead c.sp (teLoff e + 8 * i) 8))
      (some (BitVec.ofNat 24 (thHandle h))) now sent i) s).entryDone c.key t.hdr 0

/-- The sequencer of a core goes on while the core runs: a run that has not ended then keeps its entry, the words taken and its base
(R176). -/
def Core.sequences (c : Core) : Bool := c.res == .running

/-- A core whose sequencer goes on, with a run whose next entry is due and has a KIND that a test picks. -/
def State.dueEntry (s : State) (k : CoreKey) (hdr : Nat) (p : Nat → Bool) : Option (Core × Timetable × Nat) :=
  match s.findCore k with
  | none => none
  | some c =>
    match c.running hdr with
    | none => none
    | some t =>
      let e := c.entry hdr t.entry
      if c.sequences && p (teKind e) && decide (t.entry < thNent (c.header hdr)) && s.entryDue c t then some (c, t, e)
      else none

/-- A run of a timetable with no entry: it completes at once (R175). -/
def State.bareRun (s : State) (k : CoreKey) (hdr : Nat) : Option Timetable :=
  match s.findCore k with
  | none => none
  | some c => if thNent (c.header hdr) = 0 then c.running hdr else none

def execTimetablePut (c : CoreKey) (hdr : Nat) (s : State) : Out :=
  .next (match s.dueEntry c hdr (· == 1) with
    | some (k, t, e) => s.putEntry k t e
    | none =>
      match s.bareRun c hdr with
      | some t => s.completeRun c t
      | none => s)

/-! ### GET and ACC -/

/-- One element of an ACC: own ⊕ peer (R170). -/
def accElement (op fmt : Nat) (mode : Rnd) (a b : Nat) : Nat :=
  let f : Fmt := match fmt with | 0 => .fp64 | 1 => .fp32 | 2 => .i64 | _ => .n64
  match op with
  | 3 => a &&& b
  | 4 => a ||| b
  | 5 => a ^^^ b
  | _ =>
    if f.isFloat then
      let x := fpDecode f a
      let y := fpDecode f b
      if x.isNaN || y.isNaN then canonNaN f
      else match op with
        | 0 => (roundTo f (fpSum [x, y] mode).1 mode 0 false).1
        | 1 => if fpBelow f b a then b else a
        | _ => if fpBelow f a b then b else a
    else match op with
      | 0 => (a + b) % 2 ^ 64
      | 1 => if intVal f a ≤ intVal f b then a else b
      | _ => if intVal f a ≤ intVal f b then b else a

/-- One word of an ACC: two elements for FP32. -/
def accWord (e a b : Nat) : Nat :=
  let mode := (Rnd.ofCode (teRnd e)).getD .rne
  let f := accElement (teOp e) (teFmt e) mode
  if teFmt e = 1 then f (a % 2 ^ 32) (b % 2 ^ 32) + f (a / 2 ^ 32) (b / 2 ^ 32) * 2 ^ 32 else f a b

/-- The landing tag of an entry's words. -/
def State.entryTag (s : State) (h e : Nat) : BitVec 32 := BitVec.ofNat 32 (s.peerOf h e * 256 + teSeq e)

/-- Take the words that are there, in landing order, up to LEN/8; each is written at its place. -/
def State.takeWords (s : State) (k : CoreKey) (hdr e : Nat) : Nat → State
  | 0 => s
  | n + 1 =>
    match (s.findCore k).bind fun c => (c.running hdr).map fun t => (c, t) with
    | none => s
    | some (c, t) =>
      let tag := s.entryTag (c.header hdr) e
      if t.taken < teLen e / 8 then
        match c.landed tag with
        | none => s
        | some v =>
          let a := teLoff e + 8 * t.taken
          let w := if teKind e = 2 then accWord e (memRead c.sp a 8) v.toNat else v.toNat
          let s := if teKind e = 2 then (s.watchArrival k true false a 8).noteRead (spaceOf k) a 8 else s
          let s := (s.modCore k fun c => c.freeLanded tag).padWrite .other k a 8 w
          (s.modTable k hdr fun t => { t with taken := t.taken + 1 }).takeWords k hdr e n
      else s

/-- A GET or ACC acts at its tick, or again when it waits: it takes its words; a missing one stops a counted run and makes an
elastic entry wait (R172). The words before the missing one are taken and written in a counted team too (log 109). -/
def State.takeEntry (s : State) (c : Core) (t : Timetable) (e : Nat) : State :=
  let k := c.key
  if s.emptyRun c t.hdr then s.entryDone k t.hdr 0
  else
    let s := s.takeWords k t.hdr e (teLen e / 8)
    match (s.findCore k).bind (·.running t.hdr) with
    | none => s
    | some u =>
      if u.taken = teLen e / 8 then s.entryDone k t.hdr (teLen e)
      else if (s.recordOf k.ctx).elastic then s.modTable k t.hdr fun u => { u with asleep := true }
      else s.stopRun k t.hdr (t.hdr + 16 + 16 * t.entry)

def execTimetableGet (c : CoreKey) (hdr : Nat) (s : State) : Out :=
  .next (match s.dueEntry c hdr (· == 3) with
    | some (k, t, e) => if t.asleep then s else s.takeEntry k t e
    | none => s)

def execTimetableAcc (c : CoreKey) (hdr : Nat) (s : State) : Out :=
  .next (match s.dueEntry c hdr (· == 2) with
    | some (k, t, e) => if t.asleep then s else s.takeEntry k t e
    | none => s)

/-- A waiting entry has a word to take. -/
def State.wakes (s : State) (c : Core) (t : Timetable) : Bool :=
  t.asleep && (c.landed (s.entryTag (c.header t.hdr) (c.entry t.hdr t.entry))).isSome

def execTimetableEntryWake (c : CoreKey) (hdr : Nat) (s : State) : Out :=
  .next (match s.dueEntry c hdr (fun n => n == 2 || n == 3) with
    | some (k, t, e) => if s.wakes k t then s.takeEntry k t e else s
    | none => s)

/-! ## CHANNEL_RESPONSE_POST (R343, R344) -/

/-- The oldest push of each channel comes first: the first known response with no unanswered push of its channel before it. -/
def firstAnswer : List (Nat × QReg × Option Word) → List QReg → Option (Nat × QReg × Word)
  | [], _ => none
  | (id, q, some w) :: rest, waits => if waits.contains q then firstAnswer rest waits else some (id, q, w)
  | (_, q, none) :: rest, waits => firstAnswer rest (q :: waits)

/-- Post a response to the communication thread's channel, while the core is at its place. -/
def execChannelResponsePost (c : CoreKey) (s : State) : Out :=
  .next (s.modCore c fun k =>
    if k.res == .running then
      match firstAnswer k.asked [] with
      | some (id, q, w) => { k with asked := k.asked.filter (fun x => x.1 ≠ id), resp := k.resp ++ [(q, w)] }
      | none => k
    else k)

end Sys2Proof.Machine
end

