-- ==== Sys2Proof/Machine/Placer.lean ====
section
/-!
DEFINITION. The placer: where rectangles stand, which teams it pre-empts, and how a context starts (R26, R27, R417 to R423).
-/
namespace Sys2Proof.Machine

open Sys2Proof

/-! ## Places (R26, R419, R458, R468) -/

/-! ### Resources (R465) -/

def ridKind (r : BitVec 32) : Nat := bitsNat r 31 28
def ridDie (r : BitVec 32) : Nat := bitsNat r 27 24
def ridIndex (r : BitVec 32) : Nat := bitsNat r 23 0
/-- Column and row of a pool bank's core. -/
def ridCell (r : BitVec 32) : Nat × Nat := (bitsNat r 19 16, bitsNat r 23 20)

/-- The die that holds a resource. -/
def ridDieNo (r : BitVec 32) : Fin 10 := Fin.ofNat 10 (ridDie r)

/-! ### Rectangles -/

/-- Columns and rows of a die's cores: 16×16 on a compute die, 4×4 on a hub die. -/
def dieSpan (d : Nat) : Nat := if d < 8 then 16 else 4

/-- The cells that cores hold on a die, those that a test leaves out aside. -/
def State.heldCells (s : State) (d : Fin 10) (spare : Core → Bool) : List (Nat × Nat) :=
  (s.live.filter fun c => c.die == d && c.holdsPlace && !spare c).map fun c => (c.x.val, c.y.val)

/-- The cells of a rectangle. -/
def rectCells (x0 y0 m n : Nat) : List (Nat × Nat) :=
  (List.range n).flatMap fun j => (List.range m).map fun i => (x0 + i, y0 + j)

/-- The cells of a die that no placement, resume or return may take: those of removed cores, and of cores that a removal waits for
(R468). -/
def Die.barred (x : Die) : List (Nat × Nat) := x.removedCores ++ (x.pendingRemoval.filter fun r => ridKind r == 1).map ridCell

/-- A removal that takes its whole die out of service: of an HBM channel, or of a core that would be a compute die's fifth (R467). -/
def State.dieLeaves (s : State) (r : BitVec 32) : Bool :=
  ridKind r == 2 || (ridKind r == 1 && decide (ridDie r < 8) &&
    decide (4 < (if (s.die (ridDieNo r)).removedCores.contains (ridCell r) then 0 else 1) +
      (s.die (ridDieNo r)).removedCores.length))

/-- A die takes no team: it is out of service, or leaves it as soon as it is free (R467, R468). -/
def State.dieBarred (s : State) (d : Fin 10) : Bool :=
  (s.die d).outOfService || (s.die d).pendingRemoval.any s.dieLeaves

/-- The free position with the lowest south-west y, then x, in service (R419). -/
def State.freeRect (s : State) (d : Fin 10) (m n : Nat) (spare : Core → Bool) : Option (Nat × Nat) :=
  let bad := s.heldCells d spare ++ (s.die d).barred
  let span := dieSpan d.val
  if s.dieBarred d then none
  else ((List.range (span + 1 - n)).flatMap fun y => (List.range (span + 1 - m)).map fun x => (x, y)).find? fun p =>
    (rectCells p.1 p.2 m n).all fun q => !bad.contains q

/-- A hub die offers its service cores: at 1.8 GHz, in reduced service, and then until no DIAG context remains (R458). A DIAG launch that
is still queued then stays so (log 102). -/
def State.offersService (s : State) (d : Fin 10) : Bool :=
  (s.die d).slowClock && (s.firm.service != .full || s.contexts.any fun c => c.record.diag)

/-- The dies that a launch may take, in ascending index: hub dies for DIAG, DIEMASK, or the slice's. -/
def State.diesFor (s : State) (r : Record) : List (Fin 10) :=
  (List.finRange 10).filter fun d =>
    if r.diag then decide (8 ≤ d.val) && s.offersService d
    else decide (d.val < 8) && (if r.dieMask = 0 then (s.slice (Fin.ofNat 8 r.slice)).dieMask.getLsbD d.val
      else r.dieMask.testBit d.val)

/-- Rectangles for a launch: the lowest-indexed dies that fit, D of them (R419). -/
def State.findPlace (s : State) (r : Record) (spare : Core → Bool) : Option (List (Fin 10 × Nat × Nat)) :=
  let fits := (s.diesFor r).filterMap fun d => (s.freeRect d r.m r.n spare).map fun p => (d, p.1, p.2)
  if r.d ≤ fits.length then some (fits.take r.d) else none

/-- Die and cell of a logical index of this package's rectangles. -/
def Record.cellOf (r : Record) (ranks : List (Fin 10 × Nat × Nat)) (lidx : Nat) : Fin 10 × Fin 16 × Fin 16 :=
  match ranks[r.rankOf lidx - r.pkgRank * r.d]? with
  | some (d, x0, y0) => (d, Fin.ofNat 16 (x0 + r.lx lidx), Fin.ofNat 16 (y0 + r.ly lidx))
  | none => (0, 0, 0)

/-- The logical indexes of the team's cores on this package. -/
def Record.members (r : Record) : List Nat := (List.range r.perPackage).map fun i => r.pkgRank * r.perPackage + i

/-! ## A context starts (R27, R401, R421, Table 3-1) -/

/-- The rotation boundary of a die at or after a TICK (R22). -/
def boundaryFrom (tick : Nat) : Nat := (tick + 7) / 8 * 8

/-- A slot of a new context: a thread of the mask stands at its entry. -/
def startThread (r : Record) (t : Fin 8) : Thread :=
  let x := { Thread.reset with
    g := r.segs
    tvec := r.tvec
    seed := r.seed
    wireto := r.wireto
    fpctl := BitVec.ofNat 64 (r.rm.toNat * 2 ^ 29 + r.en.toNat * 2 ^ 16)
    lastrp := r.entries[t.val] }
  if r.mask.getLsbD t.val then { x with phase := .ready, pc := r.entries[t.val] } else x

/-- A core of a new context (R421). -/
def startCore (r : Record) (key : CoreKey) (at' : Fin 10 × Fin 16 × Fin 16) (tick dtick : Nat) : Core :=
  { Core.reset with
    key := key
    die := at'.1
    x := at'.2.1
    y := at'.2.2
    res := .running
    tick0 := tick
    dtick0 := dtick
    slots := Vector.ofFn fun t => startThread r t
    sp := memPut [] 0 r.data
    istore := memPut [] 0 r.code }

/-- A place's monitors are the context's now. -/
def State.clearKept (s : State) (c : Core) : State :=
  s.modDie c.die fun d => { d with kept := d.kept.filter fun p => !(p.1 == c.x.val && p.2.1 == c.y.val) }

/-- A boundary on each die, at least lead ticks ahead: on the first of the dies given the next one, and on each other die the one
that lies nearest to it in time (R27, R424, R451; log 29). -/
def State.boundaries (s : State) (dies : List (Fin 10)) (lead : Nat) (d : Fin 10) : Nat :=
  let ref := (s.die (dies.headD d)).tick
  let first := boundaryFrom (ref + lead)
  if some d = dies.head? then first else ((s.die d).tick + (first - ref) + 4) / 8 * 8

/-- The time at which a die's cycle of a TICK to come begins, its cycles being of nominal length. -/
def State.timeOf (s : State) (d : Fin 10) (tick : Nat) : Nat :=
  (s.die d).edge + (tick - (s.die d).tick - 1) * (million * if (s.die d).slowClock then 2 else 1)

/-- The boundaries of some dies lie together: whatever the dies' rates of R18 make of the ticks between, at most lead and 16 of them,
they come within 2 ticks of each other (R27, R424, R451). The rotations of two dies drift through every phase, so a moment comes at
which they do. See log 29. -/
def State.together (s : State) (dies : List (Fin 10)) (lead : Nat) : Bool :=
  let times := dies.map fun d => s.timeOf d (s.boundaries dies lead d)
  times.all fun x => times.all fun y => decide (x + 201 * (lead + 16) ≤ y + 2 * million)

/-- The greatest lead of a start or a resume. -/
def startLead : Nat := 8 * (63 + 2)

/-- Create a context on its rectangles; its cores start at boundaries of their dies that lie together (R27). -/
def State.startContext (s : State) (q : Queued) (ranks : List (Fin 10 × Nat × Nat)) : State :=
  let r := q.record
  let num := s.nextCtx
  let (wait, s) := s.pick 64
  let cores := r.members.map fun l =>
    let at' := r.cellOf ranks l
    startCore r ⟨num, l⟩ at' (s.boundaries (ranks.map (·.1)) (8 * (wait + 2)) at'.1) 0
  let c : Context :=
    { num := num, record := r, origin := q.origin, arrival := q.arrival, state := .running, ranks := ranks, victim := [],
      thermal := false, whole := false, frozenSince := 0, doomed := false, heard := [], told := false, digest := shake256 (r.code ++ r.data) 32 }
  let s := { s with others := s.others ++ cores, contexts := s.contexts ++ [c], nextCtx := num + 1 }
  (cores.foldl State.clearKept s).answerLaunch r.slice q.origin num

/-! ## Freezing teams (R50, R53, R176, R423) -/

/-- A core's rotation boundary after the cycle whose E3 work it does, in VTICK. -/
def Core.nextBoundary (c : Core) : Nat := (c.vx / 8 + 1) * 8

/-- A VTICK after every entry of the core's runs: a WT is below 2^16 and a guard below 128; DTICK slews by at most 500 ppm
beside the die's own 100 (R156, R170, R176). -/
def State.tablesDone (s : State) (c : Core) : Nat :=
  (c.tables.filter (·.running)).foldl (fun n t =>
    let left := t.base + 2 ^ 16 + 128 - s.runCount c t
    Nat.max n (c.vx + left + left / 500 + 16)) 0

/-- The freeze boundary of counted teams: a multiple of 8, at least 4,096 above each core's VTICK and after each timetable;
which one is the firmware's choice (R423). -/
def State.freezeVtick (s : State) (ctxs : List Nat) : Nat × State :=
  let mine := s.live.filter fun c => ctxs.contains c.key.ctx
  let low := mine.foldl (fun n c => Nat.max n (Nat.max (c.vx + 4096) (s.tablesDone c))) 0
  let (extra, s) := s.pick (2 ^ 12)
  (((low + 7) / 8 + extra) * 8, s)

/-- The VTICK of a core at a boundary of its die. -/
def State.vtickAt (s : State) (k : Core) (b : Nat) : Nat :=
  let now := (s.die k.die).tick
  if now < k.tick0 then b - k.tick0 else (k.vx + (b - now) + 4) / 8 * 8

/-- The dies on which cores of a team run. -/
def State.runDies (s : State) (ctx : Nat) : List (Fin 10) :=
  ((s.live.filter fun k => k.key.ctx == ctx && k.res == .running).map (·.die)).eraseDups

/-- The lead of the boundaries at which an elastic team frozen whole stops (R423). -/
def stopLead : Nat := 4104

/-- An elastic team frozen whole stops at one boundary on each of its dies, chosen when such lie together; what is in flight for its
cores that are away already stands still from there (R451, R464; log 29). -/
def State.stopElastic (s : State) (ctx : Nat) : State :=
  let dies := s.runDies ctx
  if !s.together dies stopLead then s
  else
    let at' := s.boundaries dies stopLead
    (s.modCtx ctx fun c => { c with whole := true }).modCores (fun k => k.key.ctx == ctx) fun k =>
      if k.res == .running then { k with stopAt := some (s.vtickAt k (at' k.die)) }
      else { k with frozenAt := at' k.die, resumeAt := none }

/-- The boundaries of an elastic team that is to freeze whole are still to be chosen. -/
def Context.stopsLater (c : Context) : Bool := c.state == .freezing && c.record.elastic && !c.whole

/-- The firmware looks again for boundaries at which such a team stops. -/
def State.stopLater (s : State) (ctx : Nat) : State :=
  match s.findCtx ctx with
  | some c => if c.stopsLater then s.stopElastic ctx else s
  | none => s

/-- Freeze a team whole: a counted one at VTICK b, an elastic one at boundaries at least 4,096 ticks away (R423, R451). A team that
is freezing or frozen is left as it is. -/
def State.freezeTeam (s : State) (ctx b : Nat) : State :=
  match s.findCtx ctx with
  | none => s
  | some c =>
    if c.state = .running then
      let s := s.modCtx ctx fun c => { c with state := .freezing, whole := !c.record.elastic }
      if c.record.elastic then s.stopElastic ctx
      else s.modCores (fun k => k.key.ctx == ctx && k.res == .running) fun k => { k with stopAt := some b }
    else s

/-- Freeze one team at a boundary of its own. -/
def State.freezeOne (s : State) (ctx : Nat) : State :=
  let (b, s) := s.freezeVtick [ctx]
  s.freezeTeam ctx b

/-- The placer wants cores of a team: a counted team freezes whole, an elastic one gives up the cores one by one (R419). -/
def State.want (s : State) (ctx : Nat) (cells : List Nat) : State :=
  let s := s.modCtx ctx fun c => { c with victim := cells, state := if c.state = .frozen then .quiesced else c.state }
  if (s.recordOf ctx).elastic then s else s.freezeOne ctx

/-! ## Examining a launch (R419, R422) -/

/-- The cores of a context that lie in rectangles. -/
def State.inRects (s : State) (ctx : Nat) (r : Record) (ranks : List (Fin 10 × Nat × Nat)) : List Nat :=
  (s.live.filter fun c => c.key.ctx == ctx && c.holdsPlace && ranks.any fun p =>
    c.die == p.1 && (rectCells p.2.1 p.2.2 r.m r.n).contains (c.x.val, c.y.val)).map fun c => c.key.lidx

/-- The parent of a child launch. -/
def Origin.parent : Origin → Option Nat
  | .child k _ => some k.ctx
  | .frame _ _ => none

/-- Possible victims of a launch, lowest PRIO first and youngest first within one: neither its parent, nor a child of the team that
is placed again (R422). -/
def State.victims (s : State) (q : Queued) : List Context :=
  let ok (c : Context) : Bool := c.record.slice == q.record.slice && decide (c.record.prio < q.effective s.now)
    && some c.num != q.origin.parent && some c.num != q.team && (q.team.isNone || c.origin.parent != q.team)
    && c.state != .placed && c.state != .resuming
  sortBy (fun a b => a.record.prio < b.record.prio || (a.record.prio == b.record.prio && decide (a.arrival > b.arrival)))
    (s.contexts.filter ok)

/-- The first victims, in order, whose cores let a launch be placed: those taken and the place. See log 61. -/
def State.enough (s : State) (q : Queued) (own : Core → Bool) : List Context → List Context →
    Option (List Context × List (Fin 10 × Nat × Nat))
  | taken, [] => (s.findPlace q.record fun k => own k || taken.any fun c => c.num == k.key.ctx).map fun p => (taken, p)
  | taken, c :: rest =>
    match s.findPlace q.record fun k => own k || taken.any fun c => c.num == k.key.ctx with
    | some p => some (taken, p)
    | none => s.enough q own (taken ++ [c]) rest

/-- A team's own cores count as free for its own return. -/
def Queued.own (q : Queued) (k : Core) : Bool := some k.key.ctx == q.team

/-- Remove an entry from its queue. -/
def State.dequeue (s : State) (q : Queued) : State :=
  s.modSlice (Fin.ofNat 8 q.record.slice) fun x => { x with queue := x.queue.filter fun e => e.arrival ≠ q.arrival || e.team ≠ q.team }

/-- The cores of a frozen team that stand elsewhere than a place has them: they stream first. See log 62. -/
def State.movers (s : State) (ctx : Nat) (ranks : List (Fin 10 × Nat × Nat)) : List Nat :=
  let r := s.recordOf ctx
  (s.live.filter fun k => k.key.ctx == ctx && k.holdsPlace && (k.die, k.x, k.y) != r.cellOf ranks k.key.lidx).map (·.key.lidx)

/-- Change every TICK that a core keeps of its remote accesses. See log 65. -/
def Core.retime (c : Core) (f : Nat → Nat) : Core :=
  { c with
    marks := c.marks.map fun m => { m with f := f m.f }
    fifo := c.fifo.map fun r => { r with marks := r.marks.map fun m => { m with f := f m.f } }
    slots := c.slots.map fun t =>
      { t with fence := t.fence.map fun p => (f p.1, p.2), lastRemote := t.lastRemote.map f } }

/-- Change the TICKs of a core's runs and checks. -/
def Core.moveTables (c : Core) (f : Nat → Nat) : Core :=
  { c with tables := c.tables.map fun t => { t with base := if t.onDtick then t.base else f t.base, checking := t.checking.map f } }

/-- A window word goes on from its sender's place, and to its destination's: its sender's TICKs change (R51, R161). -/
def State.moveWindow (s : State) (f : Nat → Nat → Nat) (w : WindowWord) : WindowWord :=
  match s.findCore ⟨w.ctx, w.sender⟩ with
  | none => w
  | some c =>
    let dst := match s.findCore ⟨w.ctx, w.dst⟩ with
      | some d => d.die.val
      | none => w.route.getLastD 0
    let w := { w with issue := f w.sender w.issue, reached := w.reached.map (f w.sender) }
    if c.die.val = w.srcDie && w.route.getLastD 0 = dst then w
    else { w with srcDie := c.die.val, crossed := w.links, route := [dst], reached := none }

/-- What is in flight for a team: every TICK of a sender's die changes, by the sender's logical index. -/
def State.moveItems (s : State) (ctx : Nat) (f : Nat → Nat → Nat) : State :=
  let dieOf (e : Episode) : Fin 10 := match e.arrivals.head?.bind fun a => s.findCore ⟨ctx, a.lidx⟩ with
    | some c => c.die
    | none => e.die
  { s with
    flights := mapIf (fun x => x.ctx = ctx) (fun x => { x with due := f x.src x.due, issue := f x.src x.issue }) s.flights
    windows := mapIf (fun w => w.ctx = ctx) (s.moveWindow f) s.windows
    episodes := mapIf (fun e => e.ctx = ctx) (fun e =>
      { e with die := dieOf e, arrivals := e.arrivals.map fun a => { a with cycle := f a.lidx a.cycle } }) s.episodes }

/-- What the TICK that a core's times were counted on would read now: its die's; for a core that came with an image, that of the die
that it left, counted on by DTICK. -/
def State.ownTick (s : State) (k : Core) : Nat :=
  match k.res with
  | .away _ l dl true => l + ((s.die k.die).dtick - dl)
  | _ => (s.die k.die).tick

/-- A TICK of a core's old die, at its new one: as far from now as it was. -/
def State.tickAt (s : State) (k : Core) (d : Fin 10) (x : Nat) : Nat := x + (s.die d).tick - s.ownTick k

/-- A core that is away, at its new place: its releases and its held messages go with it to the new die's TICK, of an elastic team its runs'
bases and its checks, and, where the team is not frozen whole, its remote accesses (R53, R92, R139, R176; log 65). -/
def State.atPlace (s : State) (k : Core) (alone : Bool) (p : Fin 10 × Fin 16 × Fin 16) : Core :=
  let f := s.tickAt k p.1
  let k := if alone then k.retime f else k
  let k := if (s.recordOf k.key.ctx).elastic then k.moveTables f else k
  { k with
    die := p.1
    x := p.2.1
    y := p.2.2
    res := match k.res with
      | .away d _ dl true => .away d ((s.die p.1).tick - ((s.die p.1).dtick - dl)) dl true
      | r => r
    resumeAt := some 0
    heldMail := k.heldMail.map fun h => { h with cycle := f h.cycle }
    slots := k.slots.map fun t => { t with tampAt := t.tampAt.map fun x => (x.1, f x.2.1, x.2.2) } }

/-- Give a frozen team its place again; the cores that are away will stream in (R26, R419, R424). -/
def State.replace (s : State) (ctx : Nat) (ranks : List (Fin 10 × Nat × Nat)) : State :=
  let r := s.recordOf ctx
  let alone := match s.findCtx ctx with
    | some c => c.record.elastic && !c.whole
    | none => false
  let z := (s.modCtx ctx fun c => { c with ranks := ranks, state := .placed }).modCores
    (fun k => k.key.ctx == ctx && !k.holdsPlace) fun k => s.atPlace k alone (r.cellOf ranks k.key.lidx)
  let f (l x : Nat) : Nat := match s.findCore ⟨ctx, l⟩ with
    | some k => if k.holdsPlace then x else s.tickAt k (r.cellOf ranks l).1 x
    | none => x
  if alone then z.moveItems ctx f else z

/-- Return the cores of an elastic team whose places are free (R53, R92). See log 63. -/
def State.returnCores (s : State) (ctx : Nat) : State :=
  let ready (k : Core) : Bool := k.key.ctx == ctx && !k.holdsPlace && !s.dieBarred k.die
    && !(s.die k.die).barred.contains (k.x.val, k.y.val)
    && !(s.heldCells k.die fun _ => false).contains (k.x.val, k.y.val)
  s.modCores ready fun k => { k with resumeAt := some 0 }

/-- The cores that the return of an elastic team's cores takes from possible victims: none unless every cell that is missing is in
service, and held by a possible victim if at all (R53, R419; log 63). -/
def State.returnVictims (s : State) (q : Queued) (ctx : Nat) : List (Nat × List Nat) :=
  let gone := s.live.filter fun k => k.key.ctx == ctx && !k.holdsPlace
  let cells := gone.map fun k => (k.die, k.x, k.y)
  let holders := s.live.filter fun k => k.holdsPlace && cells.contains (k.die, k.x, k.y)
  let ok := (s.victims q).map (·.num)
  if (gone.all fun k => !s.dieBarred k.die && !(s.die k.die).barred.contains (k.x.val, k.y.val))
      && holders.all fun k => ok.contains k.key.ctx then
    (ok.map fun n => (n, (holders.filter fun k => k.key.ctx == n).map (·.key.lidx))).filter fun w => !w.2.isEmpty
  else []

/-- What the examination of a launch did: it was placed; it waits, for the cores of its victims or for boundaries that lie together;
or nothing. -/
inductive Exam where
  | placed | waits | nothing
  deriving DecidableEq, Repr

/-- An elastic team that still runs on some of its cores. -/
def State.partly (s : State) (ctx : Nat) : Bool :=
  (match s.findCtx ctx with
    | some c => c.record.elastic && c.state == .running
    | none => false) && s.live.any fun k => k.key.ctx == ctx && k.holdsPlace

/-- A launch of several packages, which goes ahead only while PLOCK is 1 (R164). -/
def State.awaitsLock (s : State) (q : Queued) : Bool := q.team.isNone && q.record.npkg != 0 && !s.firm.plock

/-- Examine one entry of a queue. One that waits for PLOCK lets those behind it be examined (log 29). -/
def State.examine (s : State) (q : Queued) : Exam × State :=
  if s.awaitsLock q then (.nothing, s) else
  let place (s : State) (p : List (Fin 10 × Nat × Nat)) : Exam × State :=
    match q.team with
    | none => if s.together (p.map (·.1)) startLead then (.placed, (s.dequeue q).startContext q p) else (.waits, s)
    | some n =>
      let l := s.movers n p
      if l.isEmpty then (.placed, (s.dequeue q).replace n p) else (.waits, s.want n l)
  match (match q.team with | some n => if s.partly n then some n else none | none => none) with
  | some n =>
    let s := s.returnCores n
    if s.live.all fun k => k.key.ctx != n || k.holdsPlace then (.placed, s.dequeue q)
    else match s.returnVictims q n with
      | [] => (.nothing, s)
      | wants => (.waits, wants.foldl (fun s w => s.want w.1 w.2) s)
  | none =>
    match s.findPlace q.record q.own with
    | some p => place s p
    | none =>
      match s.enough q q.own [] (s.victims q) with
      | none => (.nothing, s)
      | some (taken, p) =>
        let wants := taken.filterMap fun c =>
          let l := s.inRects c.num q.record p
          if l.isEmpty then none else some (c.num, l)
        (.waits, wants.foldl (fun s w => s.want w.1 w.2) s)

/-- Examine entries in order until one waits (R419). -/
def State.examineAll (s : State) : List Queued → State
  | [] => s
  | q :: qs =>
    match s.examine q with
    | (.waits, s) => s
    | (_, s) => s.examineAll qs

/-- A victim's cores are still to be freed. -/
def State.victimsPending (s : State) (sl : Fin 8) : Bool :=
  s.contexts.any fun c => c.record.slice == sl.val && !c.victim.isEmpty

/-- The placer of a slice: pushed records are checked, then ready launches are examined (R419). A stopped slice, a thermal hold
and a package without service place nothing (R451, R457, R464). -/
def execPlacerRun (slice : Fin 8) (s : State) : Out :=
  let s := s.takePushes slice
  let now := s.now
  let serving := s.firm.service == .full || s.firm.service == .reduced
  let ready := sortBy (Queued.before now) ((s.slice slice).queue.filter fun q => q.dep == 0)
  .next (if (s.slice slice).stopped || s.firm.thermalHold || !serving || s.victimsPending slice then s
    else s.examineAll ready)

end Sys2Proof.Machine
end

