-- ==== Sys2Proof/Machine/Preempt.lean ====
section
/-!
DEFINITION. Freezes, stream-outs, returns and resumes (R50 to R53, R82, R92, R122, R144, R145, R352, R423 to R425).
-/
namespace Sys2Proof.Machine

open Sys2Proof

/-! ## FREEZE_BOUNDARY (R50, R423 step 1) -/

/-- A core whose boundary has come: the cycle of the boundary is the one that issues now. See log 48. -/
def Core.stops (c : Core) : Bool :=
  c.res == .running && (match c.stopAt with
    | some b => decide (b + 4 ≤ c.vx)
    | none => false)

/-- A core stops at its boundary. Where a run of its counted team was fired since the boundary was chosen, and no core has stopped
yet, the firmware chooses a later one (R176). A run that a core of a later die fires after that is not cut: it goes on at its VTICK after
the resume (log 48). -/
def execFreezeBoundary (c : CoreKey) (s : State) : Out :=
  .next (match s.findCore c with
    | none => s
    | some k =>
      if k.stops then
        let team := s.coresOf c.ctx
        if (team.all fun x => x.res == .running) && team.any s.runsOn then
          let (b, s) := s.freezeVtick [c.ctx]
          s.modCores (fun x => x.key.ctx == c.ctx) fun x => { x with stopAt := some b }
        else
          let tick := (s.die k.die).tick
          let now := s.now
          (s.modCore c fun k => { k with res := .frozen, frozenAt := tick + k.stopAt.getD 0 - k.vx, stopAt := none,
                                         overwritten := [], slots := k.slots.map Thread.endWrites }).modCtx c.ctx
            fun x => { x with frozenSince := now }
      else s)

/-! ## QUIESCE (R144, R423 steps 2 to 4) -/

/-- Step 3 is done on a core: it has stopped, and every request is complete or captured, with no unit of it in a port, and no element and
no multicast unit of it partly written (R143, R144). -/
def State.settled (s : State) (c : Core) : Bool :=
  let images := s.captured c
  c.res != .running && c.fifo.all fun r => r.state == .held || (images.contains r.id && r.admitted.isEmpty && !r.underway)

/-- The images of the requests that are left; a completion that is held for the mailbox stays. -/
def Core.capture (c : Core) : Core := { c with fifo := c.fifo.map fun r => if r.state == .held then r else r.capture }

/-- The VTICK at which a team's first core stands: the freeze VTICK of EVENT 6. -/
def State.freezePoint (s : State) (ctx : Nat) : Nat :=
  match s.live.find? fun c => c.key.ctx = ctx with
  | some c => c.vi
  | none => 0

/-- A team is frozen: EVENT 6 (R423). -/
def State.teamFrozen (s : State) (ctx : Nat) : State :=
  (s.modCtx ctx fun c => { c with state := .frozen }).sendEvent 6 ctx 0 [BitVec.ofNat 64 (s.freezePoint ctx)]

/-- A pre-empted team re-enters its queue with its original arrival; its aging restarts at the freeze (R419). -/
def State.requeue (s : State) (ctx : Nat) : State :=
  match s.findCtx ctx with
  | none => s
  | some c =>
    let sl : Fin 8 := Fin.ofNat 8 c.record.slice
    if (s.slice sl).queue.any fun q => q.team == some ctx then s
    else
      let q : Queued := ⟨c.record, c.origin, c.arrival, c.frozenSince, 0, some ctx⟩
      s.modSlice sl fun x => { x with queue := x.queue ++ [q] }

/-- A frozen team that nothing holds goes on: on its cores, when it has them all, else it waits in its queue for places (R419, R464). -/
def State.giveBack (s : State) (ctx : Nat) : State :=
  if s.live.all fun k => k.key.ctx != ctx || k.holdsPlace then s.modCtx ctx fun x => { x with state := .placed } else s.requeue ctx

/-- The slice of a context takes no part in placement: it is stopped, or stops. -/
def State.sliceHeld (s : State) (c : Context) : Bool := (s.slice (Fin.ofNat 8 c.record.slice)).stopped

/-- Once every core of a freezing team is settled, what is left of its requests is captured; the team is ended, streams out, or is frozen, and
goes on when nothing holds it (R423 to R425). -/
def execQuiesce (ctx : Nat) (s : State) : Out :=
  .next (match s.findCtx ctx with
    | none => s
    | some c =>
      if c.state == .freezing && !c.stopsLater && (s.live.filter fun k => k.key.ctx = ctx).all s.settled then
        let s := (s.withdrawAll ctx).modCores (fun k => k.key.ctx == ctx) Core.capture
        if c.doomed then s.destroyContext ctx
        else if !c.victim.isEmpty then s.modCtx ctx fun c => { c with state := .quiesced }
        else
          let s := s.teamFrozen ctx
          if c.thermal || s.sliceHeld c then s else s.giveBack ctx
      else s)

/-! ## ELASTIC_EVICTION (R53, R419) -/

/-- A wanted core of an elastic team that runs on stops at its next boundary. -/
def execElasticEviction (c : CoreKey) (s : State) : Out :=
  .next (match s.findCtx c.ctx with
    | none => s
    | some x =>
      if x.record.elastic && x.state == .running && x.victim.contains c.lidx then
        s.modCore c fun k => if k.res == .running && k.stopAt.isNone then { k with stopAt := some k.nextBoundary } else k
      else s)

/-- A core whose threads all wait. -/
def Core.idles (c : Core) : Bool :=
  c.res == .running && c.stopAt.isNone && c.slots.toList.any (fun t => t.waitKind.isSome)
    && c.slots.toList.all fun t => t.phase == .vacant || t.waitKind.isSome

/-- The firmware may power-gate a core of an elastic team whose threads all wait: the core is evicted, and returns as R53 has it
(R463; log 103). -/
def State.gate (s : State) (c : CoreKey) : State :=
  match s.findCtx c.ctx, s.findCore c with
  | some x, some k =>
    if x.record.elastic && x.state == .running && k.idles && !x.victim.contains c.lidx then
      s.modCtx c.ctx fun x => { x with victim := x.victim ++ [c.lidx] }
    else s
  | _, _ => s

/-! ## STREAM_OUT (R82, R423 step 5, R424) -/

/-- What the save leaves out: dead registers are zero, and so are the bits of invalid tiles (R82). A vacant slot has no dead register:
its storage is saved whole, as a later SPAWN reads it (R69, Table 11-7; log 86). -/
def Thread.saved (t : Thread) : Thread :=
  let t := if t.phase == .vacant then { t with sdead := 0, vdead := 0 } else t
  { t with s := Vector.ofFn fun i => if t.sdead.getLsbD i.val then 0 else t.s[i.val],
           v := Vector.ofFn fun i => if t.vdead.getLsbD i.val then 0 else t.v[i.val],
           t := t.t.map fun x => if x.valid then x else { x with data := 0, side := 0 } }

/-- A cycle whose charge falls now begins a rotation of the die (R22). -/
def Die.atBoundary (d : Die) : Bool := (d.tick + 4) % 8 == 0

/-- DTICK at the boundary. -/
def Die.boundaryDtick (d : Die) : Nat := d.dhist.getD 4 d.dtick

/-- A multicast of the team has landed a unit at some of its receivers and not yet at this core, or part of an element here: the rest
lands first (R143, R144; log 50). -/
def State.castTo (s : State) (k : Core) : Bool :=
  let rec' := s.recordOf k.key.ctx
  (s.coresOf k.key.ctx).any fun c => c.fifo.any fun r =>
    (r.turn != 0 && ((r.counters c.key rec').drop r.turn).contains k.key)
    || (r.unit != 0 && (match r.target rec' c.key with
      | .sp o _ => o == k.key
      | _ => false))

/-- Steps 2 and 3 of a slice's stop are done: every team of it is quiesced, and every command is done (R451). -/
def State.stopQuiet (s : State) (sl : Fin 8) : Bool :=
  (s.contexts.all fun c => c.record.slice != sl.val || c.state == .frozen || c.state == .quiesced)
  && s.tcb sl offCmdDone == s.tcb sl offCmdTail && !(s.slice sl).shoot

/-- A slice has no trace session left: step 4. -/
def State.untraced (s : State) (sl : Fin 8) : Bool := s.sessions.all fun x => x.slice != sl.val

/-- A stopping slice streams its cores in step 5, after steps 2 to 4 (R451). -/
def State.streamStep (s : State) (sl : Fin 8) : Bool := (s.slice sl).stop.isNone || (s.stopQuiet sl && s.untraced sl)

/-- A wanted core that has finished what R423 asks of it; in a stopping slice, once the stop has come to its step 5 (R451). -/
def State.streams (s : State) (c : Context) (k : Core) : Bool :=
  k.res == .frozen && c.victim.contains k.key.lidx && s.streamStep (Fin.ofNat 8 c.record.slice) && (s.die k.die).atBoundary && !s.castTo k
    && (c.state == .quiesced || (c.state == .running && c.record.elastic && s.settled k))

/-- STREAM_OUT: a wanted core's stream-out takes no time and ends at the boundary at which it may begin; its state stays in Core, and the save
area's bytes in capacity memory, which the spec does not lay out, are not written (log 118). -/
def execStreamOut (c : CoreKey) (s : State) : Out :=
  .next (match s.findCtx c.ctx, s.findCore c with
    | some x, some k =>
      if s.streams x k then
        let d := s.die k.die
        let parked := (List.finRange 10).foldl (fun s d =>
          ((s.die d).faults.filter fun p => p.core = c).foldl (fun s p => s.withdraw d p) s) (s.keepMonitors k)
        let out (k : Core) : Core :=
          { k.capture with res := .away k.die (d.tick - 4) d.boundaryDtick false, resumeAt := none, slots := k.slots.map Thread.saved }
        let s := (parked.modCore c out).modCtx c.ctx fun x => { x with victim := x.victim.filter (· ≠ c.lidx) }
        if (x.victim.filter (· ≠ c.lidx)).isEmpty then
          let s := if x.state = .quiesced then s.teamFrozen c.ctx else s
          if x.thermal || s.sliceHeld x then s else s.requeue c.ctx
        else s
      else s
    | _, _ => s)

/-! ## A core returns (R352, R424) -/

/-- A core that was away is resident again from the boundary M that begins now; ACCT13 of every slot rises (R352). -/
def State.restoreCore (s : State) (k : Core) : State :=
  match k.res with
  | .away d l dl foreign =>
    let die := s.die k.die
    let m := die.tick - 4
    let same := d = k.die && !foreign
    let n : BitVec 48 := BitVec.ofNat 48 (if same then (m - l) / 8 else (die.boundaryDtick - dl) / 8)
    let slots := k.slots.map fun t => { t with acct := t.acct.set 13 (t.acct[13] + n) }
    let total := slots[0].acct.toList.foldl (fun a x => a + x.toNat) 0
    let c0 := if same then k.tick0 else m - 8 * total
    (s.clearKept k).modCore k.key fun k =>
      { k with res := .frozen, resumeAt := none, slots := slots, tick0 := c0, monitors := Vector.replicate 7 Monitor.reset }
  | _ => s

/-- The cores of placed teams that are away stream in, each at a boundary of its die: not in a critical limit (R424, R464), but in a
stopped slice, whose teams stay frozen (R452). -/
def State.streamIn (s : State) (d : Fin 10) : State :=
  if !(s.die d).atBoundary then s
  else
    let comes (k : Core) : Bool := k.die == d && (match s.findCtx k.key.ctx with
      | some x => x.state == .placed && (s.sliceHeld x || !x.thermal)
      | none => false)
    (s.live.filter comes).foldl State.restoreCore s

/-- A wait on TICK or DTICK whose value passed while the core was frozen ends before the first resumed rotation (R52). See log 64. -/
def State.lateWait (s : State) (c : Core) (th : Thread) : Thread :=
  match th.phase with
  | .waiting w =>
    if w.done = some c.vi then
      let ended (th : Thread) : Thread := { th with phase := .waiting { w with done := some (c.vi - 1) } }
      match w.kind with
      | .waitt .tick _ p | .waitt .dtick _ p => ended (th.putP p true)
      | .tamp sc _ => ended (th.tampReleased sc (c.vi - 1) ((s.die c.die).tick - 5))
      | _ => th
    else th
  | _ => th

/-- Accesses and words that were held for a core, in the order in which they came: ascending performing cycle, then sender (R92). -/
def State.heldFor (s : State) (k : CoreKey) : List Flight :=
  s.flights.filter fun f => f.ctx = k.ctx && f.dst = k.lidx && f.crossed == f.hops && f.held && !f.isReply

/-- A frozen core runs again: its images are pushed again, its late waits end, and what was held for it performs before any access of
its threads. -/
def State.wakeCore (s : State) (c : CoreKey) : State :=
  let s := s.modCore c fun k =>
    let k := { k with res := .running, resumeAt := none, overwritten := [], fifo := k.fifo.map Request.repush }
    { k with slots := k.slots.map (s.lateWait k) }
  (s.heldFor c).foldl (fun s f => match f.kind with
    | .access .. => s.accessArrives f
    | _ => s.wordLands f) s

/-- A frozen core whose resume boundary has come. -/
def State.wakesNow (s : State) (k : Core) : Bool :=
  k.res == .frozen && (match k.resumeAt with
    | some r => decide (r + 4 ≤ (s.die k.die).tick)
    | none => false)

/-- CORE_RETURN: a core of an elastic team that runs on streams in at a boundary, and resumes at a later one. -/
def execCoreReturn (c : CoreKey) (s : State) : Out :=
  .next (match s.findCtx c.ctx, s.findCore c with
    | some x, some k =>
      if !(x.record.elastic && x.state == .running) then s
      else if s.wakesNow k then s.wakeCore c
      else match k.res with
        | .away .. =>
          if k.resumeAt.isSome && (s.die k.die).atBoundary then
            let (n, s) := s.pick (2 ^ 32)
            let r := (s.die k.die).tick - 4 + 8 * (n + 1)
            (s.restoreCore k).modCore c fun k => { k with resumeAt := some r }
          else s
        | _ => s
    | _, _ => s)

/-! ## RESUME (R51, R424, R453) -/

/-- A TICK of a frozen core's time, moved on to the time after its resume at R (R51). -/
def Core.shift (c : Core) (x : Nat) : Nat := x + c.resumeAt.getD 0 - c.frozenAt

/-- What a core keeps in TICK moves with it; so do a counted core's runs and checks, which go on at their VTICKs. -/
def Core.shifted (c : Core) (elastic : Bool) : Core :=
  let c' := c.retime c.shift
  if elastic then c' else c'.moveTables c.shift

/-- The items in flight of a team frozen whole go on where the freeze found them, so that each lands at its old VTICK (R51). -/
def State.shiftTeam (s : State) (ctx : Nat) : State :=
  s.moveItems ctx fun l x => match s.findCore ⟨ctx, l⟩ with
    | some c => c.shift x
    | none => x

/-- RESUME: once every core of a placed team is there, and at a time of the firmware's choice, boundaries of its dies that lie together are
chosen; there each core runs on. A slice that stops meanwhile, or a critical limit, freezes the team again (R451, R464). -/
def execResume (ctx : Nat) (s : State) : Out :=
  .next (match s.findCtx ctx with
    | none => s
    | some x =>
      let mine := s.coresOf ctx
      if x.state = .resuming then
        let s := (mine.filter s.wakesNow).foldl (fun s k => s.wakeCore k.key) s
        if (s.coresOf ctx).all fun k => k.res == .running then
          let s := s.modCtx ctx fun x => { x with state := .running, whole := false }
          if s.sliceHeld x then (s.modCtx ctx fun x => { x with victim := mine.map (·.key.lidx) }).freezeOne ctx
          else if x.thermal then s.freezeOne ctx else s
        else s
      else if x.state = .placed && !s.sliceHeld x && !x.thermal && mine.all (·.res == .frozen) then
        let dies := (mine.map (·.die)).eraseDups
        let (go, s) := s.pick 2
        let (wait, s) := s.pick 64
        if go = 0 || !s.together dies startLead then s else
        let at' := s.boundaries dies (8 * (wait + 2))
        let s := s.modCores (fun k => k.key.ctx == ctx) fun k => { k with resumeAt := some (at' k.die) }
        let s := if x.record.elastic && !x.whole then s
          else (s.shiftTeam ctx).modCores (fun k => k.key.ctx == ctx) fun k => k.shifted x.record.elastic
        s.modCtx ctx fun x => { x with state := .resuming }
      else s)

end Sys2Proof.Machine
end

