-- ==== Sys2Proof/Machine/Debug.lean ====
section
/-!
DEFINITION. The debugger's requests (R361) and the service cores' change of clock (R458, R463).
-/
namespace Sys2Proof.Machine

open Sys2Proof

/-- The next rotation boundary at which a request acts: that of a core which is not running is the one at which it resumes. -/
def Core.requestBoundary (c : Core) : Nat := if c.res == .running then c.nextBoundary else c.vi

/-- A stop acts at the thread's next rotation boundary. -/
def execDebugStopRequest (c : CoreKey) (t : Fin 8) (s : State) : Out :=
  .next (s.modCore c fun k => k.modSlot t fun th =>
    if th.phase == .vacant || th.stopped.isSome || th.stopAsked.isSome then th
    else { th with stopAsked := some k.requestBoundary })

/-- A resume takes effect at a rotation boundary. -/
def execDebugResume (c : CoreKey) (t : Fin 8) (s : State) : Out :=
  .next (s.modCore c fun k => k.modSlot t fun th =>
    if th.stopped.isSome && th.resumed.isNone then { th with stopAsked := some k.requestBoundary } else th)

/-- The service cores of a hub die go to the nominal clock at the first boundary after full service has begun and no DIAG context of the
die is left: the cycle that comes next, the boundary's, is one of the nominal clock (R18, R463). -/
def State.clockDue (s : State) (hub : Fin 2) : Bool :=
  let d : Fin 10 := Fin.ofNat 10 (8 + hub.val)
  (s.die d).slowClock && s.firm.service == .full && ((s.die d).tick + 1) % 8 == 0
    && !s.contexts.any fun x => (s.coresOf x.num).any (·.die == d) && !s.hasEnded d x

def execServiceClockSwitch (hub : Fin 2) (s : State) : Out :=
  let h : Fin 10 := Fin.ofNat 10 (8 + hub.val)
  .next (if s.clockDue hub then s.modDie h fun d =>
      { d with slowClock := false, rateFrom := (d.tick, (List.finRange 8).map fun e => s.estimate h (Fin.ofNat 10 e.val)) }
    else s)

end Sys2Proof.Machine
end

