-- ==== Sys2Proof/Machine/Frames.lean ====
section
/-!
DEFINITION. The memory window and the CTRL frames of Table 23-2 (R166, R354, R358, R410 to R414), and attestation (R462).
-/
namespace Sys2Proof.Machine

open Sys2Proof

/-! ## The memory window (R412, R428, R447) -/

/-- The die at whose port a slice's frames translate: its lowest-indexed compute die. -/
def State.windowDie (s : State) (sl : Fin 8) : Fin 10 :=
  match (List.finRange 8).find? fun d => (s.slice sl).dieMask.getLsbD d.val with
  | some d => Fin.ofNat 10 d.val
  | none => 0

/-- What the window makes of a frame: REFUSED, FAULT, or the physical address of its first byte. -/
inductive WindowAnswer where
  | refused | fault
  | pa (a : Nat)
  deriving DecidableEq, Repr

/-- The checks of R412 and the translation; under ASID 0 an address is physical (R428), and before full service a walk reaches only capacity
memory (R458). -/
def State.window (s : State) (f : Frame) (write : Bool) : WindowAnswer × State :=
  let sl := f.sliceNo
  let n := 8 * f.len8
  if !(f.asid == 0 || (s.slice sl).hasAsid f.asid) || f.addr % 8 != 0 || decide (2 ^ 16 < f.addr % 2 ^ 16 + n) then (.refused, s)
  else if f.asid = 0 then (if s.owns sl f.addr n then .pa f.addr else .fault, s)
  else match s.translate (s.windowDie sl) sl f.asid f.addr write (s.firm.service != .full) with
    | (.leaf pa .., s) => (.pa pa, s)
    | (.fault .., s) => (.fault, s)

/-- n 64-bit words of physical memory. -/
def State.physWords (s : State) (a n : Nat) : List Word :=
  (List.range n).map fun i => BitVec.ofNat 64 (memRead s.mem (a + 8 * i) 8)

/-- MEMRD: a poisoned granule ends the bytes that are read; zeros follow. -/
def execMemrd (f : Frame) (s : State) : Out :=
  frameOp .memrd f s fun s =>
    match s.window f false with
    | (.refused, s) => s.respond f 1 []
    | (.fault, s) => s.respond f 2 []
    | (.pa a, s) =>
      match (poisonIn s.memPoison a (8 * f.len8)).head? with
      | none => (s.noteRead 0 a (8 * f.len8)).respond f 0 (s.physWords a f.len8)
      | some g =>
        let good := (g * 64 - a) / 8
        (s.noteRead 0 a (8 * good)).respond f 3 (s.physWords a good ++ List.replicate (f.len8 - good) 0)

/-- Write words from a physical address at a die's port. See log 58. -/
def State.windowWrite (s : State) (sl : Fin 8) : Nat → List Word → State
  | _, [] => s
  | a, w :: ws => (s.physWrite .other (s.windowDie sl) sl a 8 w.toNat).windowWrite sl (a + 8) ws

/-- MEMWR: answered once its bytes have performed. -/
def execMemwr (f : Frame) (s : State) : Out :=
  frameOp .memwr f s fun s =>
    match s.window f true with
    | (.refused, s) => s.respond f 1 []
    | (.fault, s) => s.respond f 2 []
    | (.pa a, s) => (s.windowWrite f.sliceNo a f.payload).respond f 0 []

/-! ## Group handles (R166) -/

/-- See log 68. -/
def execBind (f : Frame) (s : State) : Out :=
  frameOp .bind f s fun s =>
    let h := f.operand 1
    let ranks := Config.rankList s.mem (f.word 3)
    if h = 0 || decide (2 ^ 24 ≤ h) || ranks.isEmpty || decide (2 ^ 24 ≤ ranks.length) then s.refuse f 0
    else
      let b : Handle := ⟨BitVec.ofNat 24 h, f.word 2, ranks⟩
      { s with handles := b :: s.handles.filter fun x => x.handle ≠ b.handle }.respond f 0 []

def execUnbind (f : Frame) (s : State) : Out :=
  frameOp .unbind f s fun s =>
    let h := f.operand 1
    if s.handles.any fun x => x.handle.toNat == h then
      { s with handles := s.handles.filter fun x => x.handle.toNat ≠ h }.respond f 0 []
    else s.refuse f 0

/-! ## Contexts (R413, R425) -/

/-- The context that an operand names, in the frame's slice. -/
def State.named (s : State) (f : Frame) (i : Nat) : Option Context :=
  s.contexts.find? fun c => c.num == f.operand i && c.record.slice == f.slice

def execDestroy (f : Frame) (s : State) : Out :=
  frameOp .destroy f s fun s =>
    match s.named f 1 with
    | some c => (s.endContext c.num).respond f 0 []
    | none => s.refuse f 0

/-- RESET also ends the context's trace sessions with REASON 1 (R358). -/
def execReset (f : Frame) (s : State) : Out :=
  frameOp .reset f s fun s =>
    match s.named f 1 with
    | some c => ((s.endSessions (fun x => x.ctx == c.num) 1).endContext c.num).respond f 0 []
    | none => s.refuse f 0

/-! ## Trace sessions (R354, R357, R358) -/

/-- TOPEN: the context in bits 31:0 of word 0, then die, k, ring base and ring size (log 26). The ring lies in the die's HBM
stack; at most eight sessions are open on a die. -/
def execTopen (f : Frame) (s : State) : Out :=
  frameOp .topen f s fun s =>
    let ctx := bitsNat (f.word 0) 31 0
    let die := f.operand 1
    let k := f.operand 2
    let base := f.operand 3
    let size := f.operand 4
    let known := s.contexts.any fun c => c.num == ctx && c.record.slice == f.slice
    let ring := base % 2 ^ 16 == 0 && size % 2 ^ 16 == 0 && size != 0 && decide (die * 2 ^ 36 ≤ base)
      && decide (base + size ≤ die * 2 ^ 36 + 48 * gib)
    if known && decide (die < 8) && (s.slice f.sliceNo).dieMask.getLsbD die && decide (10 ≤ k) && decide (k ≤ 30) && ring
        && decide ((s.sessions.filter fun x => x.die.val == die).length < 8) then
      let (id, s) := s.newId
      let x : Session := ⟨id, f.slice, ctx, (s.recordOf ctx).asid, Fin.ofNat 10 die, k, base, size, 0, 0, 0, 0, 0, true, List.replicate 256 absentEntry⟩
      { s with sessions := s.sessions ++ [x] }.respond f 0 [BitVec.ofNat 64 id]
    else s.refuse f 0

/-- TCLOSE names its session by the operands of TOPEN. -/
def execTclose (f : Frame) (s : State) : Out :=
  frameOp .tclose f s fun s =>
    let it (x : Session) : Bool := x.slice == f.slice && x.ctx == bitsNat (f.word 0) 31 0 && x.die.val == f.operand 1
      && x.k == f.operand 2 && x.base == f.operand 3 && x.size == f.operand 4
    if s.sessions.any it then (s.endSessions it 2).respond f 0 [] else s.refuse f 0

/-- TRDPTR: the read pointer goes forward to an offset of the ring, not past what is written. See log 73. -/
def execTrdptr (f : Frame) (s : State) : Out :=
  frameOp .trdptr f s fun s =>
    match s.sessions.find? fun x => x.id == f.operand 1 && x.slice == f.slice with
    | none => s.refuse f 0
    | some x =>
      let p := f.operand 2
      let step := (p + x.size - x.rd % Nat.max x.size 1) % Nat.max x.size 1
      if p < x.size && x.rd + step ≤ x.wr then (s.setSession { x with rd := x.rd + step }).respond f 0 []
      else s.refuse f 0

/-! ## Host channels (R344) -/

/-- The oldest push of a channel whose response is not known. -/
def Core.openPush (c : Core) (q : QReg) : Option Nat :=
  (c.asked.find? fun x => x.2.1 == q && x.2.2.isNone).map (·.1)

def execHostresp (f : Frame) (s : State) : Out :=
  frameOp .hostresp f s fun s =>
    let q := f.operand 3
    match s.named f 1 with
    | none => s.refuse f 0
    | some c =>
      let k : CoreKey := ⟨c.num, f.operand 2⟩
      match (s.findCore k).bind fun x => if 1 ≤ q && q < 8 then x.openPush (Fin.ofNat 8 q) else none with
      | some id => (s.answerPush k id (channelWord 2 (f.operand 4))).respond f 0 []
      | none => s.refuse f 0

/-! ## FLIGHTRD (R161) -/

def execFlightrd (f : Frame) (s : State) : Out :=
  frameOp .flightrd f s fun s =>
    match s.firm.flights.find? fun x => x.1 == f.operand 1 with
    | some x => s.respond f 0 [x.2.zeroExtend 64]
    | none => s.refuse f 0

/-! ## ATTEST (R462) -/

/-- The bytes of Table 26-3. -/
def State.report (s : State) (f : Frame) : List Byte :=
  let mine := (sortBy (fun a b => decide (a.num < b.num)) (s.contexts.filter fun c => c.record.slice == f.slice)).take 64
  let full := match s.firm.service with
    | .full => 1
    | _ => 0
  f.payload.flatMap (fun w => leBytes 8 w.toNat) ++ identityPublic ++ List.replicate 7 0 ++ s.firm.fwDigest
    ++ leBytes 4 s.firm.version ++ leBytes 4 s.firm.minVersion ++ leBytes 1 full ++ leBytes 1 f.slice ++ leBytes 2 mine.length
    ++ List.replicate 4 0
    ++ mine.flatMap fun c => leBytes 4 c.num ++ leBytes 2 c.record.asid ++ [0, 0] ++ c.digest

/-- Bytes as payload words, padded with zeros. -/
def payloadOf (bs : List Byte) : List Word :=
  (List.range ((bs.length + 7) / 8)).map fun i => BitVec.ofNat 64 (ofLeBytes ((bs.drop (8 * i)).take 8))

/-- ATTEST: the report and the signature over it. -/
def execAttest (f : Frame) (s : State) : Out :=
  frameOp .attest f s fun s =>
    let r := s.report f
    s.respond f 0 (payloadOf (r ++ identitySign r))

end Sys2Proof.Machine
end

