-- ==== Sys2Proof/Machine/SliceFormat.lean ====
section
/-!
DEFINITION. The layout of a slice image's body, which VERSION fixes and the spec does not give (R451): free values (log 22).
-/
namespace Sys2Proof.Config

/-- The body bytes that hold what a slice image carries. -/
opaque imageBody : Machine.SliceImage → List (BitVec 8)

/-- What the body bytes of an image written by another package hold. -/
opaque imageContent : List (BitVec 8) → Option Machine.SliceImage

end Sys2Proof.Config
end

