-- ==== Sys2Proof/Machine/Slices.lean ====
section
/-!
DEFINITION. Slices: configuration, dirty tracking, stopping, moving and resuming (R443 to R456).
-/
namespace Sys2Proof.Machine

open Sys2Proof

/-! ## SLICECFG (R444) -/

/-- Two ranges of whole numbers, by start and count, meet. -/
def spansMeet (a n b m : Nat) : Bool := decide (0 < n) && decide (0 < m) && decide (a < b + m) && decide (b < a + n)

/-- A configuration read from words 1 and 2 (Table 25-2). -/
def sliceFrom (old : Slice) (f : Frame) : Slice :=
  let w1 := f.word 1
  let w2 := f.word 2
  { old with dieMask := BitVec.ofNat 8 (bitsNat w1 63 56), asidBase := bitsNat w1 47 32, asidCnt := bitsNat w1 31 16,
             cap0b := bitsNat w2 63 55, cap0n := bitsNat w2 54 45, cap1b := bitsNat w2 44 36, cap1n := bitsNat w2 35 26 }

/-- Two slices overlap in a die, a GiB or an ASID. -/
def Slice.overlaps (a b : Slice) : Bool :=
  a.dieMask &&& b.dieMask != 0 || spansMeet a.cap0b a.cap0n b.cap0b b.cap0n || spansMeet a.cap1b a.cap1n b.cap1b b.cap1n
  || spansMeet a.asidBase a.asidCnt b.asidBase b.asidCnt

/-- A slice holds no context and no queued launch. -/
def State.sliceEmpty (s : State) (sl : Fin 8) : Bool :=
  (s.slice sl).queue.isEmpty && !s.contexts.any fun c => c.record.slice == sl.val

/-- A new configuration; the ports drop the translations of the ASIDs that the slice had or gets (R443). -/
def execSlicecfg (f : Frame) (s : State) : Out :=
  frameOp .slicecfg f s fun s =>
    let sl := f.sliceNo
    let x := sliceFrom (s.slice sl) f
    let rsvd := bitsNat (f.word 0) 55 0 != 0 || bitsNat (f.word 1) 55 48 != 0 || bitsNat (f.word 1) 15 0 != 0
      || bitsNat (f.word 2) 25 0 != 0
    let range := decide (512 < x.cap0b + x.cap0n) || decide (512 < x.cap1b + x.cap1n) || x.asidBase == 0
      || decide (65536 < x.asidBase + x.asidCnt)
    let clash := (List.finRange 8).any fun n => n != sl && (s.slice n).dieMask != 0 && x.overlaps (s.slice n)
    if !s.sliceEmpty sl || rsvd || range || clash then s.refuse f 0
    else
      let held (a : Nat) : Bool := (s.slice sl).hasAsid a || x.hasAsid a
      let s := (List.finRange 10).foldl (fun s d => s.modDie d fun y =>
        { y with cache := y.cache.filter fun e => !held e.asid }) s
      (s.modSlice sl fun _ => x).respond f 0 []

/-- A range lies in a slice's capacity share. -/
def Slice.inShare (x : Slice) (a n : Nat) : Bool := covered x.share 4 a (a + n)

/-! ## Dirty tracking (R448, R449) -/

/-- A DSNAP ends: every port sets bits in ACTIVE, DSEQ has advanced, and the response goes out (R449). -/
def State.endSnap (s : State) (sl : Fin 8) : State :=
  match (s.slice sl).snap with
  | none => s
  | some (lane, seq, _) =>
    let active := (s.tcb sl offDirty).testBit 0
    let n := (s.tcb sl offDseq + 1) % 2 ^ 64
    let s := s.modSlice sl fun x => { x with snap := none, ports := if active then BitVec.allOnes 10 else 0 }
    (s.setTcb sl offDseq n).sendFrame lane 5 true sl.val 0 0 (some seq) 0 [BitVec.ofNat 64 n]

/-- One port flips, at an instant of its own; the last one ends the DSNAP. -/
def State.flipPort (s : State) (sl : Fin 8) : State :=
  match (s.slice sl).snap with
  | none => s
  | some (_, _, []) => s.endSnap sl
  | some (lane, seq, ports) =>
    let (i, s) := s.pick ports.length
    let d := ports.getD i 0
    s.modSlice sl fun x => { x with ports := x.ports ^^^ BitVec.twoPow 10 d.val, snap := some (lane, seq, ports.erase d) }

/-- Tracking on or off; it ends a DSNAP that has not ended. -/
def execDirty (f : Frame) (s : State) : Out :=
  frameOp .dirty f s fun s =>
    let sl := f.sliceNo
    if bitAt (f.word 1) 0 then
      if s.bitmapOk sl 0 && s.bitmapOk sl 1 then
        let s := (s.endSnap sl).modSlice sl fun x => { x with ports := 0 }
        ((s.setTcb sl offDirty (2 ^ 63)).setTcb sl offDseq 0).respond f 0 []
      else s.refuse f 0
    else
      let s := s.endSnap sl
      (s.setTcb sl offDirty (s.tcb sl offDirty % 2)).respond f 0 []

/-- ACTIVE flips, and each die's port after it; the response comes when all have (R449). A second DSNAP finds the first one ended
(R456). See log 72. -/
def execDsnap (f : Frame) (s : State) : Out :=
  frameOp .dsnap f s fun s =>
    let sl := f.sliceNo
    if (s.tcb sl offDirty).testBit 63 then
      let s := s.endSnap sl
      (s.setTcb sl offDirty (2 ^ 63 + (s.tcb sl offDirty + 1) % 2)).modSlice sl fun x =>
        { x with snap := some (f.lane, f.seq, List.finRange 10) }
    else s.refuse f 0

/-! ## DIGEST (R455) -/

def execDigest (f : Frame) (s : State) : Out :=
  frameOp .digest f s fun s =>
    let a := f.operand 1
    let n := f.operand 2
    if a % 2 ^ 16 ≠ 0 || n % 2 ^ 16 ≠ 0 || !s.owns f.sliceNo a n then s.refuse f 0
    else match s.readPhys a n with
      | none => s.respond f 3 []
      | some bs => (s.noteRead 0 a n).respond f 0 (payloadOf (shake256 bs 32))

/-! ## SLICESTOP (R451) -/

/-- The contexts of a slice, in ascending number. -/
def State.contextsOf (s : State) (sl : Fin 8) : List Context :=
  sortBy (fun a b => decide (a.num < b.num)) (s.contexts.filter fun c => c.record.slice == sl.val)

/-- Reasons 1 and 2. -/
def State.stopReason (s : State) (sl : Fin 8) (ib il : Nat) : Option Nat :=
  let bitmap (i : Nat) : Bool := spansMeet ib il (s.tcb sl (offDbBase + 8 * i)) (4 * 2 ^ 20)
  if ((s.contextsOf sl).any fun c => c.record.npkg != 0 || c.record.diag) || (s.slice sl).queue.any (·.record.diag) then some 1
  else if ib % 2 ^ 16 != 0 || !(s.slice sl).inShare ib il || bitmap 0 || bitmap 1 then some 2
  else none

/-- The cores of a context that are to be streamed. -/
def State.resident (s : State) (ctx : Nat) : List Nat :=
  (s.live.filter fun k => k.key.ctx == ctx && (match k.res with
    | .away .. => false
    | _ => true)).map (·.key.lidx)

/-- Every team of a slice is to be frozen whole at one boundary and streamed; one that is frozen already, or on its way back, stays
so, and one whose cores are already resuming is frozen when they all run (R451, R456). -/
def State.stopTeams (s : State) (sl : Fin 8) : State :=
  let all := s.contextsOf sl
  let (b, s) := s.freezeVtick (all.map (·.num))
  (all.filter fun c => c.state != .resuming).foldl (fun s c =>
    let s := s.modCores (fun k => k.key.ctx == c.num && k.res != .running) fun k => { k with resumeAt := none }
    let s := s.modCtx c.num fun x => { x with
      victim := s.resident c.num
      state := if x.state = .running then .running else if x.state = .freezing then .freezing else .quiesced }
    s.freezeTeam c.num b) s

/-- SLICESTOP begins: no new launch, no placement; the teams freeze. Its response comes when the image is written. -/
def execSlicestop (f : Frame) (s : State) : Out :=
  frameOp .slicestop f s fun s =>
    let sl := f.sliceNo
    let ib := f.operand 1
    let il := f.operand 2
    if (s.slice sl).stopped || (s.slice sl).dieMask = 0 then s.refuse f 0
    else match s.stopReason sl ib il with
      | some r => s.refuse f r
      | none =>
        let now := s.now
        (s.modSlice sl fun x => { x with stopped := true, stoppedAt := now, stop := some (f.lane, f.seq, ib, il) }).stopTeams sl

/-- Every core of the slice is away. -/
def State.stopDone (s : State) (sl : Fin 8) : Bool := (s.contextsOf sl).all fun c => (s.resident c.num).isEmpty

/-- A time from which something of a stopped slice counts, moved on by what of the stop it has seen: all, or what came after it. -/
def Slice.resumed (x : Slice) (now since : Nat) : Nat := since + (now - Nat.max since x.stoppedAt)

/-- What a slice's image carries; the time since the stop is not time queued, nor lifetime (R451, R453). -/
def State.imageOf (s : State) (sl : Fin 8) : SliceImage :=
  let x := s.slice sl
  let ctxs := s.contextsOf sl
  let mine (n : Nat) : Bool := ctxs.any fun c => c.num == n
  { dies := ((List.range 8).filter fun d => x.dieMask.getLsbD d).length
    dl := s.now
    queue := x.queue.map fun q => { q with since := x.resumed s.now q.since }
    credits := x.credits.map fun c => (c.1, x.resumed s.now c.2)
    contexts := ctxs.map fun c => { c with frozenSince := x.resumed s.now c.frozenSince }
    cores := s.live.filter fun k => mine k.key.ctx
    flights := s.flights.filter fun w => mine w.ctx
    windows := s.windows.filter fun w => mine w.ctx
    messages := s.messages.filter fun w => mine w.ctx
    episodes := s.episodes.filter fun w => mine w.ctx
    submitted := s.submitted.filter fun w => mine w.1.ctx
    handles := s.handles.filter fun h => ctxs.any fun c => c.record.jobKey == h.jobKey
    counters := [s.tcb sl offFlTail, s.tcb sl offFlHead, s.tcb sl offCmdTail, s.tcb sl offCmdDone] }

/-- The 64-byte header of an image (Table 25-5). -/
def imageHead (img : SliceImage) (body : List Byte) : List Byte :=
  let w0 := 0x56434D49 * 2 ^ 32 + Config.imageFormatVersion.toNat * 2 ^ 16 + img.contexts.length % 2 ^ 16
  let w2 := img.dies % 16 * 2 ^ 60 + img.queue.length % 2 ^ 16 * 2 ^ 32
  leBytes 8 w0 ++ leBytes 8 (64 + body.length) ++ leBytes 8 w2 ++ leBytes 8 img.dl ++ shake256 body 32

/-- The stopped interval is not time queued, nor lifetime of credits (R453). -/
def Slice.unstop (x : Slice) (now : Nat) : Slice :=
  { x with stopped := false, stop := none, queue := x.queue.map fun q => { q with since := x.resumed now q.since },
           credits := x.credits.map fun c => (c.1, x.resumed now c.2) }

/-- The slice resumes: its queue and credits go on, and each team is given a place: its own when it still holds it, else the
placer's, else it waits in the queue (R453). -/
def State.runSlice (s : State) (sl : Fin 8) : State :=
  let now := s.now
  let x := s.slice sl
  let s := (s.contextsOf sl).foldl (fun s c => s.modCtx c.num fun c => { c with frozenSince := x.resumed now c.frozenSince }) s
  let s := s.modSlice sl fun x => x.unstop now
  (s.contextsOf sl).foldl (fun s c =>
    let q : Queued := ⟨c.record, c.origin, c.arrival, now, 0, some c.num⟩
    let queued := (s.slice sl).queue.any fun e => e.team == some c.num
    if c.thermal || queued then s
    else if s.live.all fun k => k.key.ctx != c.num || k.holdsPlace then
      s.modCtx c.num fun x => { x with state := .placed }
    else match s.findPlace c.record q.own with
      | some p => if (s.movers c.num p).isEmpty then s.replace c.num p else s.requeue c.num
      | none => s.requeue c.num) s

/-- The copies that a stopped slice's captured requests have made keep their values from now on: no write of their sources changes
them (R119, R451). -/
def State.settleCopies (s : State) (sl : Fin 8) : State :=
  s.modCores (fun c => (s.recordOf c.key.ctx).slice == sl.val && !c.fifo.isEmpty) fun c => { c with fifo := c.fifo.map fun r =>
    { r with moved := r.moved.map fun m => { m with open' := 0 } } }

/-- A SLICESTOP in progress goes on from its step 3: the sessions end; once every core has streamed the image is written when it fits, else
the slice runs again. -/
def State.finishStop (s : State) (sl : Fin 8) : State :=
  match (s.slice sl).stop with
  | none => s
  | some (lane, seq, ib, il) =>
    if !s.stopQuiet sl then s
    else if !s.untraced sl then s.endSessions (fun x => x.slice == sl.val) 2
    else if !s.stopDone sl then s
    else
      let s := (s.takePushes sl).settleCopies sl
      let img := s.imageOf sl
      let body := Config.imageBody img
      let s := s.modSlice sl fun x => { x with stop := none }
      let room := (s.slice sl).inShare ib il && s.owns sl ib il
      if !room || decide (il < 64 + body.length) then
        (s.runSlice sl).sendFrame lane 5 true sl.val 0 1 (some seq) 0 [if room then 3 else 2]
      else
        let s := { s with mem := memPut s.mem ib (imageHead img body ++ body), images := img :: s.images }
        let s := s.noteWrite .other 0 ib (64 + body.length)
        s.sendFrame lane 5 true sl.val 0 0 (some seq) 0 [0, BitVec.ofNat 64 (64 + body.length), BitVec.ofNat 64 img.dl]

/-- The last core of a stopping slice has streamed: step 5 ends with it, at DL (R451). -/
def State.endStreams (s : State) (sl : Fin 8) : State :=
  if (s.contextsOf sl).isEmpty || !s.untraced sl || !s.stopDone sl then s else s.finishStop sl

/-! ## SLICELOAD (R452) -/

/-- What is known, at other contexts and identifiers; a numbered write stays behind with the source that it stained. -/
def Known.moved (key : CoreKey → CoreKey) (id : Nat) : Known → Option Known
  | .write _ => none
  | .phase k l n => some (.phase (key k) l n)
  | .request n => some (.request (n + id))

/-- A captured request at another context and identifier. What was written to its source before stays as it is, and of what it has
written only scratchpads are remembered (log 66). -/
def Request.renumber (r : Request) (key : CoreKey → CoreKey) (id : Nat) : Request :=
  let known (l : List Known) : List Known := l.filterMap (Known.moved key id)
  let mark (m : Mark) : Mark := { m with issue := m.issue + id, known := known m.known }
  let unit (m : MovedUnit) : Option MovedUnit :=
    if m.dspace = 0 then none
    else some { m with dspace := spaceOf (key (coreOfSpace m.dspace)), counted := m.counted.map fun p => (key p.1, p.2), open' := 0 }
  { r with id := r.id + id, marks := r.marks.map mark, stained := [], known := known r.known, moved := r.moved.filterMap unit }

/-- A thread that waits in a wire episode waits in it under its new number. -/
def Phase.renumber (p : Phase) (id : Nat) : Phase :=
  match p with
  | .waiting w => match w.kind with
    | .wire e d => .waiting { w with kind := .wire (e + id) d }
    | _ => p
  | _ => p

/-- A core of an image at another context, with other identifiers. -/
def Core.renumber (c : Core) (key : CoreKey → CoreKey) (id : Nat) : Core :=
  let known (l : List Known) : List Known := l.filterMap (Known.moved key id)
  { c with
    key := key c.key
    slots := c.slots.map fun t => { t with
      phase := t.phase.renumber id
      pending := t.pending.map fun p => { p with id := p.id + id }
      fenceId := t.fenceId + id, known := known t.known, fenced := known t.fenced, performed := known t.performed }
    asked := c.asked.map fun a => (a.1 + id, a.2)
    heldMail := c.heldMail.map fun h => if h.cls = 0 then { h with order := h.order + id } else h
    fifo := c.fifo.map fun r => r.renumber key id
    marks := c.marks.map fun m => { m with issue := m.issue + id, known := known m.known }
    known := known c.known
    phases := c.phases.map fun p => (p.1, p.2.1, known p.2.2)
    done := c.done.map fun p => (p.1 + id, p.2.1, known p.2.2)
    entries := c.entries.map fun p => (p.1, known p.2) }

/-- A word of an image, whose pending result has another identifier too. -/
def Flight.renumber (f : Flight) (key : CoreKey → CoreKey) (id : Nat) : Flight :=
  { f with id := f.id + id, known := f.known.filterMap (Known.moved key id), fence := f.fence + id
           kind := match f.kind with
             | .access op t p => .access op t (p.map (· + id))
             | .reply t p v x c => .reply t (p + id) v x c
             | .word q v => .word q v }

/-- The highest identifier that a core of an image holds. -/
def Core.maxId (c : Core) : Nat :=
  (c.slots.toList.flatMap (fun t => t.fenceId :: t.pending.map (·.id)) ++ c.asked.map (·.1) ++ c.done.map (·.1) ++ c.fifo.flatMap (fun r => r.id :: r.marks.map (·.issue))
    ++ c.marks.map (·.issue)).foldl Nat.max 0

/-- Give the contexts of an image new numbers, what is in flight for them new identifiers, and launches an arrival behind those of the
target; their dies are the target's to choose. -/
def SliceImage.renumber (img : SliceImage) (slice base id arrival : Nat) : SliceImage :=
  let num (n : Nat) : Nat := base + (img.contexts.findIdx fun c => c.num == n)
  let key (k : CoreKey) : CoreKey := ⟨num k.ctx, k.lidx⟩
  let origin : Origin → Origin
    | .child k p => .child (key k) (p + id)
    | .frame l q => .frame l q
  { img with
    queue := img.queue.map fun q => { q with team := q.team.map num, origin := origin q.origin, arrival := q.arrival + arrival,
                                             record := { q.record with slice := slice, dieMask := 0 } }
    contexts := img.contexts.map fun c => { c with num := num c.num, origin := origin c.origin, arrival := c.arrival + arrival,
                                                   record := { c.record with slice := slice, dieMask := 0 } }
    cores := img.cores.map fun k => k.renumber key id
    flights := img.flights.map fun f => { f.renumber key id with ctx := num f.ctx }
    windows := img.windows.map fun w => { w with ctx := num w.ctx, id := w.id + id }
    messages := img.messages.map fun m => { m with ctx := num m.ctx, id := m.id + id }
    episodes := img.episodes.map fun e => { e with ctx := num e.ctx, id := e.id + id,
                                                   waiters := e.waiters.map fun w => (key w.1, w.2) }
    submitted := img.submitted.map fun x => (key x.1, x.2.1 + id, x.2.2) }

/-- The highest identifier in flight in an image. -/
def SliceImage.maxId (img : SliceImage) : Nat :=
  (img.flights.map (·.id) ++ img.windows.map (·.id) ++ img.messages.map (·.id) ++ img.episodes.map (·.id) ++ img.cores.map (·.maxId)
    ++ img.submitted.map (·.2.1)).foldl Nat.max 0

/-- The latest arrival in an image. -/
def SliceImage.lastArrival (img : SliceImage) : Nat :=
  (img.queue.map (·.arrival) ++ img.contexts.map (·.arrival)).foldl Nat.max 0

/-- Bring an image's state in: teams frozen and away since DL, at numbers of this package, and behind whatever has arrived here. While the
critical thermal condition stands here they stay frozen for it (R464). See log 66. -/
def State.bringIn (s : State) (sl : Fin 8) (img : SliceImage) : State :=
  let img' := img.renumber sl.val s.nextCtx s.fresh s.arrivals
  let away (k : Core) : Core :=
    let since := (img'.contexts.find? fun c => c.num == k.key.ctx).elim img.dl (·.frozenSince)
    let p := match k.res with
      | .away d l dl _ => (d, l + (img.dl - dl))
      | _ => (k.die, k.frozenAt + (img.dl - since))
    { k with resumeAt := none, res := .away p.1 p.2 img.dl true }
  let still (c : Context) : Context := { c with state := .frozen, victim := [], thermal := s.firm.critical }
  let s := { s with
    others := s.others ++ img'.cores.map away
    contexts := s.contexts ++ img'.contexts.map still
    flights := s.flights ++ img'.flights
    windows := s.windows ++ img'.windows
    messages := s.messages ++ img'.messages
    episodes := s.episodes ++ img'.episodes
    submitted := s.submitted ++ img'.submitted
    handles := s.handles ++ img'.handles
    nextCtx := s.nextCtx + img'.contexts.length
    arrivals := s.arrivals + img.lastArrival + 1
    fresh := s.fresh + img.maxId + 1 }
  let s := s.modSlice sl fun x =>
    { x with queue := img'.queue, credits := img'.credits, stopped := true, stoppedAt := img.dl, stop := none }
  let set (s : State) (p : Nat × Nat) : State := s.setTcb sl p.1 p.2
  (([offFlTail, offFlHead, offCmdTail, offCmdDone].zip img.counters).foldl set s)

/-- Place each team of a slice in ascending context number, one that the image's queue holds out of it; none when one finds no
place. -/
def placeTeams (ctxs : List Context) (s : State) : Option State :=
  match ctxs with
  | [] => some s
  | c :: rest =>
    match s.findPlace c.record fun k => k.key.ctx == c.num with
    | some p =>
      placeTeams rest ((s.replace c.num p).modSlice (Fin.ofNat 8 c.record.slice) fun x =>
        { x with queue := x.queue.filter fun q => q.team != some c.num })
    | none => none

/-- The bytes of an image at a base, after the checks of reason 1 and 2. Nothing is read that the slice does not own (R443): what cannot
be read is no header. -/
def State.imageAt (s : State) (sl : Fin 8) (ib : Nat) : Except Nat (List Byte × List Byte) :=
  if !s.owns sl ib 64 then .error 1 else
  let h := memBytes s.mem ib 64
  let w (i : Nat) : Nat := ofLeBytes ((h.drop (8 * i)).take 8)
  if natBits (w 0) 63 32 != 0x56434D49 || natBits (w 0) 31 16 != Config.imageFormatVersion.toNat then .error 1
  else if !s.owns sl ib (w 1) || decide (w 1 < 64) then .error 2
  else
    let body := memBytes s.mem (ib + 64) (w 1 - 64)
    if shake256 body 32 = h.drop 32 then .ok (h, body) else .error 2

/-- A thread that an image brings: s0, p0 and k0 are the constants that they read as, whatever it holds for them (R55). -/
def Thread.wire (t : Thread) : Thread :=
  { t with s := t.s.set 0 0, p := t.p.set 0 true, k := t.k.set 0 (BitVec.allOnes 64) }

/-- What a body holds: an image of this package, else what the format says of it. -/
def State.contentOf (s : State) (body : List Byte) : Option SliceImage :=
  let core (c : Core) : Core := { c with sp := c.sp.canonical, istore := c.istore.canonical }
  let read := (Config.imageContent body).map fun i => { i with cores := i.cores.map core }
  let wire (c : Core) : Core := { c with slots := c.slots.map Thread.wire }
  ((s.images.find? fun i => Config.imageBody i == body).orElse fun _ => read).map fun i => { i with cores := i.cores.map wire }

def execSliceload (f : Frame) (s : State) : Out :=
  frameOp .sliceload f s fun s =>
    let sl := f.sliceNo
    match s.imageAt sl (f.operand 1) with
    | .error r => s.refuse f r
    | .ok (head, body) =>
      match s.contentOf body with
      | none => s.refuse f 1
      | some img =>
        let x := s.slice sl
        let dies := ((List.range 8).filter fun d => x.dieMask.getLsbD d).length
        let asids := img.contexts.map (·.record.asid) ++ img.queue.map (·.record.asid)
        if !s.sliceEmpty sl || img.dies ≠ dies || natBits (ofLeBytes (head.drop 16 |>.take 8)) 63 60 ≠ dies % 16 then s.refuse f 3
        else if !asids.all x.hasAsid then s.refuse f 4
        else if img.handles.any fun h => s.handles.any fun b => b.handle == h.handle then s.refuse f 5
        else if !s.firm.plock then s.refuse f 6
        else
          let t := s.bringIn sl img
          match placeTeams (t.contextsOf sl) t with
          | some u => u.respond f 0 []
          | none => s.refuse f 7

/-! ## SLICERUN and SLICECLEAR (R453, R454) -/

def execSlicerun (f : Frame) (s : State) : Out :=
  frameOp .slicerun f s fun s =>
    let sl := f.sliceNo
    if (s.slice sl).stopped && (s.slice sl).stop.isNone then (s.runSlice sl).respond f 0 [] else s.refuse f 0

/-- See log 67. -/
def execSliceclear (f : Frame) (s : State) : Out :=
  frameOp .sliceclear f s fun s =>
    let sl := f.sliceNo
    if (s.slice sl).stopped && (s.slice sl).stop.isNone then
      let s := (s.contextsOf sl).foldl (fun s c => s.destroyContext c.num) s
      let s := s.modSlice sl fun x => { x with queue := [], credits := [], stopped := false }
      (s.setTcb sl offDirty (s.tcb sl offDirty % 2)).respond f 0 []
    else s.refuse f 0

end Sys2Proof.Machine
end

