-- ==== Sys2Proof/Machine/Fleet.lean ====
section
/-!
DEFINITION. Power limits, error counts, removals and health frames (R362, R464 to R470).
-/
namespace Sys2Proof.Machine

open Sys2Proof

/-! ## Limits (R464) -/

/-- A limit exceeded for 10 ms: EVENT 8, and no launch is placed. -/
def execThermalLimit (s : State) : Out :=
  .next ((s.modFirm fun x => { x with thermalHold := true }).sendEvent 8 0 0 [])

/-- The critical limit: every team freezes, none streams for it, and EVENT 8 is sent again. -/
def execThermalCritical (s : State) : Out :=
  let s := (s.modFirm fun x => { x with thermalHold := true, critical := true }).sendEvent 8 0 0 []
  .next (s.contexts.foldl (fun s c => (s.modCtx c.num fun x => { x with thermal := true }).freezeOne c.num) s)

/-- The condition has ended: the teams that it froze resume. -/
def execThermalClear (s : State) : Out :=
  let s := s.modFirm fun x => { x with thermalHold := false, critical := false }
  .next ((s.contexts.filter (·.thermal)).foldl (fun s c =>
    let s := s.modCtx c.num fun x => { x with thermal := false }
    if c.state ≠ .frozen || s.sliceHeld c then s else s.giveBack c.num) s)

/-! ## Resources (R465) -/

/-- An RID that names a resource: a pool bank of a compute die's core or of a service core, an HBM channel, a port. -/
def ridOk (r : BitVec 32) : Bool :=
  match ridKind r with
  | 1 =>
    let (x, y) := ridCell r
    decide (ridDie r < 10) && decide (x < dieSpan (ridDie r)) && decide (y < dieSpan (ridDie r)) && decide (ridIndex r % 2 ^ 16 < 16)
  | 2 => decide (ridDie r < 8) && decide (ridIndex r < 32)
  | 3 => (ridDie r == 8 || ridDie r == 9) && ridIndex r / 16 + 8 == ridDie r
  | _ => false

/-- The threshold of a resource's KIND. -/
def Firm.threshold (x : Firm) (r : BitVec 32) : Nat := x.thresholds.toList.getD (ridKind r - 1) 0

/-- The window of 24 hours on DTICK (R466). -/
def healthWindow : Nat := 311040000000000

/-- The DTICKs of a resource's latest events. -/
def Firm.eventsOf (x : Firm) (r : BitVec 32) : List Nat :=
  match x.events.find? fun e => e.1 == r with
  | some e => e.2
  | none => []

/-- The events that the window holds. See log 69. -/
def inWindow (now : Nat) (l : List Nat) : Nat := (l.filter fun t => decide (now < t + healthWindow)).length

/-! ## Removals (R467, R468) -/

/-- No context holds a core of a cell. -/
def State.cellFree (s : State) (d : Fin 10) (p : Nat × Nat) : Bool := !(s.heldCells d fun _ => false).contains p

/-- A die leaves service; its trace sessions end with REASON 3 (R358). -/
def State.dropDie (s : State) (d : Fin 10) : State :=
  (s.modDie d fun x => { x with outOfService := true }).endSessions (fun x => x.die == d) 3

/-- A removal acts as far as the core and the die are free. -/
def State.remove (s : State) (r : BitVec 32) : State :=
  let d := ridDieNo r
  let done (s : State) : State := s.modDie d fun x => { x with pendingRemoval := x.pendingRemoval.filter (· ≠ r) }
  let leaves := s.dieLeaves r
  let s := if ridKind r = 1 && s.cellFree d (ridCell r) && !(s.die d).removedCores.contains (ridCell r) then
      s.modDie d fun x => { x with removedCores := ridCell r :: x.removedCores }
    else s
  if leaves then (if (s.heldCells d fun _ => false).isEmpty then (done s).dropDie d else s)
  else if ridKind r = 1 then (if (s.die d).removedCores.contains (ridCell r) then done s else s)
  else done s

/-- RESOURCE_REMOVAL: a pending removal takes effect once the core or die holds no resident context. -/
def execResourceRemoval (rid : BitVec 32) (s : State) : Out :=
  .next (if (s.die (ridDieNo rid)).pendingRemoval.contains rid then s.remove rid else s)

/-- The tag of the stored list of removals, four bytes to an RID (R459, R468; log 69). -/
def removalsTag (rs : List (BitVec 32)) : List Byte := shake256 (rs.flatMap (fun r => leBytes 4 r.toNat) ++ storeKey) 32

/-- A fault has become lasting: the removal is stored, waits for its core or die, and is reported by EVENT 10. -/
def State.becomeLasting (s : State) (r : BitVec 32) : State :=
  let state := if s.dieLeaves r then 2 else 1
  let s := s.modFirm fun x => { x with lasting := r :: x.lasting, removals := r :: x.removals, removalTag := removalsTag (r :: x.removals) }
  let s := s.modDie (ridDieNo r) fun x => { x with pendingRemoval := x.pendingRemoval ++ [r] }
  (s.sendEvent 10 r.toNat state []).remove r

/-- 64 bytes of which nothing is known. -/
def State.freeLine (s : State) : VWord × State :=
  let p := (List.range 64).foldl (fun (p : Nat × State) i =>
    (p.1 + (Config.freeByte p.2.free).toNat * 2 ^ (8 * i), { p.2 with free := p.2.free + 1 })) (0, s)
  (BitVec.ofNat 512 p.1, p.2)

/-- A granule of a core's pool takes a line: scratchpad, vector register or part of a tile (R68, R69). -/
def Core.putLine (c : Core) (part : Word) (g : Nat) (x : VWord) : Core :=
  let o := g * 64
  let spb := partSPB part
  let tiles := 0x100000 - partTG part * 4096
  if o < spb then { c with sp := memWrite c.sp o 64 x.toNat }
  else if o < spb + 8 * partNV part * 64 then
    let n := (o - spb) / 64
    c.modSlot (Fin.ofNat 8 (n / partNV part)) fun t =>
      let v : VReg := Fin.ofNat 32 (n % partNV part)
      { t with v := t.v.set v.val x }
  else if o < tiles then c
  else
    let n := (o - tiles) / 576
    let k := (o - tiles) % 576 / 64
    if n < 8 * partNT part then
      c.modSlot (Fin.ofNat 8 (n / partNT part)) fun t =>
        let r : TReg := Fin.ofNat 16 (n % partNT part)
        let y := t.t[r.val]
        let y := if k = 8 then { y with side := x }
          else { y with data := (y.data &&& ~~~(BitVec.ofNat 4096 (2 ^ 512 - 1) <<< (512 * k))) ||| (x.zeroExtend 4096 <<< (512 * k)) }
        { t with t := t.t.set r.val y }
    else c

/-- The core of a pool bank's RID, when a context holds it. -/
def State.ridCore (s : State) (r : BitVec 32) : Option Core :=
  s.live.find? fun c => ridKind r == 1 && c.die == ridDieNo r && c.holdsPlace && (c.x.val, c.y.val) == ridCell r

/-- An uncorrectable error in an instruction store, of some core and unit: no countable resource holds it (R217, R465; log 100). -/
def State.storeError (s : State) : State :=
  let cores := s.live.filter Core.holdsPlace
  let (i, s) := s.pick cores.length
  let (u, s) := s.pick (2 ^ 14)
  match cores[i]? with
  | some c => s.modCore c.key fun c => { c with istoreBad := insertNat u c.istoreBad }
  | none => s

/-- An uncorrectable error poisons the granule that holds it; its bytes are not known any more (R72, R442; log 100). -/
def State.spoil (s : State) (rid : BitVec 32) : DetectedError → State
  | .corrected => s
  | .pool g =>
    match s.ridCore rid with
    | none => s
    | some c =>
      if g < 2 ^ 14 then
        let (x, s) := s.freeLine
        let part := (s.recordOf c.key.ctx).part
        s.modCore c.key fun c => { c.putLine part g x with poison := insertNat g c.poison }
      else s
  | .memory g =>
    if covered populated 16 (g * 64) (g * 64 + 64) then
      let (x, s) := s.freeLine
      { s with mem := memWrite s.mem (g * 64) 64 x.toNat, memPoison := insertNat g s.memPoison }
    else s

/-- An uncorrectable error in capacity memory, at any granule: no countable resource holds it (R17, R442, R465; log 100). -/
def State.capacityError (s : State) : State :=
  let (g, s) := s.pick (2 ^ 34)
  s.spoil 0 (.memory (0x8000000000 / 64 + g))

/-- What an error of a resource turns out to be is free: corrected, or uncorrectable at any granule that the resource may hold: of a pool
bank's core, or of the stack of a channel's die. Capacity memory and the instruction stores have no RID (log 100). -/
def State.pickError (s : State) (rid : BitVec 32) : DetectedError × State :=
  let (k, s) := s.pick 2
  let (g, s) := s.pick (48 * 2 ^ 24)
  (if k = 0 then .corrected
   else if ridKind rid = 1 then .pool (g % 2 ^ 14)
   else if ridKind rid = 2 then .memory (ridDie rid * 2 ^ 30 + g) else .corrected, s)

/-- ERROR_EVENT: an error is detected: what it poisons, and one event of the resource that holds it; the fault becomes lasting at the
event that brings the count up to T (R465, R466). -/
def execErrorEvent (rid : BitVec 32) (s : State) : Out :=
  .next (
    if !ridOk rid then s
    else
      let (e, s) := s.pickError rid
      let s := s.spoil rid e
      let now := s.now
      let t := s.firm.threshold rid
      let l := (now :: s.firm.eventsOf rid).take t
      let s := s.modFirm fun x => { x with events := (rid, l) :: x.events.filter fun e => e.1 ≠ rid }
      if t ≤ inWindow now l && !s.firm.lasting.contains rid then s.becomeLasting rid else s)

/-! ## Health frames (R466, R468 to R470) -/

/-- HEALTHCFG: KIND in word 1 bits 35:32, T in bits 15:0. -/
def execHealthcfg (f : Frame) (s : State) : Out :=
  frameOp .healthcfg f s fun s =>
    let kind := bitsNat (f.word 1) 35 32
    let t := bitsNat (f.word 1) 15 0
    if h : 1 ≤ kind ∧ kind ≤ 3 ∧ t ≠ 0 then
      (s.modFirm fun x => { x with thresholds := x.thresholds.set (kind - 1) t (by omega) }).respond f 0 []
    else s.refuse f 0

/-- STATE of Table 27-4. -/
def State.healthState (s : State) (r : BitVec 32) : Nat :=
  let d := s.die (ridDieNo r)
  if d.pendingRemoval.contains r then 3
  else if d.outOfService && ridKind r != 3 then 2
  else if s.firm.removals.contains r || (ridKind r = 1 && d.removedCores.contains (ridCell r)) then 1
  else 0

/-- A monitor as Table 27-4 gives it: minimum and maximum, then the buckets, two to a word. See log 70. -/
def Monitor.words (m : Monitor) : List Word :=
  (m.min ++ m.max : BitVec 64) :: (List.range 8).map fun i =>
    BitVec.ofNat 64 ((m.buckets.toList.getD (2 * i + 1) 0).toNat * 2 ^ 32 + (m.buckets.toList.getD (2 * i) 0).toNat)

/-- The monitors of a cell. -/
def State.cellMonitors (s : State) (d : Fin 10) (p : Nat × Nat) : Vector Monitor 7 :=
  match s.live.find? fun c => c.die == d && c.holdsPlace && (c.x.val, c.y.val) == p with
  | some c => c.monitors
  | none => match (s.die d).kept.find? fun k => (k.1, k.2.1) == p with
    | some k => k.2.2
    | none => Vector.replicate 7 Monitor.reset

def execHealthrd (f : Frame) (s : State) : Out :=
  frameOp .healthrd f s fun s =>
    let r : BitVec 32 := (f.word 1).truncate 32
    if !ridOk r then s.refuse f 0
    else
      let l := s.firm.eventsOf r
      let w0 := pack [(16, inWindow s.now l), (16, s.firm.threshold r), (2, s.healthState r), (30, 0)]
      let mon := match ridKind r with
        | 1 => (s.cellMonitors (ridDieNo r) (ridCell r)).toList.flatMap Monitor.words
        | 2 => (s.die (ridDieNo r)).latency.words
        | _ => []
      s.respond f 0 (BitVec.ofNat 64 w0 :: BitVec.ofNat 64 (l.headD 0) :: mon ++ List.replicate (63 - mon.length) 0)

/-- HEARTBEAT: STATUS 1 with the failed step in the failed state (R457). -/
def execHeartbeat (f : Frame) (s : State) : Out :=
  frameOp .heartbeat f s fun s =>
    match s.firm.service with
    | .failed n => s.refuse f n
    | _ => s.respond f 0 []

/-- RESTORE: the removal of an RID is undone at the next start. -/
def execRestore (f : Frame) (s : State) : Out :=
  frameOp .restore f s fun s =>
    let r : BitVec 32 := (f.word 1).truncate 32
    if s.firm.removals.contains r then (s.modFirm fun x => { x with restores := r :: x.restores }).respond f 0 []
    else s.refuse f 0

end Sys2Proof.Machine
end

