-- ==== Sys2Proof/Machine/Matrix.lean ====
section
/-!
DEFINITION. Meanings of the M slot (R285 to R298).
-/
namespace Sys2Proof.Machine

open Sys2Proof

/-! ## Tiles -/

/-- The format of a tile's descriptor; 7 never stands in one. -/
def Tile.f (x : Tile) : Fmt := (Fmt.ofCode x.fmt.toNat).getD .fp64

/-- A shape that operations may use (R63). -/
def Tile.shaped (x : Tile) : Bool := x.rows != 0 && x.cols != 0

def Tile.count (x : Tile) : Nat := x.rows.toNat * x.cols.toNat

/-- Element i of a tile (R285). -/
def Tile.el (x : Tile) (i : Nat) : Nat := laneAt x.f.width x.data i

/-- Sidecar byte i. -/
def Tile.sc (x : Tile) (i : Nat) : Nat := laneAt 8 x.side i

/-- A tile with a descriptor, valid and dirty. -/
def mkTile (data : TileBits) (side : VWord) (f : Fmt) (rows cols : Byte) : Tile :=
  ⟨data, side, true, true, false, BitVec.ofNat 4 f.code, rows, cols⟩

/-- The block shapes of R286: 8×128 and 128×8. -/
def Tile.rowBlocks (x : Tile) : Bool := x.rows == 8 && x.cols == 128
def Tile.colBlocks (x : Tile) : Bool := x.rows == 128 && x.cols == 8

/-- The sidecar byte of the block of element i (R286). -/
def Tile.blockOf (x : Tile) (i : Nat) : Nat :=
  let r := i / Nat.max x.cols.toNat 1
  let c := i % Nat.max x.cols.toNat 1
  if x.rowBlocks then 8 * r + c / 16 else 8 * (r / 16) + c

/-- The value of a floating-point element; an E2M1 element of a block shape takes its scale (R295). -/
def Tile.val (x : Tile) (i : Nat) : FVal :=
  let v := fpDecode x.f (x.el i)
  if x.scaled then v.scale (scaleExp (x.sc (x.blockOf i))) else v

/-- A shape check fails (R289). -/
def shapeTrap (ok : Bool) : List Trap := if ok then [] else [trapIllegal 2]

/-- A form whose result elements may raise classes: its shape check, its FP trap at the lowest element (log 80), and its tile. -/
def tileOp (i : Instr) (d : TReg) (ok : State → Bool) (res : State → List (Nat × Nat × Classes))
    (tile : State → List (Nat × Nat × Classes) → Tile) (s : State) : Out :=
  .next (slotOp i s
    (fun s => shapeTrap (ok s) ++ fpTraps 2 s ((resultRaised (res s)).map fun x => (x.1 % 64, x.2)))
    fun s =>
      let r := res s
      (s.setT d (tile s r) true).orFlags (resultRaised r).all)

/-- A form that raises nothing. -/
def tileMove (i : Instr) (d : TReg) (ok : State → Bool) (tile : State → Tile) (s : State) : Out :=
  .next (slotOp i s (fun s => shapeTrap (ok s)) fun s => s.setT d (tile s) true)

/-! ## MMA (R198, R291) -/

/-- Group size and accumulator format of an input format (Table 13-2). -/
def mmaParams : Fmt → Nat × Fmt
  | .fp64 => (1, .fp64)
  | .fp32 => (2, .fp32)
  | .fp16 | .bf16 => (4, .fp32)
  | .i8 => (8, .i32)
  | .e2m1 => (16, .fp32)
  | _ => (8, .fp32)

/-- The shape checks of R291. -/
def mmaShapes (f : Fmt) (d a b : Tile) : Bool :=
  let p := mmaParams f
  let n := 8 * p.1
  a.f == f && b.f == f && a.rows == 8 && a.cols.toNat == n && b.rows.toNat == n && b.cols == 8
  && d.f == p.2 && d.rows == 8 && d.cols == 8

/-- Element (i, j) of the accumulator: acc is its encoding before, +0 for MMAZ (R198). -/
def State.mmaElement (s : State) (f : Fmt) (a b : Tile) (g acc i j : Nat) : Nat × Classes :=
  let k := (mmaParams f).1
  let af := (mmaParams f).2
  let ai (l : Nat) := i * a.cols.toNat + g * k + l
  let bi (l : Nat) := (g * k + l) * b.cols.toNat + j
  if f = .i8 then
    let v := (List.range k).foldl (fun (v : Int) l => v + intVal .i8 (a.el (ai l)) * intVal .i8 (b.el (bi l)))
      (intVal .i32 acc)
    (intBits .i32 v, 0)
  else
    let ps := (List.range k).map fun l => fpMul (a.val (ai l)) (b.val (bi l))
    let x := fpSum (fpDecode af acc :: ps.map (·.1)) (s.mode .dyn)
    let inv := ps.foldl (fun (c : Classes) p => c ||| p.2) 0
    let mode := s.mode .dyn
    let y := roundTo af x.1 mode (s.srBits mode (128 + 8 * i + j)) false
    (y.1, y.2 ||| x.2 ||| inv)

def State.mmaResults (s : State) (f : Fmt) (d a b : Tile) (g : Nat) (zero : Bool) : List (Nat × Nat × Classes) :=
  laneResults 64 (fun _ => true) fun e => s.mmaElement f a b g (if zero then 0 else d.el e) (e / 8) (e % 8)

/-- The tile after an MMA: the 64 elements replaced, spare bytes and sidecar kept (R291). -/
def mmaTile (f : Fmt) (old : Tile) (r : List (Nat × Nat × Classes)) : Tile :=
  let w := (mmaParams f).2.width
  let low : TileBits := BitVec.ofNat 4096 (2 ^ (64 * w) - 1)
  mkTile ((old.data &&& ~~~low) ||| resultValue 4096 w r) old.side (mmaParams f).2 8 8

def execMma (g : Guard) (d a b : TReg) (grp : Fin 8) (f : Fmt) (s : State) : Out :=
  tileOp (.mma g d a b grp f) d (fun s => mmaShapes f (s.rt d) (s.rt a) (s.rt b))
    (fun s => s.mmaResults f (s.rt d) (s.rt a) (s.rt b) grp.val false) (fun s r => mmaTile f (s.rt d) r) s

def execMmaz (g : Guard) (d a b : TReg) (grp : Fin 8) (f : Fmt) (s : State) : Out :=
  tileOp (.mmaz g d a b grp f) d (fun s => mmaShapes f (s.rt d) (s.rt a) (s.rt b))
    (fun s => s.mmaResults f (s.rt d) (s.rt a) (s.rt b) grp.val true)
    (fun s r => mmaTile f { s.rt d with data := 0, side := 0 } r) s

/-! ## Configuration and status (R292, R293) -/

def execTzero (g : Guard) (d : TReg) (s : State) : Out :=
  .next (slotOp (.tzero g d) s noChecks fun s =>
    s.setT d { s.rt d with data := 0, side := 0, valid := true, dirty := true } true)

def execTcfg (g : Guard) (d : TReg) (f : Fmt) (rows cols : Byte) (s : State) : Out :=
  .next (slotOp (.tcfg g d f rows cols) s noChecks fun s =>
    s.setT d { s.cur.pre.t[d.val] with fmt := BitVec.ofNat 4 f.code, rows := rows, cols := cols, valid := false,
                                       dirty := false } false)

def execTinv (g : Guard) (d : TReg) (s : State) : Out :=
  .next (slotOp (.tinv g d) s noChecks fun s =>
    s.setT d { s.cur.pre.t[d.val] with valid := false, dirty := false } false)

/-! ## Whole-tile moves and arithmetic (R294 to R297) -/

def execTmov (g : Guard) (d a : TReg) (s : State) : Out :=
  tileMove (.tmov g d a) d (fun s => (s.rt a).shaped) (fun s => { s.rt a with valid := true, dirty := true }) s

/-- TTRN's tile. -/
def Tile.transpose (x : Tile) : Tile :=
  let rows := x.rows.toNat
  let cols := x.cols.toNat
  let w := x.f.width
  mkTile (ofLanes 4096 w (rows * cols) fun i => x.el (i % rows * cols + i / rows))
    (ofLanes 512 8 64 fun i => x.sc (8 * (i % 8) + i / 8)) x.f x.cols x.rows

def execTtrn (g : Guard) (d a : TReg) (s : State) : Out :=
  tileMove (.ttrn g d a) d (fun s => (s.rt a).shaped) (fun s => (s.rt a).transpose) s

/-- The lane argument of SR for M-slot forms other than MMA (R290). -/
def matLane (i : Nat) : Nat := 128 + i % 64

/-- The value of element i of any tile as an exact number or NaN. -/
def Tile.number (x : Tile) (i : Nat) : FVal :=
  if x.f.isFloat then x.val i
  else let v := intVal x.f (x.el i); .fin (v < 0) v.natAbs 0

/-- The elements of a block: those whose sidecar byte is b. -/
def Tile.blockElements (x : Tile) (b : Nat) : List Nat := (List.range x.count).filter fun i => x.blockOf i = b

/-- TCVT into block-scaled E2M1 (R188): element i with the classes it raises; a NaN block raises INVALID once, at its
first element. -/
def State.tcvtBlock (s : State) (x : Tile) (r : Rnd) (i : Nat) : Nat × Classes :=
  let els := x.blockElements (x.blockOf i)
  let sc := scaleFor (els.map x.number)
  if sc = 255 then (0, if els.head? = some i then clsNV else 0)
  else
    let mode := s.mode r
    roundTo .e2m1 ((x.number i).scale (some (127 - (sc : Int)))).exact mode (s.srBits mode (matLane i)) false

/-- TCVT of one element to a format other than block-scaled E2M1 (Table 13-3). -/
def State.tcvtElement (s : State) (x : Tile) (dst : Fmt) (r : Rnd) (i : Nat) : Nat × Classes :=
  let mode := s.mode r
  let h := s.srBits mode (matLane i)
  if x.f = dst then (if dst.isFloat then fpCanon dst (x.el i) else x.el i, 0)
  else if x.f.isFloat then
    if dst.isFloat then roundTo dst (x.val i).exact mode h false else fpToInt dst (x.val i) mode h
  else if dst.isFloat then roundTo dst (intExact (intVal x.f (x.el i))) mode h false
  else (intResult dst true (intVal x.f (x.el i)), 0)

/-- See log 40. -/
def State.tcvtResults (s : State) (x : Tile) (dst : Fmt) (r : Rnd) : List (Nat × Nat × Classes) :=
  laneResults x.count (fun _ => true) fun i =>
    if dst = .e2m1 ∧ x.f ≠ .e2m1 then s.tcvtBlock x r i else s.tcvtElement x dst r i

/-- TCVT's tile. -/
def tcvtTile (x : Tile) (dst : Fmt) (r : List (Nat × Nat × Classes)) : Tile :=
  if dst = .e2m1 ∧ x.f = .e2m1 then { x with valid := true, dirty := true }
  else mkTile (resultValue 4096 dst.width r)
    (if dst = .e2m1 then ofLanes 512 8 64 fun b => scaleFor ((x.blockElements b).map x.number) else 0) dst x.rows x.cols

def execTcvt (g : Guard) (d a : TReg) (dst : Fmt) (r : Rnd) (s : State) : Out :=
  tileOp (.tcvt g d a dst r) d
    (fun s => (s.rt a).shaped && (s.rt a).count * dst.width ≤ 4096
      && (dst != .e2m1 || (s.rt a).f == .e2m1 || (s.rt a).rowBlocks || (s.rt a).colBlocks))
    (fun s => s.tcvtResults (s.rt a) dst r) (fun s x => tcvtTile (s.rt a) dst x) s

/-- TADD's element (R296). -/
def State.taddElement (s : State) (x y : Tile) (f : Fmt) (r : Rnd) (i : Nat) : Nat × Classes :=
  if f.isFloat then
    let mode := s.mode r
    let z := fpSum [fpDecode f (x.el i), fpDecode f (y.el i)] mode
    let v := roundTo f z.1 mode (s.srBits mode (matLane i)) false
    (v.1, v.2 ||| z.2)
  else (intBits f (intVal f (x.el i) + intVal f (y.el i)), 0)

def execTadd (g : Guard) (d a b : TReg) (f : Fmt) (r : Rnd) (s : State) : Out :=
  tileOp (.tadd g d a b f r) d
    (fun s => (s.rt a).shaped && (s.rt b).shaped && (s.rt a).f == f && (s.rt b).f == f
      && (s.rt a).rows == (s.rt b).rows && (s.rt a).cols == (s.rt b).cols)
    (fun s => laneResults (s.rt a).count (fun _ => true) (s.taddElement (s.rt a) (s.rt b) f r))
    (fun s x => mkTile (resultValue 4096 f.width x) 0 f (s.rt a).rows (s.rt a).cols) s

/-- The index of TSCALE's factor for element i of TA (R297). -/
def scaleIndex (mode : ScaleMode) (cols i : Nat) : Nat :=
  match mode with
  | .row => i / cols
  | .col => i % cols
  | .elem => i

/-- TSCALE's element. -/
def State.tscaleElement (s : State) (x y : Tile) (f : Fmt) (mode : ScaleMode) (i : Nat) : Nat × Classes :=
  let m := s.mode .dyn
  let p := fpMul (fpDecode f (x.el i)) (fpDecode f (y.el (scaleIndex mode x.cols.toNat i)))
  let v := roundTo f p.1.exact m (s.srBits m (matLane i)) false
  (v.1, v.2 ||| p.2)

/-- TSCALE's shape check. -/
def scaleShapes (mode : ScaleMode) (f : Fmt) (x y : Tile) : Bool :=
  x.shaped && y.shaped && x.f == f && y.f == f &&
  match mode with
  | .row => x.rows.toNat ≤ y.cols.toNat
  | .col => x.cols.toNat ≤ y.cols.toNat
  | .elem => x.rows == y.rows && x.cols == y.cols

def execTscale (g : Guard) (mode : ScaleMode) (d a b : TReg) (f : Fmt) (s : State) : Out :=
  tileOp (.tscale g mode d a b f) d (fun s => scaleShapes mode f (s.rt a) (s.rt b))
    (fun s => laneResults (s.rt a).count (fun _ => true) (s.tscaleElement (s.rt a) (s.rt b) f mode))
    (fun s x => mkTile (resultValue 4096 f.width x) 0 f (s.rt a).rows (s.rt a).cols) s

/-! ## Rows between tiles and vector registers (R298) -/

/-- TROWI writes one row; the other bytes of an undefined tile read 0, and so become 0 (R62, R298). -/
def execTrowi (g : Guard) (d : TReg) (v : VReg) (row : Fin 8) (s : State) : Out :=
  .next (slotOp (.trowi g d v row) s noChecks fun s =>
    let x := s.rt d
    let m : TileBits := BitVec.ofNat 4096 ((2 ^ 512 - 1) * 2 ^ (512 * row.val))
    let put : TileBits := BitVec.ofNat 4096 ((s.rv v).toNat * 2 ^ (512 * row.val))
    let y := { x with data := (x.data &&& ~~~m) ||| put, valid := true, dirty := true }
    s.setT d y true)

def execTrowx (g : Guard) (v : VReg) (src : TReg) (row : Fin 8) (s : State) : Out :=
  .next (slotOp (.trowx g v src row) s noChecks fun s => s.setV v (BitVec.ofNat 512 (laneAt 512 (s.rt src).data row.val)))

end Sys2Proof.Machine
end

