-- ==== Sys2Proof/Machine/Startup.lean ====
section
/-!
DEFINITION. Start-up, the firmware image and the stored parameters (R156, R457 to R460, R468).
-/
namespace Sys2Proof.Machine

open Sys2Proof

/-! ## The image (R460) -/

/-- The bytes received, when every one from 0 to LEN − 1 is there. -/
def assemble (chunks : List (Nat × List Byte)) : Nat → List Byte → Option (List Byte)
  | 0, acc => some acc
  | n + 1, acc =>
    match chunks.find? fun c => c.1 == acc.length with
    | some c => if c.2.isEmpty then some acc else assemble chunks n (acc ++ c.2)
    | none => some acc

/-- The fields of Table 26-2. -/
def imageField (bs : List Byte) (hi lo : Nat) : Nat := natBits (ofLeBytes (bs.take 192)) hi lo

/-- LEN of the image whose first chunk has come. -/
def imageLen (chunks : List (Nat × List Byte)) : Option Nat :=
  match chunks.find? fun c => c.1 == 0 with
  | some c => if c.2.length < 192 then none else some (imageField c.2 1471 1440)
  | none => none

/-- The image is accepted: its digest, VERSION and MINV, or none. -/
def Firm.checkImage (x : Firm) (bs : List Byte) (len : Nat) : Option (List Byte × Nat × Nat) :=
  let digest := shake256 ((bs.take len).drop 192) 64
  let sig := leBytes 114 (imageField bs 911 0)
  if imageField bs 1535 1504 == 0x56465701 && decide (192 ≤ len) && decide (len ≤ 16 * 2 ^ 20) && decide (len ≤ bs.length)
      && decide (x.minVersion ≤ imageField bs 1503 1472) && Config.imageVerify digest sig then
    some (digest, imageField bs 1503 1472, imageField bs 1439 1424)
  else none

/-- A chunk is the last: its bytes reach LEN of the image's header, or, the chunks of two lanes having no order (R411), every byte of the
image has come with it. See log 106. -/
def lastChunk (chunks : List (Nat × List Byte)) (offset n : Nat) : Bool :=
  match imageLen chunks with
  | some len => decide (len ≤ offset + n) || decide (len ≤ ((assemble chunks (chunks.length + 1) []).getD []).length)
  | none => false

/-- IMAGE: a chunk in the boot ROM's hands; the last one verifies the whole. -/
def execImage (f : Frame) (s : State) : Out :=
  frameOp .image f s fun s =>
    let x := s.firm
    let offset := bitsNat (f.word 0) 55 0
    let bytes := f.payload.tail.flatMap fun w => leBytes 8 w.toNat
    if x.service ≠ .boot || x.accepted || offset % 4088 ≠ 0 then s.refuse f 0
    else
      let chunks := (offset, bytes) :: x.imageBytes.filter fun c => c.1 ≠ offset
      let s := s.modFirm fun x => { x with imageBytes := chunks }
      if !lastChunk chunks offset bytes.length then s.respond f 0 []
      else
        let len := (imageLen chunks).getD 0
        match (assemble chunks (chunks.length + 1) []).bind fun bs => x.checkImage bs len with
        | some (d, v, m) =>
          (s.modFirm fun x => { x with accepted := true, step := 2, fwDigest := d, version := v, minvNext := m }).respond f 0 []
        | none => (s.modFirm fun x => { x with imageBytes := [] }).refuse f 0

/-! ## The steps of a start (Table 26-1) -/

/-- The tag of stored parameters (R459). -/
def paramTag (ps : List Word) : List Byte := shake256 (ps.flatMap (fun w => leBytes 8 w.toNat) ++ storeKey) 32

/-- A step has failed: EVENT 9 and the failed state, in which the package runs no team: every context is gone (R457). -/
def State.failStart (s : State) (n : Nat) : State :=
  let s := (s.contexts.map (·.num)).foldl State.removeContext s
  (s.modFirm fun x => { x with service := .failed n, starting := none }).sendEvent 9 n 0 []

/-- Dies that a start excludes: those that a stored removal names (R457, R468). -/
def Die.exclude (x : Die) (d : Nat) (rs : List (BitVec 32)) : Die :=
  let mine := rs.filter fun r => ridDie r == d && ridKind r != 3
  let cells := (mine.filter fun r => ridKind r == 1).map ridCell |>.eraseDups
  { x with removedCores := cells,
           outOfService := mine.any (fun r => ridKind r == 2) || (decide (d < 8) && decide (4 < cells.length)) }

/-- The removals that a start keeps: those of the stored list, which its tag proves (R459, R468), that no RESTORE has named. The model
itself writes both, so the tag holds (log 69). -/
def Firm.keptRemovals (x : Firm) : List (BitVec 32) :=
  if x.removals.isEmpty || x.removalTag == removalsTag x.removals then x.removals.filter fun r => !x.restores.contains r else []

/-- A start begins: nothing is held but the fuses and what the board controller stores; the removals stand before step 3. See log 71. -/
def State.begin (s : State) (warm : Bool) (o : StartOutcome) : State :=
  let x := s.firm
  let rs := x.keptRemovals
  let firm : Firm := { Firm.reset with
    service := .boot, step := 1, minVersion := x.minVersion, accepted := false, plock := false, storedParams := x.storedParams
    storedTag := x.storedTag, clock := x.clock, starting := some (warm, o), removals := rs, removalTag := removalsTag rs, lasting := rs }
  let dies : Vector Die 10 := Vector.ofFn fun d =>
    { Die.reset with alock := false, errb := 0, edge := s.dies[d].edge, ahead := s.dies[d].ahead, dtick := s.dies[d].dtick }.exclude d.val rs
  let t := { State.reset with firm := firm, dies := dies, inputs := s.inputs, out := s.out, fabricOut := s.fabricOut,
                              free := s.free, fresh := s.fresh, nextCtx := s.nextCtx }
  match o.failed with
  | some 1 => t.failStart 1
  | some 2 => t.failStart 2
  | _ => t

/-- Change every die. -/
def State.modDies (s : State) (f : Nat → Die → Die) : State :=
  (List.finRange 10).foldl (fun s d => s.modDie d (f d.val)) s

/-- Step 4 of a start: one pulse from HD0 starts the TICKs of the compute dies at 0, within 2 ticks of each other (R156); the hub dies'
rates count from it. -/
def State.startPulse (s : State) : State :=
  let now := s.time
  let s := s.modDies fun d x => if 8 ≤ d then { x with rateFrom := (x.tick, []) } else x
  (List.finRange 8).foldl (fun s d =>
    let (n, s) := s.pick (2 * million)
    s.modDie (Fin.ofNat 10 d.val) fun x => { x with tick := 0, edge := Nat.max x.edge (now + n) }) s

/-- Step 5 of a start: stored parameters that their tag proves and every channel passes, else full training, whose parameters
are stored (R459). -/
def State.trainHbm (s : State) (warm : Bool) (o : StartOutcome) : State :=
  let x := s.firm
  let good := warm && o.storeGood && !x.storedTag.isEmpty && x.storedTag == paramTag x.storedParams
  if good then s else s.modFirm fun x => { x with storedParams := o.params, storedTag := paramTag o.params }

/-- Pass step n of a start (Table 26-1). -/
def State.passStep (s : State) (warm : Bool) (o : StartOutcome) (n : Nat) : State :=
  let s := s.modFirm fun x => { x with step := n }
  match n with
  | 3 => (s.modFirm fun x => { x with service := .reduced }).modDies fun d x =>
      if 8 ≤ d then { x with tick := 0, slowClock := true } else x
  | 4 => s.startPulse
  | 5 => s.trainHbm warm o
  | 6 => (List.finRange 10).foldl State.takeStamps (s.modFirm fun x => { x with service := .full, flights := o.flights })
  | 7 => s.modFirm fun x => { x with minVersion := Nat.max x.minVersion x.minvNext, starting := none }
  | _ => s

/-- The next step of a start that goes on by itself: from step 2 on, once the image is accepted. Step 7 passes when PTP locks. -/
def State.startStep (s : State) : State :=
  match s.firm.starting with
  | none => s
  | some (warm, o) =>
    let n := s.firm.step + 1
    if !s.firm.accepted || (n = 7 && !s.firm.plock && o.failed ≠ some 7) then s
    else if (o.failed.map (·.val)) = some n then s.failStart n
    else s.passStep warm o n

def execColdStart (o : StartOutcome) (s : State) : Out := .next (s.begin false o)

def execWarmStart (o : StartOutcome) (s : State) : Out := .next (s.begin true o)

end Sys2Proof.Machine
end

