-- ==== Sys2Proof/Machine/VectorFp.lean ====
section
/-!
DEFINITION. Meanings of the V slot's floating-point, compare, classify and conversion instructions (R267 to R271, R274 to
R276).
-/
namespace Sys2Proof.Machine

open Sys2Proof

/-- Round an exact result of lane i and add the classes that the operation itself raises. -/
def State.roundLane (s : State) (f : Fmt) (r : Rnd) (i : Nat) (x : Exact × Classes) : Nat × Classes :=
  let mode := s.mode r
  let y := roundTo f x.1 mode (s.srBits mode i) false
  (y.1, y.2 ||| x.2)

/-- A product as an exact result. -/
def exactProduct (a b : FVal) : Exact × Classes := let p := fpMul a b; (p.1.exact, p.2)

/-- a · b + c rounded once (R197); neg negates the product. -/
def exactFma (mode : Rnd) (neg : Bool) (a b c : FVal) : Exact × Classes :=
  let p := fpMul a b
  let x := fpSum [if neg then p.1.neg else p.1, c] mode
  (x.1, x.2 ||| p.2)

/-! ## Arithmetic (R267, R268) -/

def execVadd (g : Guard) (d a b : VReg) (k : KReg) (f : Fmt) (r : Rnd) (s : State) : Out :=
  vecOp (.vadd g d a b k f r) d k f
    (fun s i => s.roundLane f r i (fpSum [s.fa f a i, s.fa f b i] (s.mode r))) s

def execVsub (g : Guard) (d a b : VReg) (k : KReg) (f : Fmt) (r : Rnd) (s : State) : Out :=
  vecOp (.vsub g d a b k f r) d k f
    (fun s i => s.roundLane f r i (fpSum [s.fa f a i, (s.fa f b i).neg] (s.mode r))) s

def execVmul (g : Guard) (d a b : VReg) (k : KReg) (f : Fmt) (r : Rnd) (s : State) : Out :=
  vecOp (.vmul g d a b k f r) d k f
    (fun s i => s.roundLane f r i (exactProduct (s.fa f a i) (s.fa f b i))) s

def execVfma (g : Guard) (d a b c : VReg) (k : KReg) (f : Fmt) (r : Rnd) (s : State) : Out :=
  vecOp (.vfma g d a b c k f r) d k f
    (fun s i => s.roundLane f r i (exactFma (s.mode r) false (s.fa f a i) (s.fa f b i) (s.fa f c i))) s

def execVfms (g : Guard) (d a b c : VReg) (k : KReg) (f : Fmt) (r : Rnd) (s : State) : Out :=
  vecOp (.vfms g d a b c k f r) d k f
    (fun s i => s.roundLane f r i (exactFma (s.mode r) false (s.fa f a i) (s.fa f b i) (s.fa f c i).neg)) s

def execVfnma (g : Guard) (d a b c : VReg) (k : KReg) (f : Fmt) (r : Rnd) (s : State) : Out :=
  vecOp (.vfnma g d a b c k f r) d k f
    (fun s i => s.roundLane f r i (exactFma (s.mode r) true (s.fa f a i) (s.fa f b i) (s.fa f c i))) s

def execVdiv (g : Guard) (d a b : VReg) (k : KReg) (f : Fmt) (r : Rnd) (s : State) : Out :=
  vecLong (.vdiv g d a b k f r) d k f 4
    (fun s i => s.roundLane f r i (fpDivide (s.fa f a i) (s.fa f b i))) s

def execVsqrt (g : Guard) (d a : VReg) (k : KReg) (f : Fmt) (r : Rnd) (s : State) : Out :=
  vecLong (.vsqrt g d a k f r) d k f 4 (fun s i => s.roundLane f r i (fpSqrt (s.fa f a i))) s

def execVrcp (g : Guard) (d a : VReg) (k : KReg) (f : Fmt) (r : Rnd) (s : State) : Out :=
  vecOp (.vrcp g d a k f r) d k f (fun s i => s.roundLane f r i (fpRcp (s.fa f a i))) s

def execVrsq (g : Guard) (d a : VReg) (k : KReg) (f : Fmt) (r : Rnd) (s : State) : Out :=
  vecOp (.vrsq g d a k f r) d k f (fun s i => s.roundLane f r i (fpRsq (s.fa f a i))) s

def execVexp2 (g : Guard) (d a : VReg) (k : KReg) (f : Fmt) (r : Rnd) (s : State) : Out :=
  vecLong (.vexp2 g d a k f r) d k f 2 (fun s i => s.roundLane f r i (fpExp2 (s.fa f a i))) s

def execVlog2 (g : Guard) (d a : VReg) (k : KReg) (f : Fmt) (r : Rnd) (s : State) : Out :=
  vecLong (.vlog2 g d a k f r) d k f 2 (fun s i => s.roundLane f r i (fpLog2 (s.fa f a i))) s

/-! ## Minimum, maximum and signs (R269) -/

def execVmin (g : Guard) (d a b : VReg) (k : KReg) (f : Fmt) (s : State) : Out :=
  vecOp (.vmin g d a b k f) d k f (fun s i => (fpMinMax f false (s.va f a i) (s.va f b i), 0)) s

def execVmax (g : Guard) (d a b : VReg) (k : KReg) (f : Fmt) (s : State) : Out :=
  vecOp (.vmax g d a b k f) d k f (fun s i => (fpMinMax f true (s.va f a i) (s.va f b i), 0)) s

/-- The magnitude bits of an element. -/
def fpMagnitude (f : Fmt) (x : Nat) : Nat := x % 2 ^ (f.width - 1)

/-- x with a sign; a NaN becomes canonical (R269). -/
def withSign (f : Fmt) (x : Nat) (neg : Bool) : Nat :=
  if (fpDecode f x).isNaN then canonNaN f else fpMagnitude f x + fpSignBit f neg

def execVabs (g : Guard) (d a : VReg) (k : KReg) (f : Fmt) (s : State) : Out :=
  vecOp (.vabs g d a k f) d k f (fun s i => (withSign f (s.va f a i) false, 0)) s

def execVneg (g : Guard) (d a : VReg) (k : KReg) (f : Fmt) (s : State) : Out :=
  vecOp (.vneg g d a k f) d k f (fun s i => (withSign f (s.va f a i) (!fpSign f (s.va f a i)), 0)) s

def execVcpys (g : Guard) (d a b : VReg) (k : KReg) (f : Fmt) (s : State) : Out :=
  vecOp (.vcpys g d a b k f) d k f (fun s i => (withSign f (s.va f a i) (fpSign f (s.va f b i)), 0)) s

/-! ## Compare and classify (R270, R271) -/

/-- Integer lanes: codes 2 to 5 signed, 6 to 9 unsigned, whatever the format. -/
def compareLane (c : Cond) (w x y : Nat) : Bool :=
  let si (v : Nat) : Int := if v < 2 ^ (w - 1) then v else (v : Int) - (2 ^ w : Nat)
  match c with
  | .eq => x == y
  | .ne => x != y
  | .lt => si x < si y
  | .ge => si x ≥ si y
  | .le => si x ≤ si y
  | .gt => si x > si y
  | .ltn => x < y
  | .gen => x ≥ y
  | .len => x ≤ y
  | .gtn => x > y
  | .un | .ord => false

def execVcmp (g : Guard) (cc : Cond) (d : KReg) (a b : VReg) (k : KReg) (f : Fmt) (s : State) : Out :=
  maskOp (.vcmp g cc d a b k f) d k f (fun s i =>
    if f.isFloat then fpCompare cc (s.fa f a i) (s.fa f b i)
    else (compareLane cc f.width (s.va f a i) (s.va f b i), 0)) s

def execVclass (g : Guard) (c : VClass) (d : KReg) (a : VReg) (k : KReg) (f : Fmt) (s : State) : Out :=
  maskOp (.vclass g c d a k f) d k f (fun s i => (fpClass f c (s.va f a i), 0)) s

/-! ## Conversion, pack and unpack (R274 to R276) -/

/-- Convert one element for destination element i. -/
def State.convertLane (s : State) (dst src : Fmt) (r : Rnd) (opt : Bool) (i x : Nat) : Nat × Classes :=
  let mode := s.mode r
  convert dst src x mode (s.srBits mode i) opt

/-- Elements that a VCVT converts. -/
def convLanes (dst src : Fmt) : Nat := 512 / Nat.max dst.width src.width

def execVcvt (g : Guard) (d a : VReg) (k : KReg) (dst src : Fmt) (r : Rnd) (opt : Bool) (s : State) : Out :=
  let e := convLanes dst src
  let res (s : State) := laneResults e (laneOn dst (s.rk k)) fun i => s.convertLane dst src r opt i (s.va src a i)
  .next (slotOp (.vcvt g d a k dst src r opt) s (fun s => fpTraps 1 s (resultRaised (res s))) fun s =>
    let x := res s
    (s.setVm d (resultValue 512 dst.width x) (lanesMask dst.width dst.lanes fun i => e ≤ i || laneOn dst (s.rk k) i)).orFlags
      (resultRaised x).all)

def execVpack (g : Guard) (d a b : VReg) (k : KReg) (dst src : Fmt) (r : Rnd) (opt : Bool) (s : State) : Out :=
  vecOp (.vpack g d a b k dst src r opt) d k dst (fun s i =>
    let m := src.lanes
    s.convertLane dst src r opt i (if i < m then s.va src a i else s.va src b (i - m))) s

def execVunpk (g : Guard) (d a : VReg) (k : KReg) (dst src : Fmt) (s : State) : Out :=
  .next (slotOp (.vunpk g d a k dst src) s noChecks fun s =>
    let m := dst.lanes
    let half (h : Nat) := ofLanes 512 dst.width m fun i => (convert dst src (s.va src a (h * m + i)) .rne 0 false).1
    let on := activeMask dst (s.rk k)
    (s.setVm d (half 0) on).setVm (regAfter d 1) (half 1) on)

end Sys2Proof.Machine
end

