-- ==== Sys2Proof/Machine/VectorInt.lean ====
section
/-!
DEFINITION. Meanings of the V slot's integer, shift and logic instructions and of VHASH (R272, R273, R284).
-/
namespace Sys2Proof.Machine

open Sys2Proof

/-- Element i of a vector operand as the format's integer (R189). -/
def State.ia (s : State) (f : Fmt) (a : VReg) (i : Nat) : Int := intVal f (s.va f a i)

/-! ## Integer arithmetic (R272) -/

def execViadd (g : Guard) (d a b : VReg) (k : KReg) (f : Fmt) (sat : Bool) (s : State) : Out :=
  vecOp (.viadd g d a b k f sat) d k f (fun s i => (intResult f sat (s.ia f a i + s.ia f b i), 0)) s

def execVisub (g : Guard) (d a b : VReg) (k : KReg) (f : Fmt) (sat : Bool) (s : State) : Out :=
  vecOp (.visub g d a b k f sat) d k f (fun s i => (intResult f sat (s.ia f a i - s.ia f b i), 0)) s

def execVimul (g : Guard) (d a b : VReg) (k : KReg) (f : Fmt) (sat : Bool) (s : State) : Out :=
  vecOp (.vimul g d a b k f sat) d k f (fun s i => (intResult f sat (s.ia f a i * s.ia f b i), 0)) s

def execVimulh (g : Guard) (d a b : VReg) (k : KReg) (f : Fmt) (s : State) : Out :=
  vecOp (.vimulh g d a b k f) d k f (fun s i => (intBits f (Int.fdiv (s.ia f a i * s.ia f b i) (2 ^ f.width : Nat)), 0)) s

def execVimin (g : Guard) (d a b : VReg) (k : KReg) (f : Fmt) (s : State) : Out :=
  vecOp (.vimin g d a b k f) d k f (fun s i => (intBits f (if s.ia f a i ≤ s.ia f b i then s.ia f a i else s.ia f b i), 0)) s

def execVimax (g : Guard) (d a b : VReg) (k : KReg) (f : Fmt) (s : State) : Out :=
  vecOp (.vimax g d a b k f) d k f (fun s i => (intBits f (if s.ia f a i ≤ s.ia f b i then s.ia f b i else s.ia f a i), 0)) s

def execViabs (g : Guard) (d a : VReg) (k : KReg) (f : Fmt) (sat : Bool) (s : State) : Out :=
  vecOp (.viabs g d a k f sat) d k f (fun s i => (intResult f sat (s.ia f a i).natAbs, 0)) s

/-! ## Shift and logic (R273) -/

/-- The shift count of an element. -/
def laneCount (f : Fmt) (b : Nat) : Nat := b % f.width

/-- x shifted right with copies of its top bit. -/
def laneSra (w x n : Nat) : Nat :=
  let v : Int := if x < 2 ^ (w - 1) then x else (x : Int) - (2 ^ w : Nat)
  (Int.fdiv v (2 ^ n : Nat) % (2 ^ w : Nat)).toNat

def execVshl (g : Guard) (d a b : VReg) (k : KReg) (f : Fmt) (s : State) : Out :=
  vecOp (.vshl g d a b k f) d k f (fun s i => (s.va f a i * 2 ^ laneCount f (s.va f b i) % 2 ^ f.width, 0)) s

def execVshr (g : Guard) (d a b : VReg) (k : KReg) (f : Fmt) (s : State) : Out :=
  vecOp (.vshr g d a b k f) d k f (fun s i => (s.va f a i / 2 ^ laneCount f (s.va f b i), 0)) s

def execVsra (g : Guard) (d a b : VReg) (k : KReg) (f : Fmt) (s : State) : Out :=
  vecOp (.vsra g d a b k f) d k f (fun s i => (laneSra f.width (s.va f a i) (laneCount f (s.va f b i)), 0)) s

def execVand (g : Guard) (d a b : VReg) (k : KReg) (f : Fmt) (s : State) : Out :=
  vecOp (.vand g d a b k f) d k f (fun s i => (s.va f a i &&& s.va f b i, 0)) s

def execVor (g : Guard) (d a b : VReg) (k : KReg) (f : Fmt) (s : State) : Out :=
  vecOp (.vor g d a b k f) d k f (fun s i => (s.va f a i ||| s.va f b i, 0)) s

def execVxor (g : Guard) (d a b : VReg) (k : KReg) (f : Fmt) (s : State) : Out :=
  vecOp (.vxor g d a b k f) d k f (fun s i => (s.va f a i ^^^ s.va f b i, 0)) s

def execVandn (g : Guard) (d a b : VReg) (k : KReg) (f : Fmt) (s : State) : Out :=
  vecOp (.vandn g d a b k f) d k f (fun s i => (s.va f a i &&& (2 ^ f.width - 1 - s.va f b i), 0)) s

/-- The number of one bits below w. -/
def bitCount (w x : Nat) : Nat := (List.range w).countP fun i => x.testBit i

def execVpopc (g : Guard) (d a : VReg) (k : KReg) (f : Fmt) (s : State) : Out :=
  vecOp (.vpopc g d a k f) d k f (fun s i => (bitCount f.width (s.va f a i), 0)) s

/-! ## VHASH (R284) -/

def hashLane (f : Fmt) (b x : Nat) : Nat :=
  let z := (mix (BitVec.ofNat 64 x)).toNat
  if b = 0 then z % 2 ^ f.width else z / 2 ^ (64 - b)

def execVhash (g : Guard) (d a : VReg) (k : KReg) (f : Fmt) (b : Fin 32) (s : State) : Out :=
  vecOp (.vhash g d a k f b) d k f (fun s i => (hashLane f b.val (s.va f a i), 0)) s

end Sys2Proof.Machine
end

