-- ==== Sys2Proof/Machine/VectorMove.lean ====
section
/-!
DEFINITION. Meanings of the V slot's moves, permutations, reductions, dot product and mask instructions (R277 to R283).
-/
namespace Sys2Proof.Machine

open Sys2Proof

/-! ## Moves and lane access (R277, R278) -/

def execVmov (g : Guard) (d a : VReg) (k : KReg) (f : Fmt) (n : GroupSize) (s : State) : Out :=
  .next (slotOp (.vmov g d a k f n) s noChecks fun s =>
    (List.range n.size).foldl (fun s i => s.setVm (regAfter d i) (s.rv (regAfter a i)) (activeMask f (s.rk k))) s)

def execVsel (g : Guard) (d a b : VReg) (k : KReg) (f : Fmt) (s : State) : Out :=
  vecWhole (.vsel g d a b k f) d (fun s =>
    ofLanes 512 f.width f.lanes fun i => if laneOn f (s.rk k) i then s.va f a i else s.va f b i) s

def execVbcast (g : Guard) (d : VReg) (a : SReg) (k : KReg) (f : Fmt) (s : State) : Out :=
  vecOp (.vbcast g d a k f) d k f (fun s _ => ((s.rs a).toNat % 2 ^ f.width, 0)) s

def execVins (g : Guard) (d : VReg) (a : SReg) (f : Fmt) (j : BitVec 21) (s : State) : Out :=
  .next (slotOp (.vins g d a f j) s noChecks fun s =>
    s.setVm d (ofLanes 512 f.width f.lanes fun i => if i = j.toNat then (s.rs a).toNat else 0)
      (lanesMask f.width f.lanes fun i => i == j.toNat))

/-- An element extended to a scalar: sign for I formats, zero for the others (R278). -/
def extendLane (f : Fmt) (x : Nat) : Word := if f.isSigned then BitVec.ofInt 64 (intVal f x) else BitVec.ofNat 64 x

def execVext (g : Guard) (d : SReg) (a : VReg) (f : Fmt) (j : BitVec 21) (s : State) : Out :=
  .next (slotOp (.vext g d a f j) s noChecks fun s => s.setS d (extendLane f (s.va f a j.toNat)))

/-! ## Permutations (R279, R280) -/

def execVperm (g : Guard) (d a b : VReg) (k : KReg) (f : Fmt) (s : State) : Out :=
  vecOp (.vperm g d a b k f) d k f (fun s i => (s.va f a (s.va f b i % f.lanes), 0)) s

/-- The source of lane i under a pattern: whether it is B, and the lane. -/
def shufSource (pat : ShufPat) (h i : Nat) : Bool × Nat :=
  match pat with
  | .ziplo => (i % 2 == 1, i / 2)
  | .ziphi => (i % 2 == 1, h + i / 2)
  | .even => (decide (h ≤ i), 2 * (i % h))
  | .odd => (decide (h ≤ i), 2 * (i % h) + 1)

def execVshuf (g : Guard) (pat : ShufPat) (d a b : VReg) (k : KReg) (f : Fmt) (s : State) : Out :=
  vecOp (.vshuf g pat d a b k f) d k f (fun s i =>
    let x := shufSource pat (f.lanes / 2) i
    (s.va f (if x.1 then b else a) x.2, 0)) s

def execVrot (g : Guard) (d a : VReg) (k : KReg) (f : Fmt) (j : BitVec 21) (s : State) : Out :=
  vecOp (.vrot g d a k f j) d k f (fun s i => (s.va f a ((i + j.toNat) % f.lanes), 0)) s

/-- The number of set mask lanes below i. -/
def setBelow (f : Fmt) (k : Word) (i : Nat) : Nat := (List.range i).countP (laneOn f k)

def execVcomp (g : Guard) (d a : VReg) (k : KReg) (f : Fmt) (s : State) : Out :=
  vecWhole (.vcomp g d a k f) d (fun s =>
    let src := (List.range f.lanes).filter (laneOn f (s.rk k))
    ofLanes 512 f.width f.lanes fun j => match src[j]? with | some i => s.va f a i | none => 0) s

def execVexpd (g : Guard) (d a : VReg) (k : KReg) (f : Fmt) (s : State) : Out :=
  vecWhole (.vexpd g d a k f) d (fun s =>
    ofLanes 512 f.width f.lanes fun i =>
      if laneOn f (s.rk k) i then s.va f a (setBelow f (s.rk k) i) else 0) s

def execViota (g : Guard) (d : VReg) (k : KReg) (f : Fmt) (s : State) : Out :=
  vecWhole (.viota g d k f) d (fun s => ofLanes 512 f.width f.lanes fun i => setBelow f (s.rk k) i) s

/-! ## Reductions and scans (R199, R281) -/

/-- One Combine of two present values: the result and its classes; lane is the rounding argument (R281). -/
def State.redCombine (s : State) (op : RedOp) (f : Fmt) (r : Rnd) (sat : Bool) (lane x y : Nat) : Nat × Classes :=
  if f.isFloat then
    match op with
    | .sum => s.roundLane f r lane (fpSum [fpDecode f x, fpDecode f y] (s.mode r))
    | .min => (fpMinMax f false x y, 0)
    | _ => (fpMinMax f true x y, 0)
  else
    let a := intVal f x
    let b := intVal f y
    match op with
    | .sum => (intResult f sat (a + b), 0)
    | .min => (intBits f (if a ≤ b then a else b), 0)
    | .max => (intBits f (if a ≤ b then b else a), 0)
    | .and => (x &&& y, 0)
    | .or => (x ||| y, 0)
    | .xor => (x ^^^ y, 0)

/-- Combine of R199 on values that may be Absent, with the classes raised so far. -/
def combineOpt (c : Nat → Nat → Nat × Classes) (a b : Option Nat × Classes) : Option Nat × Classes :=
  match a.1, b.1 with
  | none, none => (none, a.2 ||| b.2)
  | some x, none => (some x, a.2 ||| b.2)
  | none, some y => (some y, a.2 ||| b.2)
  | some x, some y => let z := c x y; (some z.1, a.2 ||| b.2 ||| z.2)

/-- Node(j, 2^l) of R199; comb takes the rounding argument first. -/
def redNode (comb : Nat → Nat → Nat → Nat × Classes) (leaf : Nat → Option Nat) : Nat → Nat → Option Nat × Classes
  | 0, j => (leaf j, 0)
  | l + 1, j =>
    combineOpt (comb (2 * j * 2 ^ l + 2 ^ l)) (redNode comb leaf l (2 * j)) (redNode comb leaf l (2 * j + 1))

/-- The fold of R199 for lane i: bits b−1 to 0 of i + 1, lowest lane upward. -/
def scanFold (comb : Nat → Nat → Nat → Nat × Classes) (leaf : Nat → Option Nat) (i : Nat) :
    Nat → Nat → Option Nat × Classes → Option Nat × Classes
  | 0, _, acc => acc
  | b + 1, base, acc =>
    if (i + 1).testBit b then
      scanFold comb leaf i b (base + 2 ^ b) (combineOpt (comb base) acc (redNode comb leaf b (base / 2 ^ b)))
    else scanFold comb leaf i b base acc

/-- Table 12-9. -/
def redIdentity (op : RedOp) (f : Fmt) : Nat :=
  match op with
  | .sum | .or | .xor => 0
  | .min => if f.isFloat then fpInf f false else intBits f (intMax f)
  | .max => if f.isFloat then fpInf f true else intBits f (intMin f)
  | .and => 2 ^ f.width - 1

/-- The value of a reduction: Absent becomes the identity, a NaN the canonical NaN (R186). -/
def redValue (op : RedOp) (f : Fmt) (x : Option Nat) : Nat :=
  match x with
  | none => redIdentity op f
  | some v => if f.isFloat then fpCanon f v else v

/-- See log 37. -/
def State.redLeaf (s : State) (a : VReg) (k : KReg) (f : Fmt) (i : Nat) : Option Nat :=
  if laneOn f (s.rk k) i then some (s.va f a i) else none

/-- VRED's lane 0. -/
def State.vredResult (s : State) (op : RedOp) (a : VReg) (k : KReg) (f : Fmt) (r : Rnd) (sat : Bool) : Nat × Classes :=
  let x := redNode (s.redCombine op f r sat) (s.redLeaf a k f) (Nat.log2 f.lanes) 0
  (redValue op f x.1, x.2)

/-- VSCAN's lane i. -/
def State.vscanResult (s : State) (op : RedOp) (a : VReg) (k : KReg) (f : Fmt) (r : Rnd) (sat : Bool) (i : Nat) :
    Nat × Classes :=
  let x := scanFold (s.redCombine op f r sat) (s.redLeaf a k f) i (Nat.log2 f.lanes + 1) 0 (none, 0)
  (redValue op f x.1, x.2)

/-- A form whose every lane is written and may raise classes. -/
def vecWholeFp (i : Instr) (d : VReg) (f : Fmt) (res : State → List (Nat × Nat × Classes)) (s : State) : Out :=
  .next (slotOp i s (fun s => fpTraps 1 s (resultRaised (res s))) fun s =>
    let r := res s
    (s.setV d (resultValue 512 f.width r)).orFlags (resultRaised r).all)

def execVred (g : Guard) (op : RedOp) (d a : VReg) (k : KReg) (f : Fmt) (r : Rnd) (sat : Bool) (s : State) : Out :=
  vecWholeFp (.vred g op d a k f r sat) d f (fun s => [(0, s.vredResult op a k f r sat)]) s

def execVscan (g : Guard) (op : RedOp) (d a : VReg) (k : KReg) (f : Fmt) (r : Rnd) (sat : Bool) (s : State) : Out :=
  vecWholeFp (.vscan g op d a k f r sat) d f
    (fun s => laneResults f.lanes (fun _ => true) (s.vscanResult op a k f r sat)) s

/-! ## Dot product (R198, R282) -/

/-- VDOT's lane i. -/
def State.dotLane (s : State) (d a b : VReg) (acc inp : Fmt) (r : Rnd) (i : Nat) : Nat × Classes :=
  let n := acc.width / inp.width
  if acc.isFloat then
    let ps := (List.range n).map fun j => fpMul (s.fa inp a (i * n + j)) (s.fa inp b (i * n + j))
    let x := fpSum (s.fa acc d i :: ps.map (·.1)) (s.mode r)
    let inv := ps.foldl (fun (c : Classes) p => c ||| p.2) 0
    s.roundLane acc r i (x.1, x.2 ||| inv)
  else
    let v := (List.range n).foldl (fun (v : Int) j => v + s.ia inp a (i * n + j) * s.ia inp b (i * n + j)) (s.ia acc d i)
    (intBits acc v, 0)

def execVdot (g : Guard) (d a b : VReg) (k : KReg) (acc inp : Fmt) (r : Rnd) (s : State) : Out :=
  vecOp (.vdot g d a b k acc inp r) d k acc (fun s i => s.dotLane d a b acc inp r i) s

/-! ## Masks (R283) -/

/-- A mask form on bits 0 to nm − 1; it raises nothing. -/
def maskLogic (i : Instr) (d : KReg) (f : Fmt) (v : State → Nat → Bool) (s : State) : Out :=
  .next (slotOp i s noChecks fun s => s.setK d (maskOf f (v s)))

def execKand (g : Guard) (d a b : KReg) (f : Fmt) (s : State) : Out :=
  maskLogic (.kand g d a b f) d f (fun s i => bitAt (s.rk a) i && bitAt (s.rk b) i) s

def execKor (g : Guard) (d a b : KReg) (f : Fmt) (s : State) : Out :=
  maskLogic (.kor g d a b f) d f (fun s i => bitAt (s.rk a) i || bitAt (s.rk b) i) s

def execKxor (g : Guard) (d a b : KReg) (f : Fmt) (s : State) : Out :=
  maskLogic (.kxor g d a b f) d f (fun s i => bitAt (s.rk a) i != bitAt (s.rk b) i) s

def execKnot (g : Guard) (d a : KReg) (f : Fmt) (s : State) : Out :=
  maskLogic (.knot g d a f) d f (fun s i => !bitAt (s.rk a) i) s

def execKmov (g : Guard) (d a : KReg) (f : Fmt) (s : State) : Out :=
  maskLogic (.kmov g d a f) d f (fun s i => bitAt (s.rk a) i) s

def execKpopc (g : Guard) (d : SReg) (a : KReg) (f : Fmt) (s : State) : Out :=
  .next (slotOp (.kpopc g d a f) s noChecks fun s =>
    s.setS d (BitVec.ofNat 64 (bitCount f.maskLanes (s.rk a).toNat)))

end Sys2Proof.Machine
end

