-- ==== Sys2Proof/Machine/Dispatch.lean ====
section
/-!
DEFINITION. One arm for each constructor of `Instr`: the meaning it has.
-/
namespace Sys2Proof.Machine

open Sys2Proof

/-- The meaning of an instruction of a bundle slot, or of a step that no bundle names. -/
def exec (i : Instr) (s : State) : Host.Outcome State Fault Refusal :=
  match i with
  | .nop => Sys2Proof.Machine.execNop s
  | .add g d a b => Sys2Proof.Machine.execAdd g d a b s
  | .sub g d a b => Sys2Proof.Machine.execSub g d a b s
  | .mul g d a b => Sys2Proof.Machine.execMul g d a b s
  | .mulh g d a b => Sys2Proof.Machine.execMulh g d a b s
  | .mulhn g d a b => Sys2Proof.Machine.execMulhn g d a b s
  | .div g d a b => Sys2Proof.Machine.execDiv g d a b s
  | .divn g d a b => Sys2Proof.Machine.execDivn g d a b s
  | .rem g d a b => Sys2Proof.Machine.execRem g d a b s
  | .remn g d a b => Sys2Proof.Machine.execRemn g d a b s
  | .and g d a b => Sys2Proof.Machine.execAnd g d a b s
  | .or g d a b => Sys2Proof.Machine.execOr g d a b s
  | .xor g d a b => Sys2Proof.Machine.execXor g d a b s
  | .andn g d a b => Sys2Proof.Machine.execAndn g d a b s
  | .orn g d a b => Sys2Proof.Machine.execOrn g d a b s
  | .shl g d a b => Sys2Proof.Machine.execShl g d a b s
  | .shr g d a b => Sys2Proof.Machine.execShr g d a b s
  | .sra g d a b => Sys2Proof.Machine.execSra g d a b s
  | .rol g d a b => Sys2Proof.Machine.execRol g d a b s
  | .min g d a b => Sys2Proof.Machine.execMin g d a b s
  | .max g d a b => Sys2Proof.Machine.execMax g d a b s
  | .minn g d a b => Sys2Proof.Machine.execMinn g d a b s
  | .maxn g d a b => Sys2Proof.Machine.execMaxn g d a b s
  | .bext g d a b => Sys2Proof.Machine.execBext g d a b s
  | .bdep g d a b => Sys2Proof.Machine.execBdep g d a b s
  | .cmp g cc d a b => Sys2Proof.Machine.execCmp g cc d a b s
  | .sel g d p a b => Sys2Proof.Machine.execSel g d p a b s
  | .lea g d a b sh off => Sys2Proof.Machine.execLea g d a b sh off s
  | .clz g d a => Sys2Proof.Machine.execClz g d a s
  | .ctz g d a => Sys2Proof.Machine.execCtz g d a s
  | .popc g d a => Sys2Proof.Machine.execPopc g d a s
  | .brev g d a => Sys2Proof.Machine.execBrev g d a s
  | .addi g d a imm => Sys2Proof.Machine.execAddi g d a imm s
  | .andi g d a imm => Sys2Proof.Machine.execAndi g d a imm s
  | .ori g d a imm => Sys2Proof.Machine.execOri g d a imm s
  | .xori g d a imm => Sys2Proof.Machine.execXori g d a imm s
  | .shli g d a n => Sys2Proof.Machine.execShli g d a n s
  | .shri g d a n => Sys2Proof.Machine.execShri g d a n s
  | .srai g d a n => Sys2Proof.Machine.execSrai g d a n s
  | .cmpi g cc d a imm => Sys2Proof.Machine.execCmpi g cc d a imm s
  | .li g d imm => Sys2Proof.Machine.execLi g d imm s
  | .lih g d a imm => Sys2Proof.Machine.execLih g d a imm s
  | .pand g d a b => Sys2Proof.Machine.execPand g d a b s
  | .por g d a b => Sys2Proof.Machine.execPor g d a b s
  | .pxor g d a b => Sys2Proof.Machine.execPxor g d a b s
  | .pnot g d a => Sys2Proof.Machine.execPnot g d a s
  | .pset g d v => Sys2Proof.Machine.execPset g d v s
  | .br g imm => Sys2Proof.Machine.execBr g imm s
  | .jmp g t => Sys2Proof.Machine.execJmp g t s
  | .jr g a => Sys2Proof.Machine.execJr g a s
  | .call g t => Sys2Proof.Machine.execCall g t s
  | .callr g a => Sys2Proof.Machine.execCallr g a s
  | .ret g => Sys2Proof.Machine.execRet g s
  | .loop g imm => Sys2Proof.Machine.execLoop g imm s
  | .lset g a ec => Sys2Proof.Machine.execLset g a ec s
  | .spawn g d a entry u => Sys2Proof.Machine.execSpawn g d a entry u s
  | .halt g => Sys2Proof.Machine.execHalt g s
  | .trap g imm => Sys2Proof.Machine.execTrap g imm s
  | .eret g => Sys2Proof.Machine.execEret g s
  | .park g a c => Sys2Proof.Machine.execPark g a c s
  | .mfc g d n => Sys2Proof.Machine.execMfc g d n s
  | .mtc g n a => Sys2Proof.Machine.execMtc g n a s
  | .mfs g d c => Sys2Proof.Machine.execMfs g d c s
  | .mts g c a => Sys2Proof.Machine.execMts g c a s
  | .segset g n a b => Sys2Proof.Machine.execSegset g n a b s
  | .segget g d n => Sys2Proof.Machine.execSegget g d n s
  | .vadd g d a b k f r => Sys2Proof.Machine.execVadd g d a b k f r s
  | .vsub g d a b k f r => Sys2Proof.Machine.execVsub g d a b k f r s
  | .vmul g d a b k f r => Sys2Proof.Machine.execVmul g d a b k f r s
  | .vfma g d a b c k f r => Sys2Proof.Machine.execVfma g d a b c k f r s
  | .vfms g d a b c k f r => Sys2Proof.Machine.execVfms g d a b c k f r s
  | .vfnma g d a b c k f r => Sys2Proof.Machine.execVfnma g d a b c k f r s
  | .vdiv g d a b k f r => Sys2Proof.Machine.execVdiv g d a b k f r s
  | .vsqrt g d a k f r => Sys2Proof.Machine.execVsqrt g d a k f r s
  | .vrcp g d a k f r => Sys2Proof.Machine.execVrcp g d a k f r s
  | .vrsq g d a k f r => Sys2Proof.Machine.execVrsq g d a k f r s
  | .vmin g d a b k f => Sys2Proof.Machine.execVmin g d a b k f s
  | .vmax g d a b k f => Sys2Proof.Machine.execVmax g d a b k f s
  | .vabs g d a k f => Sys2Proof.Machine.execVabs g d a k f s
  | .vneg g d a k f => Sys2Proof.Machine.execVneg g d a k f s
  | .vcpys g d a b k f => Sys2Proof.Machine.execVcpys g d a b k f s
  | .vexp2 g d a k f r => Sys2Proof.Machine.execVexp2 g d a k f r s
  | .vlog2 g d a k f r => Sys2Proof.Machine.execVlog2 g d a k f r s
  | .vcmp g cc d a b k f => Sys2Proof.Machine.execVcmp g cc d a b k f s
  | .vclass g c d a k f => Sys2Proof.Machine.execVclass g c d a k f s
  | .viadd g d a b k f sat => Sys2Proof.Machine.execViadd g d a b k f sat s
  | .visub g d a b k f sat => Sys2Proof.Machine.execVisub g d a b k f sat s
  | .vimul g d a b k f sat => Sys2Proof.Machine.execVimul g d a b k f sat s
  | .vimulh g d a b k f => Sys2Proof.Machine.execVimulh g d a b k f s
  | .vimin g d a b k f => Sys2Proof.Machine.execVimin g d a b k f s
  | .vimax g d a b k f => Sys2Proof.Machine.execVimax g d a b k f s
  | .viabs g d a k f sat => Sys2Proof.Machine.execViabs g d a k f sat s
  | .vshl g d a b k f => Sys2Proof.Machine.execVshl g d a b k f s
  | .vshr g d a b k f => Sys2Proof.Machine.execVshr g d a b k f s
  | .vsra g d a b k f => Sys2Proof.Machine.execVsra g d a b k f s
  | .vand g d a b k f => Sys2Proof.Machine.execVand g d a b k f s
  | .vor g d a b k f => Sys2Proof.Machine.execVor g d a b k f s
  | .vxor g d a b k f => Sys2Proof.Machine.execVxor g d a b k f s
  | .vandn g d a b k f => Sys2Proof.Machine.execVandn g d a b k f s
  | .vpopc g d a k f => Sys2Proof.Machine.execVpopc g d a k f s
  | .vcvt g d a k dst src r opt => Sys2Proof.Machine.execVcvt g d a k dst src r opt s
  | .vpack g d a b k dst src r opt => Sys2Proof.Machine.execVpack g d a b k dst src r opt s
  | .vunpk g d a k dst src => Sys2Proof.Machine.execVunpk g d a k dst src s
  | .vmov g d a k f n => Sys2Proof.Machine.execVmov g d a k f n s
  | .vsel g d a b k f => Sys2Proof.Machine.execVsel g d a b k f s
  | .vbcast g d a k f => Sys2Proof.Machine.execVbcast g d a k f s
  | .vins g d a f j => Sys2Proof.Machine.execVins g d a f j s
  | .vext g d a f j => Sys2Proof.Machine.execVext g d a f j s
  | .vperm g d a b k f => Sys2Proof.Machine.execVperm g d a b k f s
  | .vshuf g pat d a b k f => Sys2Proof.Machine.execVshuf g pat d a b k f s
  | .vrot g d a k f j => Sys2Proof.Machine.execVrot g d a k f j s
  | .vcomp g d a k f => Sys2Proof.Machine.execVcomp g d a k f s
  | .vexpd g d a k f => Sys2Proof.Machine.execVexpd g d a k f s
  | .vred g op d a k f r sat => Sys2Proof.Machine.execVred g op d a k f r sat s
  | .vscan g op d a k f r sat => Sys2Proof.Machine.execVscan g op d a k f r sat s
  | .viota g d k f => Sys2Proof.Machine.execViota g d k f s
  | .vdot g d a b k acc inp r => Sys2Proof.Machine.execVdot g d a b k acc inp r s
  | .kand g d a b f => Sys2Proof.Machine.execKand g d a b f s
  | .kor g d a b f => Sys2Proof.Machine.execKor g d a b f s
  | .kxor g d a b f => Sys2Proof.Machine.execKxor g d a b f s
  | .knot g d a f => Sys2Proof.Machine.execKnot g d a f s
  | .kmov g d a f => Sys2Proof.Machine.execKmov g d a f s
  | .kpopc g d a f => Sys2Proof.Machine.execKpopc g d a f s
  | .vhash g d a k f b => Sys2Proof.Machine.execVhash g d a k f b s
  | .mma g d a b grp f => Sys2Proof.Machine.execMma g d a b grp f s
  | .mmaz g d a b grp f => Sys2Proof.Machine.execMmaz g d a b grp f s
  | .tzero g d => Sys2Proof.Machine.execTzero g d s
  | .tcfg g d f rows cols => Sys2Proof.Machine.execTcfg g d f rows cols s
  | .tmov g d a => Sys2Proof.Machine.execTmov g d a s
  | .ttrn g d a => Sys2Proof.Machine.execTtrn g d a s
  | .tcvt g d a dst r => Sys2Proof.Machine.execTcvt g d a dst r s
  | .tadd g d a b f r => Sys2Proof.Machine.execTadd g d a b f r s
  | .trowi g d v row => Sys2Proof.Machine.execTrowi g d v row s
  | .trowx g v src row => Sys2Proof.Machine.execTrowx g v src row s
  | .tinv g d => Sys2Proof.Machine.execTinv g d s
  | .tscale g mode d a b f => Sys2Proof.Machine.execTscale g mode d a b f s
  | .ld g d m x sz sgn scl => Sys2Proof.Machine.execLd g d m x sz sgn scl s
  | .st g d m x sz scl => Sys2Proof.Machine.execSt g d m x sz scl s
  | .ldv g d m x k lw n scl => Sys2Proof.Machine.execLdv g d m x k lw n scl s
  | .stv g d m x k lw n scl => Sys2Proof.Machine.execStv g d m x k lw n scl s
  | .ldvg g d m x k lw scl => Sys2Proof.Machine.execLdvg g d m x k lw scl s
  | .stvs g d m x k lw scl => Sys2Proof.Machine.execStvs g d m x k lw scl s
  | .ldt g d m x scl => Sys2Proof.Machine.execLdt g d m x scl s
  | .stt g d m x scl => Sys2Proof.Machine.execStt g d m x scl s
  | .stnb g d m x hi nidx => Sys2Proof.Machine.execStnb g d m x hi nidx s
  | .rld g d m x sz sgn scl => Sys2Proof.Machine.execRld g d m x sz sgn scl s
  | .rst g d m x sz scl => Sys2Proof.Machine.execRst g d m x sz scl s
  | .rstnb g d m x hi nidx => Sys2Proof.Machine.execRstnb g d m x hi nidx s
  | .raop g op d m x w64 => Sys2Proof.Machine.execRaop g op d m x w64 s
  | .aadd g d m x w64 => Sys2Proof.Machine.execAadd g d m x w64 s
  | .amin g d m x w64 => Sys2Proof.Machine.execAmin g d m x w64 s
  | .amax g d m x w64 => Sys2Proof.Machine.execAmax g d m x w64 s
  | .aminn g d m x w64 => Sys2Proof.Machine.execAminn g d m x w64 s
  | .amaxn g d m x w64 => Sys2Proof.Machine.execAmaxn g d m x w64 s
  | .aand g d m x w64 => Sys2Proof.Machine.execAand g d m x w64 s
  | .aor g d m x w64 => Sys2Proof.Machine.execAor g d m x w64 s
  | .axor g d m x w64 => Sys2Proof.Machine.execAxor g d m x w64 s
  | .aswap g d m x w64 => Sys2Proof.Machine.execAswap g d m x w64 s
  | .acas g d m x w64 => Sys2Proof.Machine.execAcas g d m x w64 s
  | .afadd g d m x w64 => Sys2Proof.Machine.execAfadd g d m x w64 s
  | .qrsv g d m => Sys2Proof.Machine.execQrsv g d m s
  | .qpub g d m => Sys2Proof.Machine.execQpub g d m s
  | .qtake g d m => Sys2Proof.Machine.execQtake g d m s
  | .depdec g d m => Sys2Proof.Machine.execDepdec g d m s
  | .copy g d q => Sys2Proof.Machine.execCopy g d q s
  | .gath g d q => Sys2Proof.Machine.execGath g d q s
  | .scat g d q => Sys2Proof.Machine.execScat g d q s
  | .iload g d q => Sys2Proof.Machine.execIload g d q s
  | .boinit g d m x => Sys2Proof.Machine.execBoinit g d m x s
  | .boexp g d m x => Sys2Proof.Machine.execBoexp g d m x s
  | .boarr g m => Sys2Proof.Machine.execBoarr g m s
  | .bwait g m x => Sys2Proof.Machine.execBwait g m x s
  | .btest g d m x => Sys2Proof.Machine.execBtest g d m x s
  | .mwait g => Sys2Proof.Machine.execMwait g s
  | .mpop g d => Sys2Proof.Machine.execMpop g d s
  | .mpeek g d => Sys2Proof.Machine.execMpeek g d s
  | .fence g sc => Sys2Proof.Machine.execFence g sc s
  | .acsnap g m x => Sys2Proof.Machine.execAcsnap g m x s
  | .send g a dst seq => Sys2Proof.Machine.execSend g a dst seq s
  | .recv g d tag => Sys2Proof.Machine.execRecv g d tag s
  | .recvt g d a b tag => Sys2Proof.Machine.execRecvt g d a b tag s
  | .barw g sc => Sys2Proof.Machine.execBarw g sc s
  | .barwr g op sc d a => Sys2Proof.Machine.execBarwr g op sc d a s
  | .tamp g sc a imm => Sys2Proof.Machine.execTamp g sc a imm s
  | .waitt g c d a imm => Sys2Proof.Machine.execWaitt g c d a imm s
  | .wsend g a b seq nw => Sys2Proof.Machine.execWsend g a b seq nw s
  | .amsg g a b tag => Sys2Proof.Machine.execAmsg g a b tag s
  | .qpush g q b prio => Sys2Proof.Machine.execQpush g q b prio s
  | .qpop g d q cnt => Sys2Proof.Machine.execQpop g d q cnt s
  | .carm g d a => Sys2Proof.Machine.execCarm g d a s
  | .cfire g a b => Sys2Proof.Machine.execCfire g a b s
  | .trig g a n => Sys2Proof.Machine.execTrig g a n s
  | .longResultReady c t => Sys2Proof.Machine.execLongResultReady c t s
  | .deferredTrap c t => Sys2Proof.Machine.execDeferredTrap c t s
  | .holdRelease c t => Sys2Proof.Machine.execHoldRelease c t s
  | .waitRetry c t => Sys2Proof.Machine.execWaitRetry c t s
  | .recvRetry c t => Sys2Proof.Machine.execRecvRetry c t s
  | .recvtDeadline c t => Sys2Proof.Machine.execRecvtDeadline c t s
  | .parkWake c t => Sys2Proof.Machine.execParkWake c t s
  | .wireRelease ep => Sys2Proof.Machine.execWireRelease ep s
  | .wiretoExpiry ep => Sys2Proof.Machine.execWiretoExpiry ep s
  | .tampRelease c t => Sys2Proof.Machine.execTampRelease c t s
  | .waittReached c t => Sys2Proof.Machine.execWaittReached c t s
  | .remoteAccessArrival id => Sys2Proof.Machine.execRemoteAccessArrival id s
  | .remoteReplyArrival id => Sys2Proof.Machine.execRemoteReplyArrival id s
  | .scheduledWordLanding id => Sys2Proof.Machine.execScheduledWordLanding id s
  | .windowWordLanding id => Sys2Proof.Machine.execWindowWordLanding id s
  | .hubWordArrival hub port item => Sys2Proof.Machine.execHubWordArrival hub port item s
  | .activeMessageArrival id => Sys2Proof.Machine.execActiveMessageArrival id s
  | .engineRequestStart c => Sys2Proof.Machine.execEngineRequestStart c s
  | .engineUnitAdmission c req => Sys2Proof.Machine.execEngineUnitAdmission c req s
  | .engineUnitAccess c req => Sys2Proof.Machine.execEngineUnitAccess c req s
  | .engineSublist c req => Sys2Proof.Machine.execEngineSublist c req s
  | .engineRequestComplete c req => Sys2Proof.Machine.execEngineRequestComplete c req s
  | .mailboxHeldPost c => Sys2Proof.Machine.execMailboxHeldPost c s
  | .faultService die => Sys2Proof.Machine.execFaultService die s
  | .faultAnswerPoll slice => Sys2Proof.Machine.execFaultAnswerPoll slice s
  | .faultTimeout slice => Sys2Proof.Machine.execFaultTimeout slice s
  | .shootdownPages slice => Sys2Proof.Machine.execShootdownPages slice s
  | .shootdownAsid slice => Sys2Proof.Machine.execShootdownAsid slice s
  | .shootdownSlice slice => Sys2Proof.Machine.execShootdownSlice slice s
  | .shootdownAck slice => Sys2Proof.Machine.execShootdownAck slice s
  | .alignStampExchange die => Sys2Proof.Machine.execAlignStampExchange die s
  | .ptpTimestamp hub rep => Sys2Proof.Machine.execPtpTimestamp hub rep s
  | .timetablePut c hdr => Sys2Proof.Machine.execTimetablePut c hdr s
  | .timetableGet c hdr => Sys2Proof.Machine.execTimetableGet c hdr s
  | .timetableAcc c hdr => Sys2Proof.Machine.execTimetableAcc c hdr s
  | .timetableEntryWake c hdr => Sys2Proof.Machine.execTimetableEntryWake c hdr s
  | .carmCheckComplete c hdr => Sys2Proof.Machine.execCarmCheckComplete c hdr s
  | .channelResponsePost c => Sys2Proof.Machine.execChannelResponsePost c s
  | .tracePulse session => Sys2Proof.Machine.execTracePulse session s
  | .placerRun slice => Sys2Proof.Machine.execPlacerRun slice s
  | .creditExpiry slice => Sys2Proof.Machine.execCreditExpiry slice s
  | .freezeBoundary c => Sys2Proof.Machine.execFreezeBoundary c s
  | .quiesce ctx => Sys2Proof.Machine.execQuiesce ctx s
  | .streamOut c => Sys2Proof.Machine.execStreamOut c s
  | .resume ctx => Sys2Proof.Machine.execResume ctx s
  | .elasticEviction c => Sys2Proof.Machine.execElasticEviction c s
  | .coreReturn c => Sys2Proof.Machine.execCoreReturn c s
  | .debugStopRequest c t => Sys2Proof.Machine.execDebugStopRequest c t s
  | .debugResume c t => Sys2Proof.Machine.execDebugResume c t s
  | .serviceClockSwitch hub => Sys2Proof.Machine.execServiceClockSwitch hub s
  | .launch f => Sys2Proof.Machine.execLaunch f s
  | .memrd f => Sys2Proof.Machine.execMemrd f s
  | .memwr f => Sys2Proof.Machine.execMemwr f s
  | .attest f => Sys2Proof.Machine.execAttest f s
  | .bind f => Sys2Proof.Machine.execBind f s
  | .unbind f => Sys2Proof.Machine.execUnbind f s
  | .destroy f => Sys2Proof.Machine.execDestroy f s
  | .reset f => Sys2Proof.Machine.execReset f s
  | .topen f => Sys2Proof.Machine.execTopen f s
  | .tclose f => Sys2Proof.Machine.execTclose f s
  | .trdptr f => Sys2Proof.Machine.execTrdptr f s
  | .hostresp f => Sys2Proof.Machine.execHostresp f s
  | .cancel f => Sys2Proof.Machine.execCancel f s
  | .flightrd f => Sys2Proof.Machine.execFlightrd f s
  | .slicecfg f => Sys2Proof.Machine.execSlicecfg f s
  | .dirty f => Sys2Proof.Machine.execDirty f s
  | .dsnap f => Sys2Proof.Machine.execDsnap f s
  | .slicestop f => Sys2Proof.Machine.execSlicestop f s
  | .sliceload f => Sys2Proof.Machine.execSliceload f s
  | .slicerun f => Sys2Proof.Machine.execSlicerun f s
  | .sliceclear f => Sys2Proof.Machine.execSliceclear f s
  | .digest f => Sys2Proof.Machine.execDigest f s
  | .healthcfg f => Sys2Proof.Machine.execHealthcfg f s
  | .healthrd f => Sys2Proof.Machine.execHealthrd f s
  | .heartbeat f => Sys2Proof.Machine.execHeartbeat f s
  | .restore f => Sys2Proof.Machine.execRestore f s
  | .image f => Sys2Proof.Machine.execImage f s
  | .coldStart o => Sys2Proof.Machine.execColdStart o s
  | .warmStart o => Sys2Proof.Machine.execWarmStart o s
  | .thermalLimit => Sys2Proof.Machine.execThermalLimit s
  | .thermalCritical => Sys2Proof.Machine.execThermalCritical s
  | .thermalClear => Sys2Proof.Machine.execThermalClear s
  | .errorEvent rid => Sys2Proof.Machine.execErrorEvent rid s
  | .resourceRemoval rid => Sys2Proof.Machine.execResourceRemoval rid s

end Sys2Proof.Machine
end

