-- ==== Sys2Proof/Machine/Bundle.lean ====
section
/-!
DEFINITION. A bundle: fetch, decode, the slots by `exec`, and what the trap that stands makes of it (R29 to R35, R38, R43 to R49,
R217 to R231, R349, R359, R361).
-/
namespace Sys2Proof.Machine

open Sys2Proof

/-- The slot whose bundle a core runs now. -/
def Core.issueSlot (c : Core) : Fin 8 := Fin.ofNat 8 c.vi

/-- The next bundle of a core's issue slot has a ready thread. -/
def State.hasBundle (s : State) (k : CoreKey) : Bool :=
  match s.findCore k with
  | some c => c.slots[c.issueSlot.val].phase == .ready
  | none => false

/-- Open the bundle of the focused core's issue slot: the thread as D reads it, and the counts of the issue cycle (R231). -/
def State.openBundle (s : State) : State :=
  let c := s.core
  let t := c.issueSlot
  let th := c.slots[t.val]
  let d := s.die c.die
  let s := s.modSlot t fun u => { u with skipBreak := false, held := false }
  { s with cur := ⟨t, th.pc, c.vi, d.tick - 4, d.dhist.getD 4 d.dtick, th, 0, 0, 0, c.poison, th.pc + 1, none, none,
    false⟩ }

/-- The unit of a bundle at a PC that the instruction store cannot give (R217). -/
def Core.fetchBad (c : Core) (pc : Pc) : Bool := (List.range 4).any fun i => c.fetchStore.2.contains (pc.toNat * 4 + i)

/-- The PC breakpoint that fires: the lowest that is armed at the PC, unless the bundle is the first after an ERET or a resume
from a stop (R359). See log 35. -/
def State.breakpoint (s : State) : Option Trap :=
  let t := s.cur.pre
  if t.skipBreak then none
  else ((List.finRange 4).find? fun i => bitAt t.bkpt[i.val] 63 && bitsNat t.bkpt[i.val] 11 0 == s.cur.pc.toNat).map fun i =>
    trapBreak 1 (BitVec.ofNat 64 i.val) (bitAt t.bkpt[i.val] 62)

/-- Two slots of a bundle write a common register (R229). -/
def writeConflict (b : Bundle) : Bool :=
  let w (i : Instr) : List Ref := (slotInfo i).writes.filter Ref.kept
  let rec meet : List Instr → Bool
    | [] => false
    | i :: is => (w i).any (fun r => is.any fun j => (w j).contains r) || meet is
  meet (bundleSlots b)

/-- Execute the instructions of a bundle's slots one after the other. -/
def execSlots : List Instr → State → Out
  | [], s => .next s
  | i :: is, s =>
    match exec i s with
    | .next t => execSlots is t
    | .fault f => .fault f
    | .refused r => .refused r

/-- The bytes of the own scratchpad that an L-slot or X-slot form reads at E3: offset and size. -/
def readSpans (i : Instr) (s : State) : List (Nat × Nat) :=
  let own (m : MemOp) (l : List Lane) : List (Nat × Nat) := (s.ownSpans (s.rg m.seg) l).map fun x => (x.2.2.1, x.2.2.2)
  match i with
  | .ld _ _ m x sz _ scl | .rld _ _ m x sz _ scl => own m (scalarLanes m x sz scl s)
  | .ldv _ _ m x k lw n scl => own m (vectorLanes m x k lw n scl s)
  | .ldvg _ _ m x k lw scl => own m (gatherLanes m x k lw scl s)
  | .ldt _ _ m x scl => own m (tileLanes m x scl s)
  | .stnb _ _ m x hi nidx | .rstnb _ _ m x hi nidx => own m (nibbleLanes m x hi nidx s)
  | .raop _ _ _ m _ w64 | .aadd _ _ m _ w64 | .amin _ _ m _ w64 | .amax _ _ m _ w64 | .aminn _ _ m _ w64 | .amaxn _ _ m _ w64
  | .aand _ _ m _ w64 | .aor _ _ m _ w64 | .axor _ _ m _ w64 | .aswap _ _ m _ w64 | .afadd _ _ m _ w64 | .acas _ _ m _ w64 =>
    own m (atomicLanes m w64 s)
  | .qrsv _ _ m | .qpub _ _ m | .depdec _ _ m | .boexp _ _ m _ | .boarr _ m | .bwait _ m _ | .btest _ _ m _ => own m (objLanes m s)
  | .qtake _ _ m => own m (objLanes m s) ++ [(s.objLoc m + qEntry (s.objHeader m), 8)]
  | .wsend _ a _ _ (some n) => [((s.rs a).toNat, 8 * (n.toNat + 1))]
  | .qpush _ q b _ => if q = 0 then [((s.rs b).toNat, 128)] else []
  | .carm _ _ a | .cfire _ a _ => [((s.rs a).toNat, 16)]
  | .trig .. => s.core.tables.map fun t => (t.hdr, 16)
  | _ => []

/-- A store form writes bytes of the own scratchpad at E3. -/
def writesOwn (i : Instr) (s : State) : Bool :=
  let own (m : MemOp) (l : List Lane) : Bool := !(s.ownSpans (s.rg m.seg) l).isEmpty
  match i with
  | .st _ _ m x sz scl | .rst _ _ m x sz scl => own m (scalarLanes m x sz scl s)
  | .stv _ _ m x k lw n scl => own m (vectorLanes m x k lw n scl s)
  | .stvs _ _ m x k lw scl => own m (gatherLanes m x k lw scl s)
  | .stt _ _ m x scl => own m (tileLanes m x scl s)
  | .acsnap _ m x => own m (acsnapLanes m x s)
  | .boinit _ _ m _ => own m (objLanes m s)
  | _ => false

/-- What the access of a bundle's L or X slot means to the requests in progress: the bytes that it reads keep their values (R119), and,
when it is an element of the core's own order, what follows it there follows what its thread knows (R94). -/
def State.noteAccess (s : State) (i : Instr) : State :=
  if !s.executes (slotInfo i).guard then s
  else
    let read := readSpans i s
    read.foldl (fun s r => s.noteRead (spaceOf s.core.key) r.1 r.2)
      (if !read.isEmpty || writesOwn i s then s.share s.core.key s.cur.slot else s)

/-- A bundle's delay counts, and the accesses of its L and X slots. -/
def State.withCounts (s : State) (b : Bundle) : State :=
  let s := (s.noteAccess b.l).noteAccess b.x
  { s with cur := { s.cur with dlyS := b.dlyS.toNat, dlyV := b.dlyV.toNat, dlyL := b.dlyL.toNat } }

/-- The windows after a bundle: the open ones count down, the bundle's own stand whole (R32). -/
def agedWindows (pre now : Thread) : List Window :=
  if now.phase == .vacant then []
  else (pre.windows.map fun w => { w with left := w.left - 1 }).filter (fun w => w.left ≠ 0) ++ now.windows.drop pre.windows.length

/-- A bundle that no trap stops: its effects stand, and the slot's cycle is charged to ISSUE or NULL. See log 11. -/
def State.finishBundle (s : State) (rp : Bool) : State :=
  let t := s.cur.slot
  let pre := s.cur.pre
  let s := s.modSlot t fun u =>
    { u with windows := agedWindows pre u, pc := if u.phase == .vacant then u.pc else s.cur.next,
             lastrp := if rp then s.cur.pc else u.lastrp }
  { s with core := s.core.charge t (if s.cur.executed then .issue else .null) (some s.cur.pc) }

/-- A trap of the stages up to E3: the bundle has no effect (R44); one that was fetched uses up one bundle of its windows. See log 8. -/
def State.dropBundle (s : State) (t : Fin 8) (r : Trap) (pc : Pc) : State :=
  match r.act with
  | .hold => let s := s.modSlot t fun u => { u with held := true }
    { s with core := s.core.charge t .hold (some pc) }
  | .stop => let s := s.modSlot t fun u => { u with stopped := some s.core.vi, stopAsked := none }
    { s with core := s.core.charge t .debugHalt (some pc) }
  | .trap =>
    let s := s.modSlot t fun u =>
      { u with skipBreak := false, held := false, windows := if r.stage = 0 then u.windows else agedWindows u { u with windows := [] } }
    s.trapEntry t r pc (pc + 1)

/-- A thread that no longer waits is in no wire episode: its core's arrival stays (R152, R155). -/
def State.leaveWires (s : State) (k : CoreKey) (t : Fin 8) : State :=
  { s with episodes := s.episodes.map fun e => { e with waiters := e.waiters.filter fun w => !(w.1 == k && w.2.1 == t) } }

/-- A trap at E5 or W: the bundle's effects stand, a long operation of another slot among them, and the thread enters the trap, unless it
has halted (R44, R203). See log 12. -/
def State.lateTrap (s : State) (r : Trap) : State :=
  let t := s.cur.slot
  let pre := s.cur.pre
  if (s.slotOf t).phase == .vacant then s.finishBundle false
  else
    let s := s.modSlot t fun u => { u with windows := agedWindows pre u, phase := .ready, trapped := pre.trapped }
    (s.leaveWires s.core.key t).trapEntry t r s.cur.pc s.cur.next

/-- The end of a bundle; before is the state in which it was opened. -/
def State.endBundle (s before : State) (rp : Bool) : State :=
  match s.cur.trap with
  | none => s.finishBundle rp
  | some r =>
    if r.stage ≤ 3 then before.dropBundle s.cur.slot r s.cur.pc
    else s.lateTrap r

/-- What the bundle at the open PC is: a trap at F or D, or its decoded form (R217, R228, R229). -/
def State.fetched (s : State) : Except Trap Bundle :=
  if s.core.fetchBad s.cur.pc then .error (trapFetch s.cur.pc)
  else match decodeBundle (BitVec.ofNat 256 (s.core.fetch s.cur.pc)) with
    | none => .error (trapIllegal 0)
    | some b => if writeConflict b then .error (trapIllegal 0) else .ok b

/-- The slots of a decoded bundle, with the breakpoint that stands at its PC. -/
def State.execBundle (s : State) (b : Bundle) : Out :=
  let s := s.withCounts b
  execSlots (bundleSlots b) (match s.breakpoint with
    | some r => s.takeTrap r
    | none => s)

/-- The next bundle of a core's issue slot would not issue: it is held (R33, R123). -/
def State.bundleHolds (s : State) (k : CoreKey) : Bool :=
  let o := (s.focus k).openBundle
  match o.fetched with
  | .error _ => false
  | .ok b =>
    match o.execBundle b with
    | .next t => (t.cur.trap.map (·.act)) == some .hold
    | _ => false

/-- The bundle of a core's issue slot. -/
def State.runBundle (s : State) (k : CoreKey) : Out :=
  if s.hasBundle k then
    let s := s.focus k
    let o := s.openBundle
    match o.fetched with
    | .error r => .next ((o.takeTrap r).endBundle s false)
    | .ok b =>
      match o.execBundle b with
      | .next t => .next (t.endBundle s b.rp)
      | .fault f => .fault f
      | .refused r => .refused r
  else .fault .nothingThere

end Sys2Proof.Machine
end

