-- ==== Sys2Proof/Machine/Run.lean ====
section
/-!
DEFINITION. The cycle of a die and the order of work in it (R22 to R24, R27, R84, R107, R349, R355); the firmware's and the
engines' times are free choices (log 4, log 5).
-/
namespace Sys2Proof.Machine

open Sys2Proof

/-- The state that a step which no bundle names leaves; such a step always answers a next state. -/
def State.did (s : State) (o : Out) : State :=
  match o with
  | .next t => t
  | _ => s

/-! ## The turn of a core -/

/-- Writes of shared registers that have taken effect by the issue cycle (R30, R59). -/
def Core.commitShared (c : Core) (x : Nat) : Core :=
  let due (p : Nat × CReg × Word) : Bool := decide (p.1 + 12 ≤ x)
  { c with c := (c.cPend.filter due).foldl (fun r p => r.set p.2.1.val p.2.2) c.c, cPend := c.cPend.filter fun p => !due p }

/-- A TAMP's release boundary is past: its DTICK is known (R160, R170). -/
def Thread.noteRelease (t : Thread) (tick dtick : Nat) : Thread :=
  { t with tampAt := t.tampAt.map fun p => if p.2.2.isNone && decide (p.2.1 ≤ tick) then (p.1, p.2.1, some dtick) else p }

/-- The thread waits on a count that a freeze does not stop: TICK, DTICK or an estimate. -/
def Thread.onClock (th : Thread) : Bool :=
  match th.waitKind with
  | some (.tamp ..) | some (.waitt .tick ..) | some (.waitt .dtick ..) => true
  | _ => false

/-- The core has passed its freeze boundary and finishes the bundles that have issued. -/
def Core.drains (c : Core) : Bool :=
  match c.stopAt with
  | some b => decide (b ≤ c.vx)
  | none => false

/-- What becomes due for a thread in this cycle: long results, and the ends of PARK, TAMP and WAITT. From the freeze boundary on, a
wait on TICK or DTICK ends at resume (R52). -/
def State.threadDue (s : State) (k : CoreKey) (t : Fin 8) : State :=
  let vi := s.core.vi
  let s := if (s.slotOf t).pending.any fun p => p.due vi then s.did (execLongResultReady k t s) else s
  let s := if s.core.parkDiffers (s.slotOf t) then s.did (execParkWake k t s) else s
  if s.core.drains && (s.slotOf t).onClock then s else
  let s := if s.tampDue s.core (s.slotOf t) then s.did (execTampRelease k t s) else s
  if s.waittDue s.core (s.slotOf t) then s.did (execWaittReached k t s) else s

/-- The WIRETO of a thread that waits on a wire has expired by a boundary (R155). -/
def Thread.wireOver (t : Thread) (w : Wait) (b : Nat) : Bool :=
  (match w.kind with
    | .wire .. => true
    | _ => false) && t.wireto != 0 && decide (w.issue + 4 + t.wireto.toNat ≤ b)

/-- A stop takes effect in the first cycle of the slot from its boundary on, and so does a resume that is noted (R361). -/
def Thread.debugged (t : Thread) (vi : Nat) : Thread :=
  match t.stopped, t.stopAsked, t.resumed with
  | none, some b, _ => if b ≤ vi then { t with stopped := some b, stopAsked := none } else t
  | some _, _, some b => if b ≤ vi then { t with stopped := none, resumed := none, skipBreak := true } else t
  | _, _, _ => t

/-- A stopped thread at its resume boundary b: a wait whose end was recorded during the stop, begun at st, ends as if at b; a timeout that
has expired by then is taken in its place, and every core of the scope having arrived, TADDR is 0 (R361). -/
def Thread.resumes (t : Thread) (st b : Nat) : Thread :=
  let t := { t with resumed := some b, stopAsked := none }
  match t.phase with
  | .waiting w => match w.done with
    | some x =>
      if st ≤ x then
        let timeout := t.recorded.isNone && t.wireOver w b
        let t := match w.kind, t.got with
          | .wire _ (some q), some v => if timeout then t else t.putS q v
          | _, _ => t
        { t with phase := .waiting { w with done := some b }, got := none
                 recorded := if timeout then some ⟨3, 0x09, 0, 4, true, 0, 0, .trap⟩ else t.recorded }
      else t
    | none => t
  | _ => t

/-- A thread that waits in a RECVT, or in an elastic team's RECV or QTAKE, when it resumes from a stop at boundary b: a deadline that has
passed is taken first, else a word or an entry that has come (R361). -/
def State.resumeTake (s : State) (k : CoreKey) (t : Fin 8) (b : Nat) : State :=
  match (s.slotOf t).waitKind with
  | some (.recv tag d) =>
    match s.core.landed tag with
    | some v => if s.record.elastic then
        ({ s with core := s.core.freeLanded tag }).modSlot t fun th => (th.putS d v).endWait b else s
    | none => s
  | some (.qtake ..) => if s.record.elastic then s.evalWait k t b else s
  | some (.recvt tag d deadline p) =>
    if deadline.toNat ≤ b then s.modSlot t fun th => ((th.putS d 0).putP p true).endWait b
    else match s.core.landed tag with
      | some v => ({ s with core := s.core.freeLanded tag }).modSlot t fun th => ((th.putS d v).putP p false).endWait b
      | none => s
  | _ => s

/-- A debugger's resume at its boundary, in the first cycle of the core from it on: what has come by then counts as come at it. -/
def State.resumeDue (s : State) (k : CoreKey) (t : Fin 8) : State :=
  match (s.slotOf t).stopped, (s.slotOf t).stopAsked with
  | some st, some b => if b ≤ s.core.vx then (s.modSlot t fun th => th.resumes st b).resumeTake k t b else s
  | _, _ => s

/-- The cause of a wait (Table 2-4). -/
def WaitKind.cause : WaitKind → Cause
  | .bwait .. | .park .. => .waitObject
  | .mwait => .waitMail
  | .qtake .. => .waitQueue
  | .recv .. | .recvt .. => .waitRecv
  | .wire .. => .waitWire
  | .tamp .. | .waitt .. => .waitTick

/-- A request that the slot pushed is in the port's fault queue. -/
def State.faultParked (s : State) (k : CoreKey) (t : Fin 8) : Bool :=
  (s.die s.core.die).faults.any fun p => p.core == k && p.slot == t

def State.chargeSlot (s : State) (t : Fin 8) (c : Cause) (pc : Option Pc) : State := { s with core := s.core.charge t c pc }

/-- The evaluation at E3 of a thread that waits (R305, R332). A stopped thread takes no word and no entry, and in a counted team it
evaluates what R40 would trap only after its resume (R361). -/
def State.retry (s : State) (k : CoreKey) (t : Fin 8) : State :=
  let th := s.slotOf t
  let stopped := th.heldAt s.core.vx
  let held := stopped && !s.record.elastic
  match th.waitKind with
  | some (.recvt ..) =>
    if stopped then s
    else
      let s := s.did (execRecvRetry k t s)
      s.did (execRecvtDeadline k t s)
  | some (.recv ..) => if stopped then s else s.did (execRecvRetry k t s)
  | some (.qtake ..) => if stopped then s else s.did (execWaitRetry k t s)
  | some _ => if held then s else s.did (execWaitRetry k t s)
  | none => s

/-- A ready thread's cycle: a hold, a deferred trap before the effect of a bundle that issues (R46), or its bundle. -/
def State.readyTurn (s : State) (k : CoreKey) (t : Fin 8) : State :=
  let th := s.slotOf t
  if th.held && s.awaitsResult t then s.chargeSlot t .hold (some th.pc)
  else
    let s := if th.held then s.did (execHoldRelease k t s) else s
    if th.defers && !s.bundleHolds k then s.did (execDeferredTrap k t s) else { s with agenda := .bundle k :: s.agenda }

/-- The cycle of the focused core's issue slot (R349). -/
def State.slotTurn (s : State) (k : CoreKey) (t : Fin 8) : State :=
  let vi := s.core.vi
  let s := s.modSlot t fun th => th.debugged vi
  let th := s.slotOf t
  match th.phase with
  | .vacant => s.chargeSlot t .vacant none
  | .parked pc => s.chargeSlot t (if th.stopped.isSome then .debugHalt else .faultPark) (some pc)
  | .ready =>
    if vi < th.start then s.chargeSlot t .vacant none
    else if th.stopped.isSome then s.chargeSlot t .debugHalt (some th.pc)
    else s.readyTurn k t
  | .waiting w =>
    if th.stopped.isSome then (s.chargeSlot t .debugHalt (some th.pc)).retry k t
    else
      let ended := match w.done with
        | some x => decide ((x / 8 + 1) * 8 ≤ vi)
        | none => false
      if ended then
        let s := s.modSlot t fun th => { th with phase := .ready, recorded := none }
        match th.recorded with
        | some r => s.trapEntry t r w.pc th.pc
        | none => s.readyTurn k t
      else
        let cause := if s.faultParked k t then .faultPark else w.kind.cause
        (s.chargeSlot t cause (some w.pc)).retry k t

/-- A frozen thread's wait on TICK, DTICK or an estimate ends when its value comes before the core's resume boundary (R52). -/
def State.clockPasses (s : State) (th : Thread) : Thread :=
  let before := match s.core.resumeAt with
    | some r => decide ((s.die s.core.die).tick < r)
    | none => true
  if before && th.onClock && (s.tampDue s.core th || s.waittDue s.core th) then th.endWait s.core.vi else th

/-- WATCH writes that have passed W stand, and MFC finds the values of this cycle later (R64, R258): also those of the cycles in which the
core stood frozen, up to its resume. -/
def Core.settleWatch (c : Core) : Core :=
  let c := c.commitWatch c.watchTime
  { c with watchHist := (c.watch :: c.watchHist).take 4 }

/-- A frozen core's cycle: FREEZE, at the PC of the bundle that the slot's thread issues next (R349). -/
def State.frozenTurn (s : State) : State :=
  let s := { s with core := { s.core.settleWatch with slots := s.core.slots.map s.clockPasses } }
  let t : Fin 8 := Fin.ofNat 8 ((s.die s.core.die).tick + 4)
  let th := s.slotOf t
  s.chargeSlot t .freeze (if th.phase == .vacant then none else some th.pc)

/-- The tiles that the bundle writes which a slot's thread issued in the cycle before vx, as far as D tells: the core's slot has a thread
that issues, and the form's guard lets it execute. -/
def Core.tilesAhead (c : Core) (t : Fin 8) : List TReg :=
  let th := c.slots[t.val]
  let issue := c.vx - 1
  let issues := th.phase == .ready && decide (th.start ≤ issue) && !th.held && th.deferred.isEmpty && th.stopped.isNone
    && (c.stopAt.all fun b => decide (issue < b))
  if !issues then []
  else match decodeBundle (BitVec.ofNat 256 ({ c with vx := c.vx + 3 }.fetch th.pc)) with
    | some b => [b.m, b.l].flatMap fun i =>
        let g := (slotInfo i).guard
        if th.readP g.pred == g.neg then [] else (slotInfo i).writes.filterMap fun r => match r with
          | .t n => some n
          | _ => none
    | none => []

/-- INFL of a tile stands from the end of D of the bundle that writes it (Table 3-2; log 96). -/
def Core.raiseInfl (c : Core) : Core :=
  let t : Fin 8 := Fin.ofNat 8 (c.vx - 1)
  match c.tilesAhead t with
  | [] => c
  | l => c.modSlot t fun th => l.foldl (fun th n => th.putT n { th.t[n.val] with infl := true }) th

/-- What the focused core's registers and threads show of earlier cycles. A slot's bundle has passed W by the cycle eight after its
issue (R29, R62). -/
def State.settleCore (s : State) : State :=
  let d := s.die s.core.die
  let c := (s.core.commitShared s.core.vx).settleWatch
  let c : Core := { c with slots := c.slots.map fun t => t.noteRelease d.tick d.dtick }
  { s with core := (c.modSlot (Fin.ofNat 8 c.vx) Thread.endWrites).raiseInfl }

/-- The cycle of a core that counts. -/
def State.runningTurn (s : State) (k : CoreKey) : State :=
  let s := (List.finRange 8).foldl (fun s t => (s.threadDue k t).resumeDue k t) s.settleCore
  if s.core.vx < 4 then s else s.slotTurn k s.core.issueSlot

/-- DTICK at the context's first rotation boundary (R170). -/
def State.noteStart (s : State) : State :=
  let d := s.die s.core.die
  if d.tick = s.core.tick0 then { s with core := { s.core with dtick0 := d.dtick } } else s

/-- A core's cycle: it counts from its first boundary on (R27). -/
def State.turn (s : State) (k : CoreKey) : State :=
  let s := s.focus k
  match s.core.res with
  | .away .. => s
  | .frozen => s.frozenTurn
  | .running => if (s.die s.core.die).tick < s.core.tick0 then s else s.noteStart.runningTurn k

/-! ## Arrivals -/

/-- Words that stand at cores of a die. -/
def State.arrived (s : State) (d : Fin 10) : List Flight :=
  let x := (s.die d).tick
  s.flights.filter fun f => f.there x && s.flightOn d f

def Flight.isAccess (f : Flight) : Bool :=
  match f.kind with
  | .access .. => true
  | _ => false

/-- Arrivals of one cycle in ascending sender index, then in the order of issue (R84, R107). -/
def Flight.bySender (a b : Flight) : Bool := a.src < b.src || (a.src == b.src && Flight.before a b)

/-- The order in which words that stand before a landing buffer take its entries (R150). See log 31. -/
def Flight.byArrival (a b : Flight) : Bool := a.due < b.due || (a.due == b.due && Flight.before a b)

/-- A word that lands: its arrival at the landing buffer, and its plane: 0 scheduled, 1 window. -/
abbrev Comer := Nat × Nat × Nat

/-- Window words whose flight ends: they stand at the window port from now on, behind those that have come before. -/
def State.reachPorts (s : State) (d : Fin 10) : State :=
  let now := (s.die d).tick
  let fresh (w : WindowWord) : Bool := w.route.headD 0 == d.val && w.reached.isNone && s.windowThere w
  { s with windows := (s.windows.filter fun w => !fresh w)
      ++ sortBy WindowWord.before ((s.windows.filter fresh).map fun w => { w with reached := some now }) }

/-- The words that may land in a die's cycle, in the order in which they came to their buffers; of two that came in one cycle a
scheduled word goes first (R150). See log 31, log 90. -/
def State.comers (s : State) (d : Fin 10) : List Comer :=
  let all := (s.arrived d).filter Flight.isWord
  let words := (all.filter (·.held) ++ sortBy Flight.byArrival (all.filter (!·.held))).map fun f => (f.due, 0, f.id)
  let windows := (s.windows.filter fun w => w.route.headD 0 == d.val && s.windowThere w).map fun w => (w.reached.getD 0, 1, w.id)
  sortBy (fun a b => a.1 < b.1 || (a.1 == b.1 && decide (a.2.1 < b.2.1))) (words ++ windows)

/-- The arrivals of a die's cycle: accesses, replies, words of both planes; then the timeouts of wires, the links, and the window
fabric. -/
def State.arrivalsOf (s : State) (d : Fin 10) : State :=
  let fs := s.arrived d
  let s := (sortBy Flight.bySender (fs.filter Flight.isAccess)).foldl (fun s f => s.did (execRemoteAccessArrival f.id s)) s
  let s := ((s.flights.filter fun f => f.isReply && s.flightOn d f).map (·.id)).foldl
    (fun s i => s.did (execRemoteReplyArrival i s)) s
  let s := s.reachPorts d
  let s := (s.comers d).foldl (fun s c =>
    if c.2.1 = 0 then s.did (execScheduledWordLanding c.2.2 s) else s.did (execWindowWordLanding c.2.2 s)) s
  let s := ((s.episodes.filter fun e => e.die == d).map (·.id)).foldl (fun s i => s.did (execWiretoExpiry i s)) s
  (s.linkPhase d).windowPhase d

/-! ## Engines and sequencers -/

/-- The steps that a core's engine can take: 0 a start, and for each request 1 an admission, 2 a unit, 3 a completion; what has not
completed by the end of the cycle completes then. -/
def State.engineActs (s : State) (c : Core) : List (CoreKey × Nat × Nat) :=
  let k := c.key
  let start := if (s.nextStart c).isSome then [(k, 0, 0)] else []
  start ++ c.fifo.flatMap fun r =>
    if r.state == .finishing then [(k, 3, r.id)]
    else
      let steps := s.engineSteps c r
      (if steps.any EngineStep.isAdmission then [(k, 1, r.id)] else []) ++ (if steps.any (!·.isAdmission) then [(k, 2, r.id)] else [])

def State.engineAct (s : State) (a : CoreKey × Nat × Nat) : State :=
  match a.2.1 with
  | 0 => s.did (execEngineRequestStart a.1 s)
  | 1 => s.did (execEngineUnitAdmission a.1 a.2.2 s)
  | 2 =>
    let s := s.did (execEngineUnitAccess a.1 a.2.2 s)
    s.did (execEngineSublist a.1 a.2.2 s)
  | _ => s.did (execEngineRequestComplete a.1 a.2.2 s)

/-- n steps of the engines of a die, each freely chosen (R93, R116, R130). -/
def State.engines (s : State) (d : Fin 10) : Nat → State
  | 0 => s
  | n + 1 =>
    let acts := (s.live.filter fun c => c.die == d).flatMap s.engineActs
    let (i, s) := s.pick acts.length
    match acts[i]? with
    | some a => (s.engineAct a).engines d n
    | none => s

/-- A request completes in the cycle in which its last byte has been counted (R129, R138). -/
def State.completions (s : State) (d : Fin 10) : State :=
  let done := (s.live.filter fun c => c.die == d).flatMap fun c =>
    (c.fifo.filter fun r => r.state == .finishing).map fun r => (c.key, r.id)
  done.foldl (fun s p => s.did (execEngineRequestComplete p.1 p.2 s)) s

/-- A core and the lowest header of a timetable of it whose next entry acts now. -/
def State.dueTable (s : State) (d : Fin 10) : Option (CoreKey × Nat) :=
  let acts (c : Core) (h : Nat) : Bool :=
    (s.bareRun c.key h).isSome || (s.dueEntry c.key h (· == 1)).isSome
    || (match s.dueEntry c.key h (fun n => n == 2 || n == 3) with
      | some (c, t, _) => !t.asleep || s.wakes c t
      | none => false)
  (s.live.filter fun c => c.die == d && c.sequences).findSome? fun c =>
    ((sortBy (· < ·) (c.tables.map (·.hdr))).find? (acts c)).map fun h => (c.key, h)

/-- The entries of a die's timetables that act in this cycle; n bounds their number. -/
def State.sequencers (s : State) (d : Fin 10) : Nat → State
  | 0 => s
  | n + 1 =>
    match s.dueTable d with
    | none => s
    | some (k, h) =>
      let s := s.did (execTimetablePut k h s)
      let s := s.did (execTimetableGet k h s)
      let s := s.did (execTimetableAcc k h s)
      (s.did (execTimetableEntryWake k h s)).sequencers d n

/-- No more entries than these can act in one cycle: each of a timetable's 4,095 at most acts, sleeps or wakes once, and the run
completes. -/
def State.sequencerBound (s : State) (d : Fin 10) : Nat :=
  (s.live.filter fun c => c.die == d).foldl (fun n c => n + 3 * 4096 * c.tables.length) 0

/-- Checks of CARM end by their cycle, or earlier (R347). -/
def State.checks (s : State) (d : Fin 10) : State :=
  let tick := (s.die d).tick
  let open' := (s.live.filter fun c => c.die == d && c.sequences).flatMap fun c =>
    c.tables.filterMap fun t => t.checking.map fun x => (c.key, t.hdr, x)
  open'.foldl (fun s p =>
    let (n, s) := s.pick 2
    if p.2.2 ≤ tick || n = 1 then s.did (execCarmCheckComplete p.1 p.2.1 s) else s) s

/-- The end of a die's cycle: engines, then checks of CARM, then sequencers (the order among them is the model's, log 87); mailboxes,
channels, ends of contexts, trace pulses; then its cores' VTICK goes on. -/
def State.closeDie (s : State) (d : Fin 10) : State :=
  let (n, s) := s.pick (2 ^ 16)
  let s := ((s.engines d n).completions d).checks d
  let s := s.sequencers d (s.sequencerBound d)
  let here := (s.live.filter fun c => c.die == d && c.holdsPlace).map (·.key)
  let s := here.foldl (fun s k => s.did (execMailboxHeldPost k s)) s
  let keys := (s.live.filter fun c => c.die == d && c.res == .running).map (·.key)
  let s := keys.foldl (fun s k => s.did (execChannelResponsePost k s)) s
  let s := ((s.sessions.filter fun x => x.die == d).map (·.id)).foldl (fun s i => s.did (execTracePulse i s)) s
  let s := (s.completeContexts d).forget
  s.modCores (fun c => c.die == d && c.res == .running && decide (c.tick0 ≤ (s.die d).tick)) fun c => { c with vx := c.vx + 1 }

/-! ## The start of a die's cycle -/

/-- The steps that a boundary or a cycle of a die brings before its cores' turns. A core streams in only in its own die's cycle, so that
slot 0 is charged for the first cycle in which it is there (R349, R351). -/
def State.openDie (s : State) (d : Fin 10) : State :=
  let mine (s : State) : List CoreKey := (s.live.filter fun c => c.die == d).map (·.key)
  let s := (mine s).foldl (fun s k => s.did (execFreezeBoundary k s)) s
  let s := (mine s).foldl (fun s k => s.did (execStreamOut k s)) s
  let s := (List.finRange 8).foldl State.endStreams s
  let s := (mine s).foldl (fun s k => s.did (execCoreReturn k s)) s
  let s := s.streamIn d
  let s := ((s.contexts.filter fun c => c.state == .placed || c.state == .resuming).map (·.num)).foldl
    (fun s n => s.did (execResume n s)) s
  let s := ((s.episodes.filter fun e => e.die == d).map (·.id)).foldl (fun s i => s.did (execWireRelease i s)) s
  if s.firm.service == .full then s.did (execAlignStampExchange d s) else s

/-! ## A cycle of a die -/

/-- Every removal whose core or die is free acts: nothing is placed between the instant at which it becomes free and this (R468). -/
def State.removals (s : State) : State :=
  ((List.finRange 10).flatMap fun d => (s.die d).pendingRemoval).foldl (fun s r => s.did (execResourceRemoval r s)) s

/-- A cycle of a die: what has become free is removed; its clock, which a hub die may change for it, counts, and its work is laid out. -/
def State.dieCycle (s : State) (d : Fin 10) : State :=
  let s := s.removals
  let s := if d.val < 8 then s else s.did (execServiceClockSwitch (Fin.ofNat 2 d.val) s)
  let s := (s.count d).openDie d
  let keys := (s.live.filter fun c => c.die == d && c.holdsPlace).map fun c => Work.turn c.key
  { s with agenda := keys ++ [.arrivals d, .close d] }

/-! ## The firmware and the outside -/

/-- The steps of the firmware that may come at any time. -/
def State.firmActs (s : State) : List (State → State) :=
  let slices := (List.finRange 8).flatMap fun n =>
    [fun s : State => s.did (execPlacerRun n s), fun s => s.did (execFaultAnswerPoll n s), fun s => s.did (execFaultTimeout n s),
     fun s => s.did (execShootdownPages n s), fun s => s.did (execShootdownAsid n s), fun s => s.did (execShootdownSlice n s),
     fun s => s.did (execShootdownAck n s), fun s => s.flipPort n, fun s => s.finishStop n]
  let dies := (List.finRange 10).map fun d => fun s : State => s.did (execFaultService d s)
  let teams := s.contexts.flatMap fun c => [fun s : State => s.did (execQuiesce c.num s), fun s => s.stopLater c.num]
  let evict := (s.contexts.flatMap fun c => c.victim.map fun l => (⟨c.num, l⟩ : CoreKey)).map fun k =>
    fun s : State => s.did (execElasticEviction k s)
  let mail := s.messages.map fun m => fun s : State => s.did (execActiveMessageArrival m.id s)
  let gate := (s.live.filter Core.idles).map fun c => fun s : State => s.gate c.key
  slices ++ dies ++ teams ++ evict ++ mail ++ gate ++ [fun s => s.startStep, fun s => s.storeError, fun s => s.capacityError]

/-- What the firmware's steps read of a slice's control block, and of the page tables for the units in its fault queues, keeps its
value (R119). -/
def State.pollReads (s : State) (sl : Fin 8) : State :=
  let parked := (List.finRange 10).flatMap fun d => (s.die d).faults.filter fun p => s.sliceOf p.core == sl
  let s := parked.foldl (fun s p => s.noteWalk sl p.asid p.va) s
  let words := [offFto, offFlTail, offFlHead, offCmdTail, offCmdDone, offDbBase, offDbBase + 8]
  let at' := (words.map (tcbBase sl.val + ·)) ++ (parked.filterMap fun p => p.record.map fun r => recordAt sl r.1 + 24)
  let ring := tcbBase sl.val + 0x90000 + 16 * (s.tcb sl offCmdDone % 4096)
  (at' ++ [ring, ring + 8]).foldl (fun s a => s.noteRead 0 a 8) s

/-- n steps of the firmware, each freely chosen. -/
def State.firmware (s : State) : Nat → State
  | 0 => s
  | n + 1 =>
    let s := (List.finRange 8).foldl State.pollReads s
    let acts := s.firmActs
    let (i, s) := s.pick acts.length
    match acts[i]? with
    | some f => (f s).firmware n
    | none => s

/-- What the check of a launch record and the load of an image read keeps its value (R119). -/
def State.noteFrame (s : State) (f : Frame) : State :=
  match f.kind with
  | some .launch =>
    let b := recordBits f.payload
    s.noteImage f.sliceNo (b 5 63 48) (b 5 39 39 == 1) (b 1 51 0) (b 2 51 0)
  | some .sliceload => match s.imageAt f.sliceNo (f.operand 1) with
    | .ok p => s.noteRead 0 (f.operand 1) (64 + p.2.length)
    | .error _ => if s.owns f.sliceNo (f.operand 1) 64 then s.noteRead 0 (f.operand 1) 64 else s
  | _ => s

/-- The step that a frame asks for; an opcode that is not one is answered REFUSED, any other frame is dropped (R410, R413). -/
def State.takeFrame (s : State) (f : Frame) : Out :=
  let s := s.noteFrame f
  match f.kind with
  | some .launch => execLaunch f s | some .memrd => execMemrd f s | some .memwr => execMemwr f s
  | some .attest => execAttest f s | some .bind => execBind f s | some .unbind => execUnbind f s
  | some .destroy => execDestroy f s | some .reset => execReset f s | some .topen => execTopen f s
  | some .tclose => execTclose f s | some .trdptr => execTrdptr f s | some .hostresp => execHostresp f s
  | some .cancel => execCancel f s | some .flightrd => execFlightrd f s | some .slicecfg => execSlicecfg f s
  | some .dirty => execDirty f s | some .dsnap => execDsnap f s | some .slicestop => execSlicestop f s
  | some .sliceload => execSliceload f s | some .slicerun => execSlicerun f s | some .sliceclear => execSliceclear f s
  | some .digest => execDigest f s | some .healthcfg => execHealthcfg f s | some .healthrd => execHealthrd f s
  | some .heartbeat => execHeartbeat f s | some .restore => execRestore f s | some .image => execImage f s
  | none => .next (if f.accepted && f.type == 5 then s.refuse f 0 else s.dropFrame f)

/-- The steps that the outside may ask for beside frames. -/
def externalStep : Instr → Bool
  | .hubWordArrival .. | .ptpTimestamp .. | .debugStopRequest .. | .debugResume .. | .coldStart .. | .warmStart ..
  | .thermalLimit | .thermalCritical | .thermalClear | .errorEvent .. => true
  | _ => false

/-- A frame that ends trace sessions waits for a record in progress: its pulse's charges, which the record holds, are still being made
(R358). -/
def State.forRecord (s : State) (f : Frame) : Bool :=
  (f.kind == some .reset || f.kind == some .tclose) && s.sessions.any fun x => (s.inProgress x).isSome

/-- Whether an input may be acted on now: an event always, a frame in its lane's SEQ order (R411). The first frame of a lane sets the
number; one that has been acted on comes to nothing (none). -/
def State.inTurn (s : State) : Input → Option Bool
  | .event _ => some true
  | .frame f =>
    match s.seqIn[f.lane.val] with
    | none => some (!s.forRecord f)
    | some n =>
      let ahead := (f.seq + 2 ^ 32 - n) % 2 ^ 32
      if ahead = 0 then some (!s.forRecord f) else if ahead < 2 ^ 31 then some false else none

/-- The first input of a list that may be acted on, and those that stay. -/
def State.nextInput (s : State) : List Input → Option Input × List Input
  | [] => (none, [])
  | i :: rest =>
    match s.inTurn i with
    | some true => (some i, rest)
    | some false => let (x, l) := s.nextInput rest
      (x, i :: l)
    | none => s.nextInput rest

/-- A frame is acted on: its lane's next SEQ. -/
def State.countFrame (s : State) (f : Frame) : State := { s with seqIn := s.seqIn.set f.lane.val (some ((f.seq + 1) % 2 ^ 32)) }

/-- The dies whose clock has the next edge. -/
def State.nextDies (s : State) : List (Fin 10) := (List.finRange 10).filter fun d => decide ((s.die d).edge ≤ s.time)

/-- With no work left: an input, or some steps of the firmware and the cycle of a die whose edge comes next. Credits expire as their
time comes. See log 76. -/
def State.plan (s : State) : Out :=
  let s := (List.finRange 8).foldl (fun s n => s.did (execCreditExpiry n s)) s
  let (n, s) := s.pick 2
  let (input, left) := if n = 0 then s.nextInput s.inputs else (none, s.inputs)
  match input with
  | some (.frame f) => State.takeFrame ({ s with inputs := left }.countFrame f) f
  | some (.event i) => .next { s with inputs := left, agenda := if externalStep i then [.ev i] else [] }
  | none =>
    let (m, s) := { s with inputs := left }.pick 64
    let s := s.firmware m
    let dies := s.nextDies
    let (j, s) := s.pick dies.length
    .next (s.dieCycle (dies.getD j 0))

/-- One piece of work. -/
def State.work (s : State) : Work → Out
  | .turn k => .next (s.turn k)
  | .bundle k => s.runBundle k
  | .arrivals d => .next (s.arrivalsOf d)
  | .close d => .next (s.closeDie d)
  | .ev i => exec i s

end Sys2Proof.Machine
end

