-- ==== Sys2Proof/Machine/Step.lean ====
section
/-!
DEFINITION. One step of the machine, and the state whose next step runs a given word.
-/
namespace Sys2Proof.Machine

open Sys2Proof

/-- One step: the next piece of work of the cycle in progress; with none left, what comes next is laid out. -/
def step (s : State) : Host.Outcome State Fault Refusal :=
  match s.agenda with
  | [] => s.plan
  | w :: rest => State.work { s with agenda := rest } w

/-- The core whose bundle the next step fetches. -/
def State.fetchKey (s : State) : Option CoreKey :=
  match s.agenda with
  | .bundle k :: _ => if s.hasBundle k then some k else none
  | _ => none

/-- A launch record of one core with a communication thread: 32 vector and 16 tile registers, elastic, every segment the whole
scratchpad with every right (log 30). -/
def Record.single : Record :=
  { Record.empty with
    part := 0xEA07
    elastic := true
    chan := true
    mask := 0x80
    segs := Vector.replicate 8 (BitVec.ofNat 128 (0xEA000 * 2 ^ 36 + 1 * 2 ^ 32 + 0xF * 2 ^ 28)) }

/-- The context of that record on core (0, 0) of CD0. -/
def Context.single (num : Nat) : Context :=
  { num := num, record := Record.single, origin := .frame 0 0, arrival := 0, state := .running, ranks := [(0, 0, 0)],
    victim := [], thermal := false, whole := false, frozenSince := 0, doomed := false, heard := [], told := false, digest := [] }

/-- With no bundle to fetch, a context of one core is there whose slot 7 issues now (log 30). -/
def State.withThread (s : State) : State :=
  match s.fetchKey with
  | some _ => s
  | none =>
    let key : CoreKey := ⟨s.nextCtx, 0⟩
    let tick := (Nat.max (s.die 0).tick 11 + 4) / 8 * 8 + 3 + (if (Nat.max (s.die 0).tick 11 + 4) / 8 * 8 + 3 < Nat.max (s.die 0).tick 11 then 8 else 0)
    let c := startCore Record.single key (0, 0, 0) (tick - 11) 0
    let s := s.modDie 0 fun d => { d with tick := tick }
    { s with core := { c with vx := 11 }, others := s.core :: s.others, contexts := s.contexts ++ [Context.single s.nextCtx],
             nextCtx := s.nextCtx + 1, agenda := [.bundle key] }

/-- Store the 32 bytes of a bundle where a core's issue slot fetches. -/
def Core.storeBundle (c : Core) (w : BitVec 256) : Core :=
  let pc := c.slots[c.issueSlot.val].pc.toNat
  { c with istore := memWrite c.istore (pc * 32) 32 w.toNat,
           istoreBad := c.istoreBad.filter fun u => !(decide (pc * 4 ≤ u) && decide (u < pc * 4 + 4))
           overwritten := [] }

/-- s with an instruction of the opcode table alone in its bundle, where the next step fetches. -/
def State.withFetchWord (s : State) (nbits w : Nat) : State :=
  let s := s.withThread
  match s.fetchKey with
  | some k => s.modCore k fun c => c.storeBundle (tableBundle nbits w)
  | none => s

end Sys2Proof.Machine
end

