-- ==== Sys2Proof/Safety.lean ====
section
/-!
DEFINITION. What a safe run is: when an instruction of a bundle slot executes normally, when its memory accesses do, what an
instruction leaves unchanged, and the invariants that claims speak of.
-/
namespace Sys2Proof.Machine

open Sys2Proof

/-! ## When a slot executes normally -/

/-- The registers that an instruction reads and writes (Tables 10-4 to 10-7). -/
def readsOf (i : Instr) : List Ref := (slotInfo i).reads
def writesOf (i : Instr) : List Ref := (slotInfo i).writes

/-- An instruction of the open bundle executes normally: its guard lets it (R219), no check at D refuses it (R220), no register
that the scoreboard checks of it is in a delay window or awaits a long result (R33), it reads no dead register or invalid tile while
DEADTRAP is set (R80), and what it reads of vector and tile registers is not poisoned (R72). -/
def State.ready (s : State) (i : Instr) : Bool :=
  s.executes (slotInfo i).guard
  && (staticTraps i s).isEmpty
  && (scoreTraps s (slotInfo i).slot (.p (slotInfo i).guard.pred)).isEmpty
  && (scoredRefs s.cur.pre i).all (fun r => (scoreTraps s (slotInfo i).slot r).isEmpty)
  && (!s.cur.pre.deadtrap || (readsOf i).all fun r => (deadRead s.cur.pre r).isNone)
  && (readsOf i).all fun r => (poisonedOperand i s r).isNone

/-- Some operand of an instruction is a dead register or an invalid tile. -/
def State.readsDead (s : State) (i : Instr) : Bool := (readsOf i).any fun r => (deadRead s.cur.pre r).isSome

/-- The delay windows that an executing instruction opens: one for each destination that is not s0, p0 or k0, unless its count
is 0 or the bundle has retired its thread (R32, R35). -/
def State.openedBy (s : State) (i : Instr) : List Window :=
  if s.delayOf (slotInfo i).slot = 0 || s.thread.phase == .vacant then []
  else ((writesOf i).filter Ref.kept).map fun r => ⟨r.phys s.cur.pre.rrb, s.delayOf (slotInfo i).slot, s.cur.pc⟩

/-- What every executing instruction does beside its own effect: the bundle counts as executed, DEADSEEN records a dead read, and
the delay windows of its destinations open. -/
def State.begun (s : State) (i : Instr) : State :=
  { s with
    cur := { s.cur with executed := true }
    core := s.core.modSlot s.cur.slot fun t =>
      { t with deadseen := t.deadseen || s.readsDead i, windows := t.windows ++ s.openedBy i } }

/-! ## When an access is good -/

/-- One lane of an access that no check of Table 3-10 and of the Owner column refuses (R77, R301). -/
def State.laneGood (s : State) (g : Quad) (need : Right) (team : Bool) (l : Lane) : Bool :=
  decide (l.off + l.size ≤ segLimit g) && (segKind g == 1 || segKind g == 2) && segRight g need
  && (team || s.ownsLane g l.off) && l.off % l.unit == 0

/-- No remote lane performs at or before the cycle of the thread's last FENCE (R123). -/
def State.fenceGood (s : State) (g : Quad) (lanes : List Lane) : Bool :=
  match s.cur.pre.fence with
  | none => true
  | some (f, _) => lanes.all fun l => !(s.remoteLane g l && decide (s.cur.tick + 8 + 2 * s.hopsTo g l.off ≤ f))

/-- No watchpoint matches the lanes that lie in the own scratchpad (R360). -/
def State.unwatched (s : State) (rd wr : Bool) (g : Quad) (lanes : List Lane) : Bool :=
  (watchMatch s.core rd wr ((s.ownSpans g lanes).map fun x => (x.2.2.1, x.2.2.2))).isNone

/-- No lane that is read in the own scratchpad is poisoned (R72). -/
def State.unpoisoned (s : State) (g : Quad) (lanes : List Lane) : Bool :=
  (s.ownSpans g lanes).all fun x => (poisonIn s.core.poison x.2.2.1 x.2.2.2).isEmpty

/-- An access through a segment register whose lanes are all good; rd and wr say what it does to the own lanes at E3. -/
def State.accessGood (s : State) (n : GReg) (need : Right) (team rd wr : Bool) (lanes : List Lane) : Bool :=
  lanes.all (s.laneGood (s.rg n) need team) && s.fenceGood (s.rg n) lanes && s.unwatched rd wr (s.rg n) lanes
  && (!rd || s.unpoisoned (s.rg n) lanes)

/-- A block of n bytes at a scratchpad offset lies in the scratchpad. -/
def State.rawInside (s : State) (o n : Nat) : Bool := decide (o + n ≤ partSPB s.record.part)

/-- A block that an X-slot form reads by its scratchpad offset: inside, aligned, not poisoned and not watched. -/
def State.rawGood (s : State) (o n unit : Nat) : Bool :=
  s.rawInside o n && o % unit == 0 && (poisonIn s.core.poison o n).isEmpty && (watchMatch s.core true false [(o, n)]).isNone

/-- No class that the lanes raise is enabled in FPCTL (R203). -/
def State.noFpTrap (s : State) (r : List (Nat × Nat × Classes)) : Bool :=
  r.all fun x => x.2.2 &&& fpEnables s.cur.pre.fpctl == 0

/-! ## Effects that claims name -/

/-- In every state in which an instruction executes normally, exec answers the next state that body makes of it. -/
def Does (i : Instr) (body : State → State) : Prop :=
  ∀ s, s.ready i = true → exec i s = .next (body (s.begun i))

/-- The same where its operands meet a condition. -/
def DoesWhen (i : Instr) (c : State → Bool) (body : State → State) : Prop :=
  ∀ s, s.ready i = true → c s = true → exec i s = .next (body (s.begun i))

/-- An instruction that meets a condition takes a trap of its own, or holds. -/
def TrapsWhen (i : Instr) (c : State → Bool) (r : State → Trap) : Prop :=
  ∀ s, s.ready i = true → c s = true → exec i s = .next (s.takeTrap (r s))

/-- An X-slot form that reads n bytes at offset o traps BOUNDS past the scratchpad's end, else ALIGN off its unit, each with TADDR the
offset, else POISON with TADDR the lowest poisoned granule's offset, where more holds of the state (R45, R72, R340, R345, R347). -/
def RawTraps (i : Instr) (o : State → Nat) (n unit : Nat) (more : State → Bool) : Prop :=
  TrapsWhen i (fun s => !s.rawInside (o s) n) (fun s => ⟨2, 0x03, 0, 4, false, BitVec.ofNat 64 (o s), 0, .trap⟩)
  ∧ TrapsWhen i (fun s => s.rawInside (o s) n && more s && o s % unit != 0)
      (fun s => ⟨2, 0x05, 0, 4, false, BitVec.ofNat 64 (o s), 0, .trap⟩)
  ∧ ∀ g : Nat, TrapsWhen i (fun s => s.rawInside (o s) n && more s && o s % unit == 0 && (poisonIn s.core.poison (o s) n).head? == some g)
      (fun _ => ⟨3, 0x0B, 0, 4, false, BitVec.ofNat 64 (64 * g), 0, .trap⟩)

/-- A long result begins: v is read from the rotation l after that of its issue, in s_d unless that is s0; a thread that its
bundle has retired discards it (R31, R35, R55). -/
def State.laterS (s : State) (d : SReg) (v : Word) (l : Nat) : State :=
  ({ s with fresh := s.fresh + 1 } : State).modThread fun t =>
    if t.phase == .vacant then t
    else { t with pending := t.pending ++ [⟨s.fresh, if (physS s.cur.pre.rrb d).val = 0 then none else some (.s (physS s.cur.pre.rrb d)),
      .scalar v, some (s.cur.vt / 8 * 8 + 8 * l), s.cur.pc, s.cur.vt, [], false, none⟩] }

/-- The results of a form's active lanes, each with the classes that it raises (R262). -/
def State.lanesOf (s : State) (k : KReg) (f : Fmt) (g : Nat → Nat × Classes) : List (Nat × Nat × Classes) :=
  laneResults f.lanes (laneOn f (s.rk k)) g

/-- Active lanes take their results, the others keep the destination's; the classes go to the flags (R202, R262). -/
def State.putLanes (s : State) (d : VReg) (k : KReg) (f : Fmt) (r : List (Nat × Nat × Classes)) : State :=
  (s.setVm d (resultValue 512 f.width r) (activeMask f (s.rk k))).orFlags (resultRaised r).all

/-! ## Rational values of floating-point numbers -/

/-- The width of a format's fraction, its exponent bias, and its largest finite value (Tables 8-2 and 8-3). -/
def fpTable : Fmt → Nat × Nat × Nat
  | .fp64 => (52, 1023, (2 ^ 53 - 1) * 2 ^ 971)
  | .fp32 => (23, 127, (2 ^ 24 - 1) * 2 ^ 104)
  | .fp16 => (10, 15, 65504)
  | .bf16 => (7, 127, (2 ^ 8 - 1) * 2 ^ 120)
  | .e4m3 => (3, 7, 448)
  | .e5m2 => (2, 15, 57344)
  | .e2m1 => (1, 1, 6)
  | _ => (0, 0, 0)

/-- 2 to an integer. -/
def twoTo (e : Int) : Rat := ((2 ^ e.toNat : Nat) : Rat) / ((2 ^ (-e).toNat : Nat) : Rat)

/-- The value of a finite number; 0 of an infinity or a NaN. -/
def FVal.value : FVal → Rat
  | .fin s m e => (if s then -1 else 1) * (m : Rat) * twoTo e
  | _ => 0

def FVal.finite : FVal → Bool
  | .fin _ _ _ => true
  | _ => false

/-- An exact result is the number v, which has a sign neg of its own when it is 0 (R190). -/
def Exact.holds (x : Exact) (neg : Bool) (v : Rat) : Prop :=
  ∃ (s : Bool) (num den : Nat) (exp : Int), x = .val s num den exp ∧ den ≠ 0
    ∧ (if s then -1 else 1) * ((num : Rat) / den) * twoTo exp = v ∧ (v = 0 → s = neg)

/-- A governed vector form computes g in each active lane, when no lane raises an enabled class. -/
def DoesLanes (i : Instr) (d : VReg) (k : KReg) (f : Fmt) (g : State → Nat → Nat × Classes) : Prop :=
  DoesWhen i (fun s => s.noFpTrap (s.lanesOf k f (g s))) fun s => s.putLanes d k f (s.lanesOf k f (g s))

/-- A long vector result begins: value, covered bits and classes come with the rotation l after that of its issue. -/
def State.laterV (s : State) (d : VReg) (k : KReg) (f : Fmt) (r : List (Nat × Nat × Classes)) (l : Nat) : State :=
  ({ s with fresh := s.fresh + 1 } : State).modThread fun t =>
    if t.phase == .vacant then t
    else { t with pending := t.pending ++ [⟨s.fresh, some (.v (physS s.cur.pre.rrb d)),
      .vector (resultValue 512 f.width r) (activeMask f (s.rk k)), some (s.cur.vt / 8 * 8 + 8 * l), s.cur.pc, s.cur.vt,
      resultRaised r, true, none⟩] }

/-- A mask form writes bit i of each active lane where g holds, and 0 elsewhere. -/
def State.putMask (s : State) (d : KReg) (r : List (Nat × Nat × Classes)) : State :=
  (s.setK d (resultValue 64 1 r)).orFlags (resultRaised r).all

/-- A tile form writes its tile whole and its classes to the flags. -/
def State.putTile (s : State) (d : TReg) (x : Tile) (r : List (Nat × Nat × Classes)) : State :=
  (s.setT d x true).orFlags (resultRaised r).all

/-- A tile form with results x writes tile t, when its shapes fit and no result raises an enabled class. -/
def DoesTile (i : Instr) (d : TReg) (shapes : State → Bool) (x : State → List (Nat × Nat × Classes))
    (t : State → List (Nat × Nat × Classes) → Tile) : Prop :=
  DoesWhen i (fun s => shapes s && s.noFpTrap (x s)) fun s => s.putTile d (t s (x s)) (x s)

/-- One result for each element of a tile. -/
def Tile.each (x : Tile) (e : Nat → Nat × Classes) : List (Nat × Nat × Classes) := laneResults x.count (fun _ => true) e

/-- The thread of the open bundle waits, unless its bundle has retired it (R38). -/
def State.waits (s : State) (k : WaitKind) : State :=
  s.modThread fun t => if t.phase == .vacant then t else { t with phase := .waiting ⟨k, s.cur.pc, s.cur.vt, none⟩ }

/-- The own scratchpad's byte at the place of a segment offset. -/
def State.placeOf' (s : State) (n : GReg) (o : Nat) : Nat := (s.resolve (s.rg n) o).2

/-- An atomic of the bank unit: the old value, of 8 or 4 bytes, is read, the new one is written and the old one goes to D, as one
element; f gives the new value from the old one and X's, and the classes. -/
def DoesAtomic (i : Instr) (d x : SReg) (m : MemOp) (w64 : Bool) (f : State → Nat → Nat → Nat × Classes) : Prop :=
  DoesWhen i (fun s => s.accessGood m.seg .at_ false true true (atomicLanes m w64 s)) fun s =>
    let n := if w64 then 8 else 4
    let loc := s.placeOf' m.seg (s.offset0 m)
    let old := memRead s.core.sp loc n
    let r := f s old ((s.rs x).toNat % 2 ^ (8 * n))
    ((s.spStore loc n r.1).setS d (BitVec.ofNat 64 old)).orFlags r.2

/-- The request that an engine command pushes: its quad's words and segment values as read at D. -/
def State.requestOf (s : State) (op : EngOp) (q : Fin 8) : Request :=
  let w (j : Nat) : Word := s.rs (Fin.ofNat 32 (4 * q.val + j))
  { id := s.fresh, op := op, slot := s.cur.slot, w0 := w 0, w1 := w 1, w2 := w 2, w3 := w 3, dseg := s.rg (wSeg (w 0)),
    sseg := s.rg (wSeg (w 1)), iseg := s.rg (wIseg (w 2)), marks := s.core.marks, state := .queued, rowsLeft := wNrow (w 2), rowLeft := wLen (w 2),
    next := 0, idx := none, unit := 0, buf := [], recv := [], turn := 0, status := 0, errIdx := 0, errOff := 0, stained := [],
    known := s.core.marks.foldl (fun l m => addKnown l m.known) (addKnown s.core.known s.thread.known), moved := [], admitted := [], parked := false, begun := false, bad := none, image := none }

/-- What a check finds first: the value of the first pair whose condition holds. -/
def firstOf (l : List (Bool × Nat)) : Option Nat := (l.find? fun x => x.1).map fun x => x.2

/-- The operand, named by what TADDR then holds, that breaks BOUNDS (code 3), RIGHTS (4) or ALIGN (5) of Table 5-2 and R322 first. -/
def State.requestBreaks (s : State) (op : EngOp) (q : Fin 8) (code : Nat) : Option Nat :=
  let w (j : Nat) : Word := s.rs (Fin.ofNat 32 (4 * q.val + j))
  let listed := op == .gath || op == .scat
  let code' := op == .iload
  let dst := s.rg (wSeg (w 0))
  let src := s.rg (wSeg (w 1))
  let idx := s.rg (wIseg (w 2))
  let counts := wCmode (w 3) % 2 == 1
  let rows (stride : Nat) : Int := ((wNrow (w 2) : Int) - 1) * 8 * stride + wLen (w 2)
  let elems : Int := wIcnt (w 2) * wEsz (w 2)
  let past (o : Nat) (n : Int) (limit : Nat) : Bool := decide ((limit : Int) < o + n)
  let data (g : Quad) : Bool := (segKind g == 1 || segKind g == 2 || segKind g == 3) && segEN g
  match code with
  | 3 =>
    if (if listed then wIcnt (w 2) == 0 else wNrow (w 2) == 0 || wLen (w 2) == 0) then none
    else firstOf [
      (if listed then op == .gath && past (wOff (w 0)) elems (segLimit dst) else past (wOff (w 0)) (rows (wDstr (w 2))) (segLimit dst), wOff (w 0)),
      (if listed then op == .scat && past (wOff (w 1)) elems (segLimit src) else past (wOff (w 1)) (rows (wSstr (w 2))) (segLimit src), wOff (w 1)),
      (listed && past (wIoff (w 2)) (wIcnt (w 2) * (4 * (1 + wIw (w 2)))) (segLimit idx), wIoff (w 2)),
      (counts && past (wBooff (w 3)) 16 (partSPB s.record.part), wBooff (w 3))]
  | 4 => firstOf [
      (if code' then !(segKind dst == 4 && segEN dst && wMc (w 2) == 0)
        else !(data dst && segWR dst && (listed || wMc (w 2) == 0 || segKind dst == 1)), wOff (w 0)),
      (!(data src && segRD src), wOff (w 1)),
      (listed && !(segKind idx == 1 && segRD idx), wIoff (w 2))]
  | _ => firstOf [
      (wOff (w 0) % (if code' then 32 else 8) != 0, wOff (w 0)),
      (wOff (w 1) % 8 != 0, wOff (w 1)),
      (!listed && wLen (w 2) % (if code' then 32 else 8) != 0, wLen (w 2)),
      (code' && 8 * wDstr (w 2) % 32 != 0, 8 * wDstr (w 2)),
      (listed && wIoff (w 2) % (4 * (1 + wIw (w 2))) != 0, wIoff (w 2)),
      (counts && wBooff (w 3) % 16 != 0, wBooff (w 3))]

/-- An engine command pushes its request and writes 0, or writes 1 when sixteen are held; a word that is not legal traps, and so does a
request that Table 5-2 does not permit. -/
def DoesCommand (i : Instr) (op : EngOp) (d : PReg) (q : Fin 8) : Prop :=
  let legal (s : State) : Bool := !requestIllegal op (s.rs (Fin.ofNat 32 (4 * q.val))) (s.rs (Fin.ofNat 32 (4 * q.val + 1)))
      (s.rs (Fin.ofNat 32 (4 * q.val + 2))) (s.rs (Fin.ofNat 32 (4 * q.val + 3)))
  let sound (s : State) (code : Nat) : Bool := legal s && (s.requestBreaks op q code).isNone
  let good (s : State) : Bool := sound s 3 && sound s 4 && sound s 5
  DoesWhen i (fun s => good s && decide (s.core.fifo.length < 16)) (fun s =>
    ({ s with
      fresh := s.fresh + 1
      core := { s.core with fifo := s.core.fifo ++ [s.requestOf op q], marks := [] } } : State).setP d false)
  ∧ DoesWhen i (fun s => good s && decide (16 ≤ s.core.fifo.length)) (fun s => s.setP d true)
  ∧ TrapsWhen i (fun s => !legal s) (fun _ => trapIllegal 3)
  ∧ ∀ o : Nat,
    TrapsWhen i (fun s => legal s && s.requestBreaks op q 3 == some o) (fun _ => ⟨2, 0x03, 0, 3, false, BitVec.ofNat 64 o, 0, .trap⟩)
    ∧ TrapsWhen i (fun s => sound s 3 && s.requestBreaks op q 4 == some o)
        (fun _ => ⟨2, 0x04, 0, 3, false, BitVec.ofNat 64 o, 0, .trap⟩)
    ∧ TrapsWhen i (fun s => sound s 3 && sound s 4 && s.requestBreaks op q 5 == some o)
        (fun _ => ⟨2, 0x05, 0, 3, false, BitVec.ofNat 64 o, 0, .trap⟩)

/-- An access that leaves for another core: a word of its own on the scheduled plane, which performs eight cycles after its issue
and two more for each link (R87, R110); the thread remembers its latest (R99). -/
def State.goesOut (s : State) (op : RemoteOp) (dst order : Nat) (pend : Option Nat) : State :=
  ({ s with
      fresh := s.fresh + 1
      flights := s.flights ++ [⟨s.fresh, .access op s.cur.slot pend, s.core.key.ctx, s.lidx, dst, s.cur.tick, 1, order, 0,
        s.record.hops s.lidx dst, if s.record.hops s.lidx dst = 0 then s.cur.tick + 8 else s.cur.tick + 6, false,
        addKnown s.thread.known s.thread.fenced, s.thread.fenceId⟩] } : State).modThread
    fun t => { t with lastRemote := some (Nat.max (s.cur.tick + 8 + 2 * s.record.hops s.lidx dst) (t.lastRemote.getD 0)) }

/-! ## Frames -/

/-- A register keeps its value. -/
def keeps (t u : Thread) : Ref → Bool
  | .s n => t.s[n.val] == u.s[n.val]
  | .p n => t.p[n.val] == u.p[n.val]
  | .v n => t.v[n.val] == u.v[n.val]
  | .k n => t.k[n.val] == u.k[n.val]
  | .t n => t.t[n.val] == u.t[n.val]

/-- The special registers of a thread but DEADSEEN and FPCTL: segment registers and the registers of Table 3-3. -/
structure SameSpecial (t u : Thread) : Prop where
  g : u.g = t.g
  trapped : u.trapped = t.trapped
  chk : u.chk = t.chk
  deadtrap : u.deadtrap = t.deadtrap
  tvec : u.tvec = t.tvec
  tcause : u.tcause = t.tcause
  tpc : u.tpc = t.tpc
  taddr : u.taddr = t.taddr
  tlane : u.tlane = t.tlane
  lastrp : u.lastrp = t.lastrp
  rrb : u.rrb = t.rrb
  lc : u.lc = t.lc
  ec : u.ec = t.ec
  deadm : u.deadm = t.deadm
  seed : u.seed = t.seed
  wireto : u.wireto = t.wireto
  bkpt : u.bkpt = t.bkpt
  acct : u.acct = t.acct

/-- The instructions that write a special register other than DEADSEEN and FPCTL. -/
def writesSpecial : Instr → Bool
  | .mtc .. | .lset .. | .loop .. | .segset .. | .eret .. => true
  | _ => false

/-- The instructions that may store to the own scratchpad. -/
def mayStore : Instr → Bool
  | .st .. | .rst .. | .stnb .. | .rstnb .. | .stv .. | .stvs .. | .stt .. | .acsnap .. | .aadd .. | .amin .. | .amax .. | .aminn ..
  | .amaxn .. | .aand .. | .aor .. | .axor .. | .aswap .. | .afadd .. | .acas .. | .raop .. | .qrsv .. | .qpub .. | .qtake ..
  | .depdec .. | .boinit .. | .boexp .. | .boarr .. | .cfire .. | .trig .. => true
  | _ => false

/-- The instructions that may change FPCTL: MTC, AFADD and the V and M slots. -/
def mayRaise (i : Instr) : Bool :=
  (match i with
    | .mtc .. | .afadd .. => true
    | _ => false) || (slotInfo i).slot == 1 || (slotInfo i).slot == 2

/-- The scratchpad ranges of the own-core lanes of an access: offset and size. -/
def State.ownRanges (s : State) (m : MemOp) (lanes : List Lane) : List (Nat × Nat) :=
  (s.ownSpans (s.rg m.seg) lanes).map fun x => (x.2.2.1, x.2.2.2)

/-- The destinations, in a space, of the landed units that a test picks: address and size. A write of such a unit's source, before its
request is complete and unordered with it, makes the destination undefined (R96, R119). -/
def State.landedUnits (s : State) (p : MovedUnit → Bool) (dspace : Nat) : List (Nat × Nat) :=
  s.cores.flatMap fun c => c.fifo.flatMap fun r =>
    if r.op == .iload then [] else (r.moved.filter fun m => p m && m.dspace == dspace).map fun m => (m.dst, 8)

/-- The destinations of the landed units whose source lies in a space and that such a write still makes undefined. -/
def State.copiesFrom (s : State) (space dspace : Nat) : List (Nat × Nat) :=
  s.landedUnits (fun m => m.space == space && m.open' != 0) dspace

/-- The destinations that writes of some ranges of a space make undefined: address and size. -/
def State.spoiltBy (s : State) (space : Nat) (ranges : List (Nat × Nat)) (dspace : Nat) : List (Nat × Nat) :=
  s.landedUnits (fun m => ranges.any fun x => m.hit space x.1 x.2 != 0) dspace

/-- What no instruction of a bundle slot changes: poison of physical memory, the dies, the contexts, the slices and the firmware's
state. -/
structure SamePackage (s u : State) : Prop where
  memPoison : u.memPoison = s.memPoison
  dies : u.dies = s.dies
  contexts : u.contexts = s.contexts
  slices : u.slices = s.slices
  handles : u.handles = s.handles
  sessions : u.sessions = s.sessions
  firm : u.firm = s.firm

/-- Every byte of a byte memory reads as before outside a set of ranges (address, size). -/
def sameOutside (m n : Memory) (ranges : List (Nat × Nat)) : Prop :=
  ∀ a, (∀ r ∈ ranges, ¬(r.1 ≤ a ∧ a < r.1 + r.2)) → memGet n a = memGet m a

/-! ## Invariants -/

/-- Global memory is in its canonical form. -/
def State.memCanonical (s : State) : Prop := Memory.wf s.mem = true

/-- The hard-wired registers of a thread hold what they read as: s0 is 0, p0 is true, k0 is all ones (R55). -/
def Thread.wired (t : Thread) : Bool := t.s[0] == 0 && t.p[0] && t.k[0] == BitVec.allOnes 64

end Sys2Proof.Machine
end

