-- ==== Sys2Proof/Certificates/Slice0/Obligations.lean ====
section
/-!
DEFINITION. The statements for the provers. Each says in its docstring which rules of the spec it formalises.
-/

open Sys2Proof Sys2Proof.Machine

/-! ## Encodings -/

/-- Words written out from Table 10-2 and the opcode tables decode to the instructions they stand for, one for each slot, and the
worked example of chapter 10 decodes to its one instruction, (!p9) ADDI s26, s3, -600000. -/
def Obligations.SlotWords : Prop :=
  decodeS 0x946400000#48 none = some (.add ⟨false, 0⟩ 5 3 4)
  ∧ decodeV 0x844305100#48 none = some (.vadd ⟨false, 0⟩ 1 2 3 5 .fp32 .rne)
  ∧ decodeM 0x448d00#32 none = some (.mma ⟨false, 0⟩ 1 2 3 2 .fp64)
  ∧ decodeL 0x9008852600100b#56 none = some (.ld ⟨true, 2⟩ 4 ⟨5, 1, 16⟩ 6 3 false true)
  ∧ decodeX 0x20380069#40 none = some (.send ⟨false, 0⟩ 7 3 9)
  ∧ decodeBundle (0x1000C9868606D840#64 ++ 0xFFFF#192)
      = some ⟨false, 0, 0, 0, .addi ⟨true, 9⟩ 26 3 (BitVec.ofInt 36 (-600000)), .nop, .nop, .nop, .nop⟩

/-- Every instruction of a slot has a word; decoding the word and EXT of a well-formed one gives it back, in each of the five slots,
whatever its operands
(Tables 10-2 to 10-7, R221). -/
def Obligations.EncodeDecode : Prop :=
  ∀ i : Instr, i.wf = true →
    (∀ w e, encodeS i = some (w, e) → decodeS w e = some i)
    ∧ (∀ w e, encodeV i = some (w, e) → decodeV w e = some i)
    ∧ (∀ w e, encodeM i = some (w, e) → decodeM w e = some i)
    ∧ (∀ w e, encodeL i = some (w, e) → decodeL w e = some i)
    ∧ (∀ w e, encodeX i = some (w, e) → decodeX w e = some i)
    ∧ ((slotInfo i).slot = 0 → (encodeS i).isSome = true) ∧ ((slotInfo i).slot = 1 → (encodeV i).isSome = true)
    ∧ ((slotInfo i).slot = 2 → (encodeM i).isSome = true) ∧ ((slotInfo i).slot = 3 → (encodeL i).isSome = true)
    ∧ ((slotInfo i).slot = 4 → (encodeX i).isSome = true)

/-- What a bundle decodes to is well-formed, in every slot; and the encodings that name no instruction are refused: a slot word
whose OP is 0 with another field nonzero, an EXT for an empty slot, EXTSEL 6 or 7, EXT without EXTSEL, and two wait
instructions in one bundle (R221, R228, R331). -/
def Obligations.DecodeRefuses : Prop :=
  (∀ w b, decodeBundle w = some b → ∀ i ∈ [b.s, b.v, b.m, b.l, b.x], i.wf = true)
  ∧ (∀ w e, w ≠ 0 → w.toNat / 2 ^ 35 % 2 ^ 8 = 0 → decodeS w e = none)
  ∧ (∀ w e, w ≠ 0 → w.toNat / 2 ^ 35 % 2 ^ 8 = 0 → decodeV w e = none)
  ∧ (∀ w e, w ≠ 0 → w.toNat / 2 ^ 22 % 2 ^ 5 = 0 → decodeM w e = none)
  ∧ (∀ w e, w ≠ 0 → w.toNat / 2 ^ 43 % 2 ^ 8 = 0 → decodeL w e = none)
  ∧ (∀ w e, w ≠ 0 → w.toNat / 2 ^ 29 % 2 ^ 6 = 0 → decodeX w e = none)
  ∧ (∀ e, decodeS 0 (some e) = none ∧ decodeV 0 (some e) = none ∧ decodeM 0 (some e) = none ∧ decodeL 0 (some e) = none
      ∧ decodeX 0 (some e) = none)
  ∧ (∀ w, 6 ≤ w.toNat / 2 ^ 252 % 8 → decodeBundle w = none)
  ∧ (∀ w, w.toNat / 2 ^ 252 % 8 = 0 → w.toNat % 2 ^ 16 ≠ 0 → decodeBundle w = none)
  ∧ (∀ w b, decodeBundle w = some b →
      ¬(b.s.isWait ∧ b.l.isWait) ∧ ¬(b.s.isWait ∧ b.x.isWait) ∧ ¬(b.l.isWait ∧ b.x.isWait))

/-- NOP, with OP 0 and every S-slot field 0, does nothing; a lone NOP is the all-zero bundle (R235). -/
def Obligations.NopDoesNothing : Prop :=
  decodeS 0 none = some .nop ∧ encodeS .nop = some (0, none)
  ∧ (∀ s, exec .nop s = .next s)
  ∧ decodeBundle 0 = some ⟨false, 0, 0, 0, .nop, .nop, .nop, .nop, .nop⟩

/-! ## A step runs the bundle that stands at the PC -/

/-- When the bytes at the PC of a core's issue slot can be read and decode to a bundle whose slots write no common register, and
no breakpoint stands there, step is exec of the bundle's five instructions, the S, L, X, V and M slot in turn, and then the end
of the bundle; for a bundle that holds one instruction i and NOPs, step is exec of i and the end of the bundle. The bytes are those
that F read in the issue cycle: what no ILOAD has overwritten since stands in the instruction store (R29 to R31, R44, R97, R120,
R216, R217, R229, R231). What step adds before exec are the bundle's delay counts and, where the L or X slot accesses the own scratchpad, the model's
record of that access for the requests in progress (log 6). -/
def Obligations.StepRuns : Prop :=
  (∀ (s : State) (k : CoreKey) (rest : List Work) (b : Bundle), s.agenda = .bundle k :: rest → s.hasBundle k = true →
      let before := ({ s with agenda := rest } : State).focus k
      let o := before.openBundle
      o.core.fetchBad o.cur.pc = false →
      decodeBundle (BitVec.ofNat 256 (memRead o.core.fetchStore.1 (32 * o.cur.pc.toNat) 32)) = some b →
      writeConflict b = false → o.breakpoint = none →
      (∀ i ∈ [b.s, b.l, b.x, b.v, b.m], i.wf = true)
      ∧ step s = match execSlots [b.s, b.l, b.x, b.v, b.m] (o.withCounts b) with
        | .next t => .next (t.endBundle before b.rp)
        | .fault f => .fault f
        | .refused r => .refused r)
  ∧ (∀ (s : State) (k : CoreKey) (rest : List Work) (i : Instr) (w : BitVec 256) (t : State), s.agenda = .bundle k :: rest →
      s.hasBundle k = true →
      let before := ({ s with agenda := rest } : State).focus k
      let o := before.openBundle
      o.core.fetchBad o.cur.pc = false → memRead o.core.fetchStore.1 (32 * o.cur.pc.toNat) 32 = w.toNat →
      o.breakpoint = none →
      ∀ ds dv dl b, decodeBundle w = some b → b ∈ ([⟨false, ds, dv, dl, i, .nop, .nop, .nop, .nop⟩,
          ⟨false, ds, dv, dl, .nop, i, .nop, .nop, .nop⟩, ⟨false, ds, dv, dl, .nop, .nop, i, .nop, .nop⟩,
          ⟨false, ds, dv, dl, .nop, .nop, .nop, i, .nop⟩, ⟨false, ds, dv, dl, .nop, .nop, .nop, .nop, i⟩] : List Bundle) →
        exec i (o.withCounts b) = .next t → step s = .next (t.endBundle before false))
  ∧ (∀ (o : State) (b : Bundle),
      let u := o.withCounts b
      let counted : State := { o with cur := { o.cur with dlyS := b.dlyS.toNat, dlyV := b.dlyV.toNat, dlyL := b.dlyL.toNat } }
      u.cur = counted.cur ∧ u.mem = o.mem ∧ u.core.sp = o.core.sp
      ∧ ((∀ i ∈ [b.l, b.x], (readSpans i o = [] ∧ writesOwn i o = false) ∨ o.executes (slotInfo i).guard = false) → u = counted))
  ∧ (∀ c : Core, (∀ x ∈ c.overwritten, x.1 < c.vi) → c.fetchStore = (c.istore, c.istoreBad))

/-- A bundle that the instruction store cannot give traps FETCH at F; one that does not decode, or whose slots write a common
register, traps ILLEGAL at D (what the trap then does is `Obligations.TrapEntry`). A bundle that nothing stops ends: the
thread's PC is what the bundle's slots left as the next one, the slot's cycle is charged to ISSUE, or to NULL when no slot
executed, and no register, scratchpad byte or other thread changes (R45, R217, R228, R229, R349). The lowest armed breakpoint of the
thread at the PC takes a bundle of NOPs: BREAK with its number, or with ACT = 1 a stop before the bundle; not on the first bundle after
ERET or a resume from a stop (R359, R361). -/
def Obligations.BundleFates : Prop :=
  (∀ (s : State) (k : CoreKey) (rest : List Work), s.agenda = .bundle k :: rest → s.hasBundle k = true →
      let before := ({ s with agenda := rest } : State).focus k
      let o := before.openBundle
      let word := decodeBundle (BitVec.ofNat 256 (memRead o.core.fetchStore.1 (32 * o.cur.pc.toNat) 32))
      (o.core.fetchBad o.cur.pc = true → step s = .next (before.dropBundle o.cur.slot (trapFetch o.cur.pc) o.cur.pc))
      ∧ (o.core.fetchBad o.cur.pc = false → (word = none ∨ ∃ b, word = some b ∧ writeConflict b = true) →
        step s = .next (before.dropBundle o.cur.slot (trapIllegal 0) o.cur.pc))
      ∧ (∀ (n : Fin 4) (rp : Bool) (ds dv dl : BitVec 4), o.core.fetchBad o.cur.pc = false →
        word = some ⟨rp, ds, dv, dl, .nop, .nop, .nop, .nop, .nop⟩ →
        let armed (i : Fin 4) : Prop := o.cur.pre.bkpt[i.val].getLsbD 63 = true ∧ o.cur.pre.bkpt[i.val].toNat % 2 ^ 12 = o.cur.pc.toNat
        let act : TrapAct := if o.cur.pre.bkpt[n.val].getLsbD 62 = true then .stop else .trap
        armed n → (∀ i, i < n → ¬armed i) → o.cur.pre.skipBreak = false →
        step s = .next (before.dropBundle o.cur.slot ⟨1, 0x11, 0, 0, false, BitVec.ofNat 64 n.val, 0, act⟩ o.cur.pc)))
  ∧ (∀ o : State, o.cur.pre.skipBreak = true ∨ (∀ i : Fin 4, o.cur.pre.bkpt[i.val].getLsbD 63 = false
        ∨ o.cur.pre.bkpt[i.val].toNat % 2 ^ 12 ≠ o.cur.pc.toNat) → o.breakpoint = none)
  ∧ (∀ (s : State) (t : Fin 8) (r : Trap) (pc : Pc), r.act = .stop →
      let u := s.dropBundle t r pc
      u.mem = s.mem ∧ u.core.sp = s.core.sp ∧ ∀ i : Fin 8, u.core.slots[i.val]
        = if i = t then { s.core.slots[t.val] with
            stopped := some s.core.vi, stopAsked := none, lastCause := .debugHalt, lastPc := some pc, episode := none
            acct := s.core.slots[t.val].acct.set Cause.debugHalt.code.val (s.core.slots[t.val].acct[Cause.debugHalt.code.val] + 1) }
          else s.core.slots[i.val])
  ∧ (∀ (s before : State) (rp : Bool), s.cur.trap = none → s.thread.phase ≠ .vacant →
      let u := s.endBundle before rp
      let c : Cause := if s.cur.executed then .issue else .null
      u.thread.pc = s.cur.next ∧ u.thread.lastCause = c ∧ u.thread.lastPc = some s.cur.pc
      ∧ u.thread.acct = s.thread.acct.set c.code.val (s.thread.acct[c.code.val] + 1)
      ∧ (∀ r, keeps s.thread u.thread r = true) ∧ u.core.sp = s.core.sp ∧ u.mem = s.mem
      ∧ ∀ t : Fin 8, t ≠ s.cur.slot → u.core.slots[t.val] = s.core.slots[t.val])

/-- When a bundle whose header has RP = 1 ends without a trap, LASTRP becomes its PC at W; a bundle with RP = 0 leaves it, and so
does one that traps (R49). -/
def Obligations.RestartPoints : Prop :=
  ∀ (s before : State) (rp : Bool),
    (s.cur.trap = none → (s.endBundle before rp).thread.lastrp = if rp then s.cur.pc else s.thread.lastrp)
    ∧ (∀ r, s.cur.trap = some r → before.cur.slot = s.cur.slot → 
        (s.endBundle before rp).thread.lastrp = if r.stage ≤ 3 then before.core.slots[s.cur.slot.val].lastrp else s.thread.lastrp)

/-! ## Traps -/

/-- Trap entry: a bundle that traps at F, D, E1 or E3, in a thread that is not in a trap, saves the code, the bundle's PC, TADDR
and TLANE, sets TRAPPED, goes on at TVEC, and charges its cycle to TRAP_ENTRY at the bundle's PC; its registers, the scratchpad
and the other threads stay. In a thread that is in a trap the bundle's trap stops the thread: its trap registers stay, its cycle
is charged to FAULT_PARK at the bundle's PC, and EVENT 2 names the context, the core and the slot (R43, R44, R48; the place of the
core and the slot in the frame is log 23). -/
def Obligations.TrapEntry : Prop :=
  (∀ (s : State) (t : Fin 8) (r : Trap) (pc : Pc), r.act = .trap → r.next = false →
      (s.slotOf t).phase = .ready → (s.slotOf t).trapped = false →
      let a := s.slotOf t
      let u := s.dropBundle t r pc
      let b := u.slotOf t
      b.tcause = r.code ∧ b.tpc = pc ∧ b.taddr = r.taddr ∧ b.tlane = r.tlane ∧ b.trapped = true ∧ b.pc = a.tvec
      ∧ b.phase = .ready ∧ b.lastCause = .trapEntry ∧ b.lastPc = some pc
      ∧ b.acct = a.acct.set 9 (a.acct[9] + 1)
      ∧ (∀ q, keeps a b q = true) ∧ b.g = a.g ∧ b.pending = a.pending ∧ b.fpctl = a.fpctl
      ∧ u.core.sp = s.core.sp ∧ u.mem = s.mem ∧ u.flights = s.flights
      ∧ ∀ v : Fin 8, v ≠ t → u.slotOf v = s.slotOf v)
  ∧ (∀ (s : State) (t : Fin 8) (r : Trap) (pc : Pc), r.act = .trap → (s.slotOf t).phase = .ready →
      (s.slotOf t).trapped = true →
      let a := s.slotOf t
      let u := s.dropBundle t r pc
      let b := u.slotOf t
      b.phase = .parked pc ∧ b.tcause = a.tcause ∧ b.tpc = a.tpc ∧ b.taddr = a.taddr ∧ b.tlane = a.tlane
      ∧ b.lastCause = .faultPark ∧ b.lastPc = some pc ∧ b.acct = a.acct.set 14 (a.acct[14] + 1)
      ∧ (∃ f, u.out = f :: s.out ∧ f.kind = none ∧ f.type = 3
          ∧ f.payload = [BitVec.ofNat 64 (2 * 2 ^ 56 + s.core.key.ctx % 2 ^ 32), BitVec.ofNat 64 s.core.key.lidx,
              BitVec.ofNat 64 t.val]))

/-- Of the traps that the slots of a bundle raise, the one that stands is first in the order of stage, code, lane and slot: the lowest
stage, of one stage the lowest code, of one code the lowest lane, of one lane the lowest slot. After a slot has raised r, the trap that
stands is r, or the one that stood if that comes before r or ties with it.
A bundle that traps at F, D, E1 or E3 has no effect: what its slots did before the trap was decided leaves no trace, whatever it
was (R44, R45). -/
def Obligations.TrapChoice : Prop :=
  (∀ (s : State) (r : Trap),
      (s.cur.trap = none → (s.takeTrap r).cur.trap = some r)
      ∧ (∀ b, s.cur.trap = some b → (s.takeTrap r).cur.trap = some (if b.before r then b else r))
      ∧ (∀ a b : Trap, a.before b = true ↔ a.stage < b.stage ∨ (a.stage = b.stage ∧ (a.code.toNat < b.code.toNat ∨ (a.code = b.code ∧
          (a.lane < b.lane ∨ (a.lane = b.lane ∧ a.slot ≤ b.slot))))))
      ∧ (∀ a b c : Trap, a.before b = true → b.before c = true → a.before c = true)
      ∧ (∀ a b : Trap, a.before b = true ∨ b.before a = true))
  ∧ (∀ (s u before : State) (p q : Bool) (r : Trap), s.cur.trap = some r → u.cur.trap = some r → r.stage ≤ 3 →
      s.cur.slot = u.cur.slot → s.cur.pc = u.cur.pc → s.endBundle before p = u.endBundle before q)

/-! ## Guards, names and register checks at D -/

/-- A slot executes when the predicate that its guard names, read at D and renamed, differs from NEG; with p0 it always or never
does. A slot that does not execute, and that no check of its bits or of its guard refuses, changes nothing (R219). -/
def Obligations.Guards : Prop :=
  (∀ (s : State) (g : Guard), s.executes g = (s.cur.pre.readP g.pred != g.neg))
  ∧ (∀ s : State, s.executes ⟨false, 0⟩ = true ∧ s.executes ⟨true, 0⟩ = false)
  ∧ (∀ (t : Thread) (n : PReg), 8 ≤ n.val → t.readP n = t.p[(physP t.rrb n).val])
  ∧ (∀ (i : Instr) (s : State), (slotInfo i).slot < 5 → s.executes (slotInfo i).guard = false → staticTraps i s = [] →
      scoreTraps s (slotInfo i).slot (.p (slotInfo i).guard.pred) = [] → exec i s = .next s)

/-- The rotating regions s24 to s31, v24 to v31 and p8 to p15 are renamed by RRB: Phys(n) = b + ((n - b - RRB) mod 8); the others are
not renamed (R57). -/
def Obligations.Renaming : Prop :=
  (∀ (rrb : BitVec 3) (n : Fin 32), 24 ≤ n.val →
      ((physS rrb n).val : Int) = 24 + ((n.val : Int) - 24 - rrb.toNat) % 8)
  ∧ (∀ (rrb : BitVec 3) (n : Fin 32), n.val < 24 → physS rrb n = n)
  ∧ (∀ (rrb : BitVec 3) (n : PReg), 8 ≤ n.val → ((physP rrb n).val : Int) = 8 + ((n.val : Int) - 8 - rrb.toNat) % 8)
  ∧ (∀ (rrb : BitVec 3) (n : PReg), n.val < 8 → physP rrb n = n)
  ∧ (∀ (s : State) (n : SReg), n ≠ 0 → s.cur.pre.sdead = 0 → s.rs n = s.cur.pre.s[(physS s.cur.pre.rrb n).val])
  ∧ (∀ (s : State) (n : VReg), s.cur.pre.vdead = 0 → s.rv n = s.cur.pre.v[(physS s.cur.pre.rrb n).val])
  ∧ (∀ (s : State) (n : PReg), n ≠ 0 → s.rp n = s.cur.pre.p[(physP s.cur.pre.rrb n).val])

/-- A write to s0, p0 or k0 is discarded, and each reads as the constant it is; a slot that names one as its destination otherwise
executes as it would with another: ADD, CMP and KMOV show it (R55). -/
def Obligations.DiscardedWrites : Prop :=
  (∀ (s : State) (v : Word), s.setS 0 v = s) ∧ (∀ (s : State) (v : Bool), s.setP 0 v = s)
  ∧ (∀ (s : State) (v : Word), s.setK 0 v = s)
  ∧ (∀ s : State, s.rs 0 = 0 ∧ s.rp 0 = true ∧ s.rk 0 = BitVec.allOnes 64)
  ∧ (∀ g a b, Does (.add g 0 a b) fun s => s)
  ∧ (∀ g cc a b, Does (.cmp g cc 0 a b) fun s => s)
  ∧ (∀ g a f, Does (.kmov g 0 a f) fun s => s)

/-- Dead bits: s2 to s31 and v0 to v31 of a thread have one, clear when a launch or SPAWN makes the thread; a register write
clears the register's, and a write of some bits of a dead vector register leaves the others 0. DEADM's two halves mark s2 to s31 and
v0 to v31 below NV, its bits 1:0 read 0, and it resets to 0 (R78, Table 3-6). -/
def Obligations.DeadBits : Prop :=
  (∀ r t, (startThread r t).sdead = 0 ∧ (startThread r t).vdead = 0)
  ∧ (∀ (old by' : Thread) arg entry u w, (old.spawned by' arg entry u w).sdead = 0 ∧ (old.spawned by' arg entry u w).vdead = 0)
  ∧ (∀ (t : Thread) (q : SReg) (v : Word), q ≠ 0 → (t.putS q v).sdead.getLsbD q.val = false
      ∧ ∀ n : SReg, n ≠ q → (t.putS q v).sdead.getLsbD n.val = t.sdead.getLsbD n.val)
  ∧ (∀ (t : Thread) (q : VReg) (v m : VWord), (t.putV q v m).vdead.getLsbD q.val = false
      ∧ (∀ n : VReg, n ≠ q → (t.putV q v m).vdead.getLsbD n.val = t.vdead.getLsbD n.val)
      ∧ (t.vdead.getLsbD q.val = true → (t.putV q v m).v[q.val] = v &&& m)
      ∧ (t.vdead.getLsbD q.val = false → (t.putV q v m).v[q.val] = (v &&& m) ||| (t.v[q.val] &&& ~~~m)))
  ∧ (∀ (t : Thread) (el : Bool) (v : Word), (t.writeCtl el 0x00B v).deadm = v &&& ~~~3)
  ∧ (∀ (s : State) (t : Thread), s.cur.pre = t → s.readCtl 0x00B = t.deadm)
  ∧ (Thread.reset.deadm = 0)
  ∧ (∀ (s : State) (n : Fin 32),
      (s.markDead.thread.sdead.getLsbD (physS s.cur.pre.rrb n).val
        = (s.thread.sdead.getLsbD (physS s.cur.pre.rrb n).val || (decide (2 ≤ n.val) && s.cur.pre.deadm.getLsbD n.val)))
      ∧ (s.markDead.thread.vdead.getLsbD (physS s.cur.pre.rrb n).val
        = (s.thread.vdead.getLsbD (physS s.cur.pre.rrb n).val
          || (decide (n.val < partNV s.record.part) && s.cur.pre.deadm.getLsbD (32 + n.val)))))

/-- A slot that names a vector register at or above NV, or a tile register at or above NT, traps ILLEGAL at D, also when its guard
is false, and also when the register stands only in a group (R71). -/
def Obligations.OutsidePart : Prop :=
  ∀ (i : Instr) (s : State) (r : Ref), (slotInfo i).slot < 5 → r ∈ readsOf i ++ writesOf i →
    (match r with
      | .v n => partNV s.record.part ≤ n.val
      | .t n => partNT s.record.part ≤ n.val
      | _ => False) →
    exec i s = .next (s.takeTrap (trapIllegal (slotInfo i).slot))

/-- An executing slot of any kind that names a register inside an open delay window, as operand, destination or guard, takes a trap at D,
DELAY with the window's PC or one of a lower code, and has no effect of its own; it may hold instead only where under CHK = HOLD it also
awaits a result, or a FENCE, outside a window (R32, R33; which of the two stands is the model's: log 45). An ADD, SEND or RECV whose s_a
is in the one open window takes the DELAY trap; with no window and s_a the one pending result, the DELAY trap under CHK = TRAP and the
hold under CHK = HOLD (X-slot forms too: log 13). One that reads a dead register or an invalid tile while DEADTRAP is set traps at D
(R80). -/
def Obligations.ScoreboardTraps : Prop :=
  (∀ (i : Instr) (s : State) (r : Ref), (slotInfo i).slot < 5 → s.executes (slotInfo i).guard = true →
    let named (x : Ref) : Prop := x ∈ readsOf i ++ writesOf i ∨ x = .p (slotInfo i).guard.pred
    let inside (w : Window) (x : Ref) : Prop := w ∈ s.cur.pre.windows ∧ w.reg = x.phys s.cur.pre.rrb ∧ 0 < w.left
    let awaited : Prop := ∃ p ∈ s.cur.pre.pending, ∃ x, named x ∧ p.reg = some (x.phys s.cur.pre.rrb) ∧ ∀ w, ¬inside w x
    (named r → ∀ w, inside w r →
      ∃ q : Trap, exec i s = .next (s.takeTrap q) ∧ q.stage = 1 ∧ q.code.toNat ≤ 6
        ∧ (s.cur.pre.chk = false ∨ (¬awaited ∧ s.cur.pre.fence = none) → q.act = .trap)
        ∧ (¬awaited → s.cur.pre.fence = none → q.code = 6 → ∃ w' x, named x ∧ inside w' x ∧ q.taddr = w'.pc.zeroExtend 64))
    ∧ (r ∈ readsOf i → s.cur.pre.deadtrap = true → (deadRead s.cur.pre r).isSome = true →
      ∃ q : Trap, exec i s = .next (s.takeTrap q) ∧ q.stage = 1 ∧ q.code.toNat ≤ 0x12))
  ∧ ∀ (s : State) (g : Guard) (d a b : SReg) (dst : BitVec 8) (seq : BitVec 5), s.executes g = true → dst.toNat < s.record.rect →
    let traps (x : Trap) (y : Trap) : Prop := exec (.add g d a b) s = .next (s.takeTrap x)
      ∧ exec (.send g a dst seq) s = .next (s.takeTrap y) ∧ exec (.recv g a .reg) s = .next (s.takeTrap y)
    let delay (slot : Nat) (pc : Pc) : Trap := ⟨1, 6, 0, slot, false, pc.zeroExtend 64, 0, .trap⟩
    (∀ w, s.cur.pre.windows = [w] → s.cur.pre.pending = [] → 0 < w.left → w.reg = .s (physS s.cur.pre.rrb a) →
      traps (delay 0 w.pc) (delay 4 w.pc))
    ∧ ∀ p, s.cur.pre.windows = [] → s.cur.pre.pending = [p] → p.reg = some (.s (physS s.cur.pre.rrb a)) →
      (s.cur.pre.chk = false → traps (delay 0 p.pc) (delay 4 p.pc))
      ∧ (s.cur.pre.chk = true → traps { delay 0 0 with act := .hold } { delay 4 0 with act := .hold })

/-! ## The S slot -/

/-- The three-register forms of Table 11-1 but the divisions, BEXT and BDEP write D at W and change nothing else (R236).
DIV and REM divide as signed values, DIVN and REMN as unsigned ones; a divisor of 0 gives all ones, or the dividend; the result
is readable from the third rotation after that of the issue, unless the destination is s0, and until then the register keeps its
value (R31, R237). -/
def Obligations.ScalarArithmetic : Prop :=
  (∀ (g : Guard) (d a b : SReg),
      Does (.add g d a b) (fun s => s.setS d (BitVec.ofNat 64 ((s.rs a).toNat + (s.rs b).toNat)))
      ∧ Does (.sub g d a b) (fun s => s.setS d (BitVec.ofInt 64 ((s.rs a).toInt - (s.rs b).toInt)))
      ∧ Does (.mul g d a b) (fun s => s.setS d (BitVec.ofInt 64 ((s.rs a).toInt * (s.rs b).toInt)))
      ∧ Does (.mulh g d a b) (fun s => s.setS d (BitVec.ofInt 64 ((s.rs a).toInt * (s.rs b).toInt / 2 ^ 64)))
      ∧ Does (.mulhn g d a b) (fun s => s.setS d (BitVec.ofNat 64 ((s.rs a).toNat * (s.rs b).toNat / 2 ^ 64)))
      ∧ Does (.and g d a b) (fun s => s.setS d (s.rs a &&& s.rs b))
      ∧ Does (.or g d a b) (fun s => s.setS d (s.rs a ||| s.rs b))
      ∧ Does (.xor g d a b) (fun s => s.setS d (s.rs a ^^^ s.rs b))
      ∧ Does (.andn g d a b) (fun s => s.setS d (s.rs a &&& ~~~(s.rs b)))
      ∧ Does (.orn g d a b) (fun s => s.setS d (s.rs a ||| ~~~(s.rs b)))
      ∧ Does (.shl g d a b) (fun s => s.setS d (BitVec.ofNat 64 ((s.rs a).toNat * 2 ^ ((s.rs b).toNat % 64))))
      ∧ Does (.shr g d a b) (fun s => s.setS d (BitVec.ofNat 64 ((s.rs a).toNat / 2 ^ ((s.rs b).toNat % 64))))
      ∧ Does (.sra g d a b) (fun s => s.setS d (BitVec.ofInt 64 ((s.rs a).toInt / 2 ^ ((s.rs b).toNat % 64))))
      ∧ Does (.rol g d a b) (fun s => s.setS d (BitVec.ofNat 64
          ((s.rs a).toNat * 2 ^ ((s.rs b).toNat % 64) + (s.rs a).toNat / 2 ^ (64 - (s.rs b).toNat % 64))))
      ∧ Does (.min g d a b) (fun s => s.setS d (BitVec.ofInt 64 (Min.min (s.rs a).toInt (s.rs b).toInt)))
      ∧ Does (.max g d a b) (fun s => s.setS d (BitVec.ofInt 64 (Max.max (s.rs a).toInt (s.rs b).toInt)))
      ∧ Does (.minn g d a b) (fun s => s.setS d (BitVec.ofNat 64 (Min.min (s.rs a).toNat (s.rs b).toNat)))
      ∧ Does (.maxn g d a b) (fun s => s.setS d (BitVec.ofNat 64 (Max.max (s.rs a).toNat (s.rs b).toNat))))
  ∧ (∀ (g : Guard) (d a b : SReg),
      Does (.div g d a b) (fun s => s.laterS d (if s.rs b = 0 then BitVec.allOnes 64
        else BitVec.ofInt 64 (Int.tdiv (s.rs a).toInt (s.rs b).toInt)) 3)
      ∧ Does (.rem g d a b) (fun s => s.laterS d (if s.rs b = 0 then s.rs a
        else BitVec.ofInt 64 (Int.tmod (s.rs a).toInt (s.rs b).toInt)) 3)
      ∧ Does (.divn g d a b) (fun s => s.laterS d (if s.rs b = 0 then BitVec.allOnes 64
        else BitVec.ofNat 64 ((s.rs a).toNat / (s.rs b).toNat)) 3)
      ∧ Does (.remn g d a b) (fun s => s.laterS d (if s.rs b = 0 then s.rs a
        else BitVec.ofNat 64 ((s.rs a).toNat % (s.rs b).toNat)) 3))

/-- BEXT, BDEP and the bit counts: BEXT packs the bits of A where B has ones at the low end, BDEP spreads the low bits of A to those
places; CLZ, CTZ and POPC count leading zeros, trailing zeros and ones; BREV turns the bits round (R238, R239). -/
def Obligations.ScalarBits : Prop :=
  let ones (x : Word) (i : Nat) : Nat := (List.range i).countP fun j => x.getLsbD j
  ∀ (g : Guard) (d a b : SReg),
    Does (.bext g d a b) (fun s => s.setS d (BitVec.ofNat 64 (((List.range 64).map fun i =>
      if (s.rs b).getLsbD i && (s.rs a).getLsbD i then 2 ^ ones (s.rs b) i else 0).sum)))
    ∧ Does (.bdep g d a b) (fun s => s.setS d (BitVec.ofNat 64 (((List.range 64).map fun i =>
      if (s.rs b).getLsbD i && (s.rs a).getLsbD (ones (s.rs b) i) then 2 ^ i else 0).sum)))
    ∧ Does (.clz g d a) (fun s => s.setS d (BitVec.ofNat 64
      ((List.range 64).takeWhile fun i => !(s.rs a).getLsbD (63 - i)).length))
    ∧ Does (.ctz g d a) (fun s => s.setS d (BitVec.ofNat 64 ((List.range 64).takeWhile fun i => !(s.rs a).getLsbD i).length))
    ∧ Does (.popc g d a) (fun s => s.setS d (BitVec.ofNat 64 (ones (s.rs a) 64)))
    ∧ Does (.brev g d a) (fun s => s.setS d (BitVec.ofNat 64 (((List.range 64).map fun i =>
      if (s.rs a).getLsbD (63 - i) then 2 ^ i else 0).sum)))

/-- The immediate forms, LI, LIH, LEA and SEL write D at W (R240 to R242, R244).
CMP and CMPI write the condition of Table 10-3, codes 2 to 5 comparing signed and codes 6 to 9 unsigned numbers; the predicate
forms write their logic; each writes at W (R222, R243, R245). -/
def Obligations.ImmediatesAndPredicates : Prop :=
  (∀ (g : Guard) (d a b : SReg) (v : BitVec 36) (n : Fin 64) (h : BitVec 32) (sh : Fin 8) (o : BitVec 17) (p : PReg),
      Does (.addi g d a v) (fun s => s.setS d (BitVec.ofInt 64 ((s.rs a).toInt + v.toInt)))
      ∧ Does (.andi g d a v) (fun s => s.setS d (s.rs a &&& BitVec.ofNat 64 v.toNat))
      ∧ Does (.ori g d a v) (fun s => s.setS d (s.rs a ||| BitVec.ofNat 64 v.toNat))
      ∧ Does (.xori g d a v) (fun s => s.setS d (s.rs a ^^^ BitVec.ofNat 64 v.toNat))
      ∧ Does (.shli g d a n) (fun s => s.setS d (BitVec.ofNat 64 ((s.rs a).toNat * 2 ^ n.val)))
      ∧ Does (.shri g d a n) (fun s => s.setS d (BitVec.ofNat 64 ((s.rs a).toNat / 2 ^ n.val)))
      ∧ Does (.srai g d a n) (fun s => s.setS d (BitVec.ofInt 64 ((s.rs a).toInt / 2 ^ n.val)))
      ∧ Does (.li g d v) (fun s => s.setS d (BitVec.ofInt 64 v.toInt))
      ∧ Does (.lih g d a h) (fun s => s.setS d (BitVec.ofNat 64 (h.toNat * 2 ^ 32 + (s.rs a).toNat % 2 ^ 32)))
      ∧ Does (.lea g d a b sh o) (fun s => s.setS d
        (BitVec.ofInt 64 ((s.rs a).toNat + (s.rs b).toNat * 2 ^ sh.val + o.toInt)))
      ∧ Does (.sel g d p a b) (fun s => s.setS d (if s.rp p = true then s.rs a else s.rs b)))
  ∧ (let holds (c : Cond) (x y : Word) : Bool := match c with
      | .eq => decide (x = y)
      | .ne => decide (x ≠ y)
      | .lt => decide (x.toInt < y.toInt)
      | .ge => decide (y.toInt ≤ x.toInt)
      | .le => decide (x.toInt ≤ y.toInt)
      | .gt => decide (y.toInt < x.toInt)
      | .ltn => decide (x.toNat < y.toNat)
      | .gen => decide (y.toNat ≤ x.toNat)
      | .len => decide (x.toNat ≤ y.toNat)
      | .gtn => decide (y.toNat < x.toNat)
      | .un | .ord => false
    ∀ (g : Guard) (cc : Cond) (d p q : PReg) (a b : SReg) (v : BitVec 36) (x : Bool),
      Does (.cmp g cc d a b) (fun s => s.setP d (holds cc (s.rs a) (s.rs b)))
      ∧ Does (.cmpi g cc d a v) (fun s => s.setP d (holds cc (s.rs a) (BitVec.ofInt 64 v.toInt)))
      ∧ Does (.pand g d p q) (fun s => s.setP d (s.rp p && s.rp q))
      ∧ Does (.por g d p q) (fun s => s.setP d (s.rp p || s.rp q))
      ∧ Does (.pxor g d p q) (fun s => s.setP d (xor (s.rp p) (s.rp q)))
      ∧ Does (.pnot g d p) (fun s => s.setP d (!s.rp p))
      ∧ Does (.pset g d x) (fun s => s.setP d x))

/-- Control transfers: the next bundle is the target, a bundle index modulo 4,096; CALL and CALLR write p + 1 to s1, read at D; CALL,
CALLR and RET first mark dead what DEADM names (R79, R246, R247). -/
def Obligations.Transfers : Prop :=
  let goes (s : State) (n : Int) : State := { s with cur := { s.cur with next := BitVec.ofInt 12 n } }
  ∀ (g : Guard) (a : SReg) (v : BitVec 36) (t : Pc),
    Does (.br g v) (fun s => goes s (s.cur.pc.toNat + v.toInt))
    ∧ Does (.jmp g t) (fun s => goes s t.toNat)
    ∧ Does (.jr g a) (fun s => goes s ((s.rs a).toNat % 4096 : Nat))
    ∧ Does (.call g t) (fun s => goes (s.markDead.setS 1 (BitVec.ofNat 64 ((s.cur.pc.toNat + 1) % 4096))) t.toNat)
    ∧ Does (.callr g a) (fun s => goes (s.markDead.setS 1 (BitVec.ofNat 64 ((s.cur.pc.toNat + 1) % 4096)))
        ((s.rs a).toNat % 4096 : Nat))
    ∧ Does (.ret g) (fun s => goes s.markDead ((s.rs 1).toNat % 4096 : Nat))

/-- Dead marking names registers through the RRB that the bundle read at D: bit n of DEADM's low half marks s_n, n from 2 on, bit
n of its high half v_n, n below NV; no other dead bit and no other state of the thread changes (R79, Table 3-6). -/
def Obligations.DeadMarking : Prop :=
  ∀ (s : State),
    let m := s.cur.pre.deadm
    let u := s.markDead.thread
    (∀ n : SReg, u.sdead.getLsbD (physS s.cur.pre.rrb n).val
      = (s.thread.sdead.getLsbD (physS s.cur.pre.rrb n).val || (decide (2 ≤ n.val) && m.getLsbD n.val)))
    ∧ (∀ n : VReg, u.vdead.getLsbD (physS s.cur.pre.rrb n).val
      = (s.thread.vdead.getLsbD (physS s.cur.pre.rrb n).val
        || (decide (n.val < partNV s.record.part) && m.getLsbD (32 + n.val))))
    ∧ u = { s.thread with sdead := u.sdead, vdead := u.vdead }

/-- LSET writes LC and EC. LOOP with LC not 0 counts LC down and writes 1, else with EC not 0 counts EC down and writes 0, to the
physical predicate that logical p8 has under the new RRB, steps RRB on and transfers; with both 0 it does nothing (R248, R249). -/
def Obligations.Loops : Prop :=
  ∀ (g : Guard) (a : SReg) (ec : Byte) (v : BitVec 36),
    Does (.lset g a ec) (fun s => s.modThread fun t => { t with lc := s.rs a, ec := ec })
    ∧ DoesWhen (.loop g v) (fun s => s.cur.pre.lc == 0 && s.cur.pre.ec == 0) (fun s => s)
    ∧ DoesWhen (.loop g v) (fun s => s.cur.pre.lc != 0 || s.cur.pre.ec != 0) (fun s =>
      let old := s.cur.pre
      let rrb := old.rrb + 1
      let q : PReg := Fin.ofNat 16 (8 + (8 - rrb.toNat) % 8)
      let stage : Bool := old.lc != 0
      { s.modThread (fun t =>
          { t with rrb := rrb, p := t.p.set q.val stage,
                   lc := if stage = true then old.lc - 1 else t.lc, ec := if stage = true then t.ec else old.ec - 1 }) with
        cur := { s.cur with loopPred := some q, next := BitVec.ofInt 12 (s.cur.pc.toNat + v.toInt) } })

/-- SPAWN writes 1 and creates nothing when its slot is occupied; when it is vacant it writes 0, and the slot holds a ready thread
at ENTRY with s2 the argument, the other scalars 0, p0 and k0 alone set, the spawner's segments, TVEC, SEED, WIRETO, CHK and
DEADTRAP, its rounding mode and enables with no flag, and every other control register 0; it first issues in the slot's first cycle
after SPAWN's W (R36, R251, R252). -/
def Obligations.Spawns : Prop :=
  ∀ (g : Guard) (d a : SReg) (entry : Pc) (u : Fin 8),
    DoesWhen (.spawn g d a entry u) (fun s => s.core.slots[u.val].phase != .vacant) (fun s => s.setS d 1)
    ∧ ∀ s : State, s.ready (.spawn g d a entry u) = true → s.core.slots[u.val].phase = .vacant → u ≠ s.cur.slot →
      ∃ t, exec (.spawn g d a entry u) s = .next t
        ∧ t.thread = (s.begun (.spawn g d a entry u)).thread.putS (physS s.cur.pre.rrb d) 0
        ∧ (∀ v : Fin 8, v ≠ u → v ≠ s.cur.slot → t.core.slots[v.val] = s.core.slots[v.val])
        ∧ let x := t.core.slots[u.val]
          let by' := s.cur.pre
          x.phase = .ready ∧ x.pc = entry ∧ x.lastrp = entry ∧ s.cur.vt + 7 < x.start ∧ x.start ≤ s.cur.vt + 15
          ∧ x.start % 8 = u.val
          ∧ x.s = (Vector.replicate 32 0).set 2 (s.rs a) ∧ x.p = (Vector.replicate 16 false).set 0 true
          ∧ x.k = (Vector.replicate 8 0).set 0 (BitVec.allOnes 64) ∧ x.v = s.core.slots[u.val].v
          ∧ x.t = s.core.slots[u.val].t ∧ x.sdead = 0 ∧ x.vdead = 0
          ∧ x.g = by'.g ∧ x.tvec = by'.tvec ∧ x.seed = by'.seed ∧ x.wireto = by'.wireto ∧ x.chk = by'.chk
          ∧ x.deadtrap = by'.deadtrap ∧ x.fpctl = by'.fpctl &&& ~~~0x1F
          ∧ x.rrb = 0 ∧ x.lc = 0 ∧ x.ec = 0 ∧ x.deadm = 0 ∧ x.tcause = 0 ∧ x.tpc = 0 ∧ x.taddr = 0 ∧ x.tlane = 0
          ∧ x.bkpt = Vector.replicate 4 0 ∧ x.trapped = false ∧ x.deadseen = false
          ∧ x.windows = [] ∧ x.pending = [] ∧ x.deferred = []

/-- HALT retires its thread, with its pending results and windows, and leaves its registers where they are; PARK waits until
the shared register differs from A, and goes on when it does already, as of the cycles before its E3 (R35, R37, R253, R256).
TRAP takes a SOFTWARE trap at W, after the other effects of its bundle, with TADDR the immediate and TPC the next bundle; at
the bundle's end the thread, when in no trap, goes on at TVEC with those registers written. ERET clears TRAPPED, goes on at TPC,
and keeps breakpoints off the bundle there (R47, R254, R255). -/
def Obligations.ThreadControl : Prop :=
  (∀ (g : Guard) (a : SReg) (c : CReg),
      Does (.halt g) (fun s => s.modThread fun t =>
        { t with phase := .vacant, start := s.cur.vt + 7, pending := [], windows := [], deferred := [] })
      ∧ DoesWhen (.park g a c) (fun s => s.core.sharedAt c 9 s.core.vx != s.rs a) (fun s => s)
      ∧ DoesWhen (.park g a c) (fun s => s.core.sharedAt c 9 s.core.vx == s.rs a) (fun s => s.waits (.park (s.rs a) c)))
  ∧ ((∀ g, Does (.eret g) fun s =>
      { s.modThread (fun t => { t with trapped := false, skipBreak := true }) with
        cur := { s.cur with next := s.cur.pre.tpc } })
    ∧ ∀ (g : Guard) (v : BitVec 36) (s before : State) (rp : Bool), s.ready (.trap g v) = true → s.cur.trap = none →
        ∃ t, exec (.trap g v) s = .next t
          ∧ t.cur.trap = some ⟨5, 0x0E, 0, 0, true, BitVec.ofNat 64 v.toNat, 0, .trap⟩
          ∧ (s.thread.phase = .ready → s.cur.pre.trapped = false →
              let u := (t.endBundle before rp).thread
              u.tcause = 0x0E ∧ u.tpc = s.cur.next ∧ u.taddr = BitVec.ofNat 64 v.toNat ∧ u.tlane = 0 ∧ u.trapped = true
              ∧ u.pc = s.thread.tvec ∧ (∀ r, keeps s.thread u r = true)))

/-- MFC writes the value of a control register and MTC writes the register; MFS and MTS read and write a shared register: a bundle issued
at VTICK x reads the write of one issued at VTICK v when v + 8 ≤ x, and not before, the write added last stands, and no other register
changes; SEGSET writes a well-formed A :: B to a segment register, and traps RIGHTS
with TADDR 0 when it is not well-formed; SEGGET writes a segment register's halves to a pair. Control-register numbers
0x800 and above trap PRIV at D, in MFC and in MTC, and so does an MTC of a register that threads may only read; a number that
Table 3-3 leaves unassigned traps ILLEGAL; all of it whether or not the slot executes (R59, R64, R220, R257 to R261). -/
def Obligations.SpecialRegisters : Prop :=
  (∀ (g : Guard) (d a b : SReg) (n : BitVec 12) (c : CReg) (q : GReg),
      Does (.mfc g d n) (fun s => s.setS d (s.readCtl n.toNat))
      ∧ Does (.mtc g n a) (fun s => s.writeCtl n.toNat (s.rs a))
      ∧ Does (.mfs g d c) (fun s => s.setS d (s.core.sharedAt c 8 s.cur.vt))
      ∧ Does (.mts g c a) (fun s =>
        { s with core := { s.core with cPend := s.core.cPend ++ [(s.cur.vt, c, s.rs a)] } })
      ∧ DoesWhen (.segset g q a b) (fun s => segOk (s.rs a ++ s.rs b) (partSPB s.record.part) s.record.rect)
        (fun s => s.modThread fun t => { t with g := t.g.set q.val (s.rs a ++ s.rs b) })
      ∧ (∀ (k : Core) (v x : Nat) (w : Word) (e : CReg),
          let u : Core := { k with cPend := k.cPend ++ [(v, c, w)] }
          (k.cPend = [] → k.sharedAt c 8 x = k.c[c.val])
          ∧ u.sharedAt c 8 x = (if v + 8 ≤ x then w else k.sharedAt c 8 x)
          ∧ (e ≠ c → u.sharedAt e 8 x = k.sharedAt e 8 x)
          ∧ (k.cPend.Pairwise (fun p q => p.1 ≤ q.1) → ∀ y ≤ x, (k.commitShared y).sharedAt c 8 x = k.sharedAt c 8 x))
      ∧ (∀ s : State, s.ready (.segset g q a b) = true →
          segOk (s.rs a ++ s.rs b) (partSPB s.record.part) s.record.rect = false →
          exec (.segset g q a b) s = .next (s.takeTrap (trapRights 0 0 0 0)))
      ∧ Does (.segget g d q) (fun s => (s.setS d (BitVec.ofNat 64 ((s.rg q).toNat / 2 ^ 64))).setS (regAfter d 1)
          (BitVec.ofNat 64 (s.rg q).toNat)))
  ∧ (∀ (s : State) (g : Guard) (d a : SReg) (n : BitVec 12),
      (0x800 ≤ n.toNat → exec (.mfc g d n) s = .next (s.takeTrap (trapPriv 0 n.toNat))
        ∧ exec (.mtc g n a) s = .next (s.takeTrap (trapPriv 0 n.toNat)))
      ∧ (ctlRoT n.toNat = true → exec (.mtc g n a) s = .next (s.takeTrap (trapPriv 0 n.toNat)))
      ∧ (n.toNat < 0x800 → ctlAssigned n.toNat = false → exec (.mfc g d n) s = .next (s.takeTrap (trapIllegal 0))
        ∧ exec (.mtc g n a) s = .next (s.takeTrap (trapIllegal 0))))

/-- A register narrower than 64 bits takes the low bits of an MTC, and MFC returns them with zeros above: THRCTL's fields, TVEC,
TCAUSE, TPC, TADDR, TLANE, LASTRP, RRB, LC, EC, SEED, WIRETO; FPCTL keeps its mode under a reserved RM; BKPT and WATCH keep their
assigned fields, HITX being cleared by a written 1; a write of a WATCH acts from the cycle after its W, and MFC finds the value that
stood in its D, three cycles before its E3; TDESC of a tile that PART does not allocate reads 0 (R6, R34, R64, R66, R201, R257, R258, R359, R360,
Tables 3-3, 3-4, 8-9, 16-5 and 16-6). -/
def Obligations.ControlRoundTrip : Prop :=
  ∀ (s : State) (t : Thread) (v : Word), s.cur.pre = t →
    let after (n : Nat) : State := { s with cur := { s.cur with pre := t.writeCtl s.record.elastic n v } }
    let reads (n w : Nat) : Prop := (after n).readCtl n = BitVec.ofNat 64 (v.toNat % 2 ^ w)
    reads 0x001 12 ∧ reads 0x002 8 ∧ reads 0x003 12 ∧ reads 0x004 64 ∧ reads 0x005 6 ∧ reads 0x006 12 ∧ reads 0x008 3
    ∧ reads 0x009 64 ∧ reads 0x00A 8 ∧ reads 0x011 64 ∧ reads 0x034 32
    ∧ (after 0x000).readCtl 0x000 = BitVec.ofNat 64 (b2n t.trapped * 2 ^ 15 + b2n s.record.elastic * 2 ^ 14
        + b2n (if s.record.elastic then v.getLsbD 13 else t.chk) * 2 ^ 13 + b2n (v.getLsbD 12) * 2 ^ 12
        + b2n (t.deadseen && !v.getLsbD 11) * 2 ^ 11)
    ∧ (after 0x010).readCtl 0x010 = BitVec.ofNat 64 ((if v.toNat / 2 ^ 29 % 8 < 6 then v.toNat / 2 ^ 29 % 8
        else t.fpctl.toNat / 2 ^ 29 % 8) * 2 ^ 29 + v.toNat / 2 ^ 16 % 32 * 2 ^ 16 + v.toNat % 32)
    ∧ (∀ n : Nat, n < 16 → partNT s.record.part ≤ n → s.readCtl (0x060 + n) = 0)
    ∧ (∀ j : Fin 4, (after (0x050 + j.val)).readCtl (0x050 + j.val)
        = BitVec.ofNat 64 (v.toNat / 2 ^ 62 * 2 ^ 62 + v.toNat % 2 ^ 12)
      ∧ ∀ i : Fin 4, i ≠ j → (after (0x050 + j.val)).readCtl (0x050 + i.val) = s.readCtl (0x050 + i.val))
    ∧ (∀ j : Fin 4, s.writeCtl (0x058 + j.val) v
        = { s with core := { s.core with watchPend := s.core.watchPend ++ [(s.cur.vt, j, v)] } })
    ∧ (∀ (c : Core) (j : Fin 4) (w x : Nat), c.watchPend = [(w, j, v)] →
      let hit := if c.watch[j.val].getLsbD 59 = true ∧ v.getLsbD 59 = false then 1 else 0
      let written : Word := BitVec.ofNat 64 (v.toNat / 2 ^ 60 * 2 ^ 60 + hit * 2 ^ 59 + v.toNat / 2 ^ 54 % 32 * 2 ^ 54 + v.toNat % 2 ^ 20)
      c.watchAt x = (if w + 8 ≤ x then c.watch.set j.val written else c.watch)
      ∧ c.settleWatch.watchHist = (c.watchAt c.vx :: c.watchHist).take 4 ∧ c.settleWatch.watch = c.watchAt c.vx)
    ∧ ∀ (j : Fin 4) (y : Vector Word 4), s.core.watchHist[3]? = some y → s.readCtl (0x058 + j.val) = y[j.val]

/-! ## The V slot -/

/-- The floating-point forms of one rotation compute each active lane exactly and round it once, in the mode and with the hash
that R191 and R193 give (R262, R263, R267 to R269, R282). -/
def Obligations.VectorFloat : Prop :=
  (∀ (s : State) (f : Fmt) (r : Rnd) (i : Nat) (x : Exact × Classes),
    let mode := if r = .dyn then fpMode s.cur.pre.fpctl else r
    let h := if mode = .sr then
        (hash64 s.cur.pre.seed s.core.key.lidx s.cur.slot.val (BitVec.ofNat 64 s.cur.vt) i).toNat % 2 ^ 32 else 0
    s.roundLane f r i x = ((roundTo f x.1 mode h false).1, (roundTo f x.1 mode h false).2 ||| x.2))
  ∧ ∀ (g : Guard) (d a b c : VReg) (k : KReg) (f : Fmt) (r : Rnd),
    DoesLanes (.vadd g d a b k f r) d k f (fun s i => s.roundLane f r i (fpSum [s.fa f a i, s.fa f b i] (s.mode r)))
    ∧ DoesLanes (.vsub g d a b k f r) d k f (fun s i => s.roundLane f r i (fpSum [s.fa f a i, (s.fa f b i).neg] (s.mode r)))
    ∧ DoesLanes (.vmul g d a b k f r) d k f (fun s i =>
        let p := fpMul (s.fa f a i) (s.fa f b i)
        s.roundLane f r i (p.1.exact, p.2))
    ∧ DoesLanes (.vfma g d a b c k f r) d k f (fun s i =>
        let p := fpMul (s.fa f a i) (s.fa f b i)
        let x := fpSum [p.1, s.fa f c i] (s.mode r)
        s.roundLane f r i (x.1, x.2 ||| p.2))
    ∧ DoesLanes (.vfms g d a b c k f r) d k f (fun s i =>
        let p := fpMul (s.fa f a i) (s.fa f b i)
        let x := fpSum [p.1, (s.fa f c i).neg] (s.mode r)
        s.roundLane f r i (x.1, x.2 ||| p.2))
    ∧ DoesLanes (.vfnma g d a b c k f r) d k f (fun s i =>
        let p := fpMul (s.fa f a i) (s.fa f b i)
        let x := fpSum [p.1.neg, s.fa f c i] (s.mode r)
        s.roundLane f r i (x.1, x.2 ||| p.2))
    ∧ DoesLanes (.vrcp g d a k f r) d k f (fun s i => s.roundLane f r i (fpRcp (s.fa f a i)))
    ∧ DoesLanes (.vrsq g d a k f r) d k f (fun s i => s.roundLane f r i (fpRsq (s.fa f a i)))
    ∧ DoesLanes (.vmin g d a b k f) d k f (fun s i => (fpMinMax f false (s.va f a i) (s.va f b i), 0))
    ∧ DoesLanes (.vmax g d a b k f) d k f (fun s i => (fpMinMax f true (s.va f a i) (s.va f b i), 0))
    ∧ DoesLanes (.vabs g d a k f) d k f (fun s i => (withSign f (s.va f a i) false, 0))
    ∧ DoesLanes (.vneg g d a k f) d k f (fun s i => (withSign f (s.va f a i) (!fpSign f (s.va f a i)), 0))
    ∧ DoesLanes (.vcpys g d a b k f) d k f (fun s i => (withSign f (s.va f a i) (fpSign f (s.va f b i)), 0))
    ∧ (∀ inp : Fmt, DoesLanes (.vdot g d a b k f inp r) d k f (fun s i => s.dotLane d a b f inp r i))

/-- VDIV and VSQRT come with the fourth rotation after that of their issue, VEXP2 and VLOG2 with the second; until then the
destination keeps its value (R263, R267, R268). -/
def Obligations.VectorLong : Prop :=
  ∀ (g : Guard) (d a b : VReg) (k : KReg) (f : Fmt) (r : Rnd),
    let later (i : Instr) (l : Nat) (x : State → Nat → Exact × Classes) : Prop :=
      Does i fun s => s.laterV d k f (s.lanesOf k f fun i => s.roundLane f r i (x s i)) l
    later (.vdiv g d a b k f r) 4 (fun s i => fpDivide (s.fa f a i) (s.fa f b i))
    ∧ later (.vsqrt g d a k f r) 4 (fun s i => fpSqrt (s.fa f a i))
    ∧ later (.vexp2 g d a k f r) 2 (fun s i => fpExp2 (s.fa f a i))
    ∧ later (.vlog2 g d a k f r) 2 (fun s i => fpLog2 (s.fa f a i))

/-- Integer, shift and logic forms compute each active lane in the format's integers; results wrap, or saturate under .SAT; shift
counts are taken modulo the width; VHASH gives the top bits of Mix (R189, R262, R272, R273, R284). -/
def Obligations.VectorInteger : Prop :=
  ∀ (g : Guard) (d a b : VReg) (k : KReg) (f : Fmt) (sat : Bool) (hb : Fin 32),
    let w := f.width
    let wrap (x : Int) : Nat := (x % (2 ^ w : Nat)).toNat
    let lo : Int := if f.isSigned then -(2 ^ (w - 1) : Nat) else 0
    let hi : Int := if f.isSigned then (2 ^ (w - 1) : Nat) - 1 else (2 ^ w : Nat) - 1
    let fit (x : Int) : Nat := wrap (if sat then Max.max lo (Min.min hi x) else x)
    let ival (s : State) (n : VReg) (i : Nat) : Int :=
      if f.isSigned ∧ 2 ^ (w - 1) ≤ s.va f n i then (s.va f n i : Int) - (2 ^ w : Nat) else s.va f n i
    DoesLanes (.viadd g d a b k f sat) d k f (fun s i => (fit (ival s a i + ival s b i), 0))
    ∧ DoesLanes (.visub g d a b k f sat) d k f (fun s i => (fit (ival s a i - ival s b i), 0))
    ∧ DoesLanes (.vimul g d a b k f sat) d k f (fun s i => (fit (ival s a i * ival s b i), 0))
    ∧ DoesLanes (.vimulh g d a b k f) d k f (fun s i => (wrap (ival s a i * ival s b i / (2 ^ w : Nat)), 0))
    ∧ DoesLanes (.vimin g d a b k f) d k f (fun s i => (wrap (Min.min (ival s a i) (ival s b i)), 0))
    ∧ DoesLanes (.vimax g d a b k f) d k f (fun s i => (wrap (Max.max (ival s a i) (ival s b i)), 0))
    ∧ DoesLanes (.viabs g d a k f sat) d k f (fun s i => (fit (ival s a i).natAbs, 0))
    ∧ DoesLanes (.vshl g d a b k f) d k f (fun s i => (s.va f a i * 2 ^ (s.va f b i % w) % 2 ^ w, 0))
    ∧ DoesLanes (.vshr g d a b k f) d k f (fun s i => (s.va f a i / 2 ^ (s.va f b i % w), 0))
    ∧ DoesLanes (.vsra g d a b k f) d k f (fun s i =>
        (wrap ((if 2 ^ (w - 1) ≤ s.va f a i then (s.va f a i : Int) - (2 ^ w : Nat) else s.va f a i)
          / (2 ^ (s.va f b i % w) : Nat)), 0))
    ∧ DoesLanes (.vand g d a b k f) d k f (fun s i => (s.va f a i &&& s.va f b i, 0))
    ∧ DoesLanes (.vor g d a b k f) d k f (fun s i => (s.va f a i ||| s.va f b i, 0))
    ∧ DoesLanes (.vxor g d a b k f) d k f (fun s i => (s.va f a i ^^^ s.va f b i, 0))
    ∧ DoesLanes (.vandn g d a b k f) d k f (fun s i => (s.va f a i &&& (2 ^ w - 1 - s.va f b i), 0))
    ∧ DoesLanes (.vpopc g d a k f) d k f (fun s i => (((List.range w).filter (s.va f a i).testBit).length, 0))
    ∧ DoesLanes (.vhash g d a k f hb) d k f (fun s i =>
        let z := (mix (BitVec.ofNat 64 (s.va f a i))).toNat
        (if hb.val = 0 then z % 2 ^ w else z / 2 ^ (64 - hb.val), 0))

/-- VCMP and VCLASS write bit i of an active lane where the condition or the class holds and 0 elsewhere; the mask forms work on
the format's mask bits, and KPOPC counts them (R56, R262, R270, R271, R283). -/
def Obligations.VectorMasks : Prop :=
  let signed (f : Fmt) (x : Nat) : Int := if x < 2 ^ (f.width - 1) then x else (x : Int) - (2 ^ f.width : Nat)
  let compare (cc : Cond) (f : Fmt) (x y : Nat) : Bool := match cc with
    | .eq => decide (x = y)
    | .ne => decide (x ≠ y)
    | .lt => decide (signed f x < signed f y)
    | .ge => decide (signed f y ≤ signed f x)
    | .le => decide (signed f x ≤ signed f y)
    | .gt => decide (signed f y < signed f x)
    | .ltn => decide (x < y)
    | .gen => decide (y ≤ x)
    | .len => decide (x ≤ y)
    | .gtn => decide (y < x)
    | .un | .ord => false
  ∀ (g : Guard) (d a b k : KReg) (n : SReg) (x y : VReg) (f : Fmt) (cc : Cond) (c : VClass),
    let cmp (s : State) (i : Nat) : Nat × Classes :=
      if f.isFloat = true then (b2n (fpCompare cc (s.fa f x i) (s.fa f y i)).1, (fpCompare cc (s.fa f x i) (s.fa f y i)).2)
      else (b2n (compare cc f (s.va f x i) (s.va f y i)), 0)
    let bits (v : State → Nat → Bool) (s : State) : State :=
      s.setK d (BitVec.ofNat 64 (((List.range f.maskLanes).map fun i => if v s i then 2 ^ i else 0).sum))
    DoesWhen (.vcmp g cc d x y k f) (fun s => s.noFpTrap (s.lanesOf k f (cmp s))) (fun s => s.putMask d (s.lanesOf k f (cmp s)))
    ∧ Does (.vclass g c d x k f) (fun s => s.putMask d (s.lanesOf k f fun i => (b2n (fpClass f c (s.va f x i)), 0)))
    ∧ Does (.kand g d a b f) (bits fun s i => (s.rk a).getLsbD i && (s.rk b).getLsbD i)
    ∧ Does (.kor g d a b f) (bits fun s i => (s.rk a).getLsbD i || (s.rk b).getLsbD i)
    ∧ Does (.kxor g d a b f) (bits fun s i => xor ((s.rk a).getLsbD i) ((s.rk b).getLsbD i))
    ∧ Does (.knot g d a f) (bits fun s i => !(s.rk a).getLsbD i)
    ∧ Does (.kmov g d a f) (bits fun s i => (s.rk a).getLsbD i)
    ∧ Does (.kpopc g n a f) (fun s => s.setS n (BitVec.ofNat 64 ((List.range f.maskLanes).countP (s.rk a).getLsbD)))

/-- Conversions, moves, permutations, reductions and scans: which element each lane takes (R274 to R281). -/
def Obligations.VectorMoves : Prop :=
  ∀ (g : Guard) (d a b : VReg) (n : SReg) (k : KReg) (f src : Fmt) (r : Rnd) (o : Bool) (m : GroupSize) (j : BitVec 21)
    (pat : ShufPat) (op : RedOp),
    let whole (v : State → Nat → Nat) (s : State) : State := s.setV d (ofLanes 512 f.width f.lanes (v s))
    let on (s : State) (i : Nat) : Bool := laneOn f (s.rk k) i
    let below (s : State) (i : Nat) : Nat := ((List.range i).filter (on s)).length
    let cvt (s : State) : List (Nat × Nat × Classes) :=
      laneResults (512 / Max.max f.width src.width) (on s) fun i => s.convertLane f src r o i (s.va src a i)
    DoesWhen (.vcvt g d a k f src r o) (fun s => s.noFpTrap (cvt s)) (fun s =>
        (s.setVm d (resultValue 512 f.width (cvt s))
          (lanesMask f.width f.lanes fun i => decide (512 / Max.max f.width src.width ≤ i) || on s i)).orFlags
            (resultRaised (cvt s)).all)
    ∧ DoesLanes (.vpack g d a b k f src r o) d k f (fun s i => s.convertLane f src r o i
        (if i < src.lanes then s.va src a i else s.va src b (i - src.lanes)))
    ∧ Does (.vunpk g d a k f src) (fun s =>
        let half (h : Nat) := ofLanes 512 f.width f.lanes fun i => (convert f src (s.va src a (h * f.lanes + i)) .rne 0 false).1
        (s.setVm d (half 0) (activeMask f (s.rk k))).setVm (regAfter d 1) (half 1) (activeMask f (s.rk k)))
    ∧ Does (.vmov g d a k f m) (fun s =>
        (List.range m.size).foldl (fun u i => u.setVm (regAfter d i) (s.rv (regAfter a i)) (activeMask f (s.rk k))) s)
    ∧ Does (.vsel g d a b k f) (whole fun s i => if on s i then s.va f a i else s.va f b i)
    ∧ DoesLanes (.vbcast g d n k f) d k f (fun s _ => ((s.rs n).toNat % 2 ^ f.width, 0))
    ∧ Does (.vins g d n f j) (fun s =>
        s.setVm d (ofLanes 512 f.width f.lanes fun i => if i = j.toNat then (s.rs n).toNat else 0)
          (lanesMask f.width f.lanes fun i => i == j.toNat))
    ∧ Does (.vext g n a f j) (fun s => s.setS n (if f.isSigned then BitVec.signExtend 64 (BitVec.ofNat f.width (s.va f a j.toNat))
        else BitVec.ofNat 64 (s.va f a j.toNat)))
    ∧ DoesLanes (.vperm g d a b k f) d k f (fun s i => (s.va f a (s.va f b i % f.lanes), 0))
    ∧ DoesLanes (.vshuf g pat d a b k f) d k f (fun s i =>
        let h := f.lanes / 2
        (match pat with
          | .ziplo => s.va f (if i % 2 = 0 then a else b) (i / 2)
          | .ziphi => s.va f (if i % 2 = 0 then a else b) (h + i / 2)
          | .even => if i < h then s.va f a (2 * i) else s.va f b (2 * (i - h))
          | .odd => if i < h then s.va f a (2 * i + 1) else s.va f b (2 * (i - h) + 1), 0))
    ∧ DoesLanes (.vrot g d a k f j) d k f (fun s i => (s.va f a ((i + j.toNat) % f.lanes), 0))
    ∧ Does (.vcomp g d a k f) (whole fun s i =>
        match ((List.range f.lanes).filter (on s))[i]? with
        | some l => s.va f a l
        | none => 0)
    ∧ Does (.vexpd g d a k f) (whole fun s i => if on s i then s.va f a (below s i) else 0)
    ∧ Does (.viota g d k f) (whole below)
    ∧ DoesWhen (.vred g op d a k f r o) (fun s => s.noFpTrap [(0, s.vredResult op a k f r o)]) (fun s =>
        (s.setV d (BitVec.ofNat 512 ((s.vredResult op a k f r o).1 % 2 ^ f.width))).orFlags (s.vredResult op a k f r o).2)
    ∧ DoesWhen (.vscan g op d a k f r o)
        (fun s => s.noFpTrap (laneResults f.lanes (fun _ => true) (s.vscanResult op a k f r o))) (fun s =>
        let x := laneResults f.lanes (fun _ => true) (s.vscanResult op a k f r o)
        (s.setV d (resultValue 512 f.width x)).orFlags (resultRaised x).all)

/-- The floating-point definitions that the lane forms name, over the rational numbers, and what a lane form's write leaves.
An encoding decodes to its sign, fraction and exponent (R182, R183). RoundTo of a nonzero number v takes the quantum q, rounds |v| / 2^q
up or down by the mode, and gives the number so found, or past the largest finite one the result of Table 8-7; INEXACT when the result is
another number or overflows, UNDERFLOW when it is another number and |v| is below the smallest normal, OVERFLOW on overflow (R192, R195). A
zero keeps its sign, infinities and NaN follow Table 8-6 (R194). A sum of numbers is exact, with the sign of R190 when it is 0; NaN with
INVALID when it holds infinities of both signs (log 38), NaN when it holds a NaN; a product of infinity and 0 is NaN with INVALID (R190,
R198). VMIN and VMAX give the smaller and the larger of two values, −0 below +0, and the canonical NaN for a NaN (R269). VCMP on a NaN
makes NE and UN alone true, and LT, GE, LE and GT raise INVALID; else the codes compare values (R270). A lane of VDOT is one rounding of
the accumulator's sum with the products, and of integers the exact sum modulo 2^32 (R282).
The write leaves in an active lane its result, in another lane the destination's old value, or 0
where the destination was dead; in the mask forms, bit i the result of an active lane and 0 elsewhere (R56, R78, R262). -/
def Obligations.LanesWritten : Prop :=
  (∀ (f : Fmt) (x : Nat), f.isFloat = true → x < 2 ^ f.width →
    let mw := (fpTable f).1
    let bias := (fpTable f).2.1
    let neg := decide (2 ^ (f.width - 1) ≤ x)
    let e := x % 2 ^ (f.width - 1) / 2 ^ mw
    let m := x % 2 ^ mw
    let top := decide (e + 1 = 2 ^ (f.width - 1 - mw)) && f != .e2m1 && (f != .e4m3 || decide (m = 7))
    (top = true → fpDecode f x = (if f != .e4m3 && m == 0 then .inf neg else .nan))
    ∧ (top = false → ∃ (k : Nat) (j : Int), fpDecode f x = .fin neg k j
        ∧ (k : Rat) * twoTo j = (if e = 0 then (m : Rat) * twoTo (1 - bias - mw)
          else ((2 ^ mw + m : Nat) : Rat) * twoTo ((e : Int) - bias - mw))))
  ∧ (∀ (f : Fmt) (neg inf : Bool) (num den : Nat) (exp : Int) (mode : Rnd) (r : Nat), f.isFloat = true → num ≠ 0 → den ≠ 0 →
    mode ≠ .dyn → r < 2 ^ 32 →
    let z := roundTo f (.val neg num den exp) mode r inf
    let v : Rat := (num : Rat) / den * twoTo exp
    let mw := (fpTable f).1
    let emin : Int := 1 - (fpTable f).2.1
    let ieee := f == .fp64 || f == .fp32 || f == .fp16 || f == .bf16 || (f == .e5m2 && inf)
    ∀ l : Int, twoTo l ≤ v → v < twoTo (l + 1) →
      let q := max l emin - mw
      let t := v / twoTo q
      let lo := t.floor
      let part := t - lo
      let up : Bool := match mode with
        | .rne => decide (1 / 2 < part) || (decide (part = 1 / 2) && lo % 2 == 1)
        | .rna => decide (1 / 2 ≤ part)
        | .rup => decide (0 < part) && !neg
        | .rdn => decide (0 < part) && neg
        | .sr => decide (((2 ^ 32 : Nat) : Int) ≤ (part * (2 ^ 32 : Nat)).floor + r)
        | .rtz | .dyn => false
      let y : Rat := (lo + (if up then 1 else 0) : Int) * twoTo q
      let far := decide ((fpTable f).2.2 < y)
      let infinite := ieee && mode != .rtz && (mode != .rup || !neg) && (mode != .rdn || neg)
      let is (u : Rat) : Prop := ∃ (k : Nat) (j : Int), fpDecode f z.1 = .fin neg k j ∧ (k : Rat) * twoTo j = u
      z.1 < 2 ^ f.width
      ∧ (far = true → infinite = true → fpDecode f z.1 = .inf neg)
      ∧ (far = true → infinite = false → is (fpTable f).2.2)
      ∧ (far = false → is y)
      ∧ z.2 = (if far then clsOF ||| clsNX else 0) ||| (if y ≠ v then clsNX else 0) ||| (if y ≠ v ∧ v < twoTo emin then clsUF else 0))
  ∧ (∀ (f : Fmt) (neg inf : Bool) (den : Nat) (exp : Int) (mode : Rnd) (r : Nat), f.isFloat = true →
    let nan : Nat := match f with
      | .fp64 => 0x7FF8000000000000 | .fp32 => 0x7FC00000 | .fp16 => 0x7E00 | .bf16 => 0x7FC0 | .e4m3 => 0x7F | .e5m2 => 0x7E | _ => 0
    let sign : Nat := if neg then 2 ^ (f.width - 1) else 0
    roundTo f (.val neg 0 den exp) mode r inf = (sign, 0)
    ∧ roundTo f .nan mode r inf = (nan, if f = .e2m1 then clsNV else 0)
    ∧ roundTo f (.inf neg) mode r inf = (match f with
        | .fp64 => (sign + 0x7FF0000000000000, 0) | .fp32 => (sign + 0x7F800000, 0) | .fp16 => (sign + 0x7C00, 0)
        | .bf16 => (sign + 0x7F80, 0) | .e5m2 => (sign + 0x7C, 0) | .e4m3 => (sign + 0x7E, clsNV) | _ => (sign + 7, clsNV))
    ∧ fpTable f = (match f with
        | .fp64 => (52, 1023, (2 ^ 53 - 1) * 2 ^ 971) | .fp32 => (23, 127, (2 ^ 24 - 1) * 2 ^ 104) | .fp16 => (10, 15, 65504)
        | .bf16 => (7, 127, (2 ^ 8 - 1) * 2 ^ 120) | .e4m3 => (3, 7, 448) | .e5m2 => (2, 15, 57344) | _ => (1, 1, 6))
    ∧ ∀ x y : Nat,
      let a := fpDecode f x
      let b := fpDecode f y
      let order (x y : Nat) : Bool := match fpDecode f x, fpDecode f y with
        | .inf s, .inf t => s && !t
        | .inf s, .fin _ _ _ => s
        | .fin _ _ _, .inf t => !t
        | u, w => decide (u.value < w.value)
      let below (x y : Nat) : Bool := order x y || ((fpDecode f x).isZero && (fpDecode f y).isZero && fpSign f x && !fpSign f y)
      (a = .nan ∨ b = .nan → fpMinMax f false x y = nan ∧ fpMinMax f true x y = nan
        ∧ ∀ cc, fpCompare cc a b = (cc == .ne || cc == .un,
            if cc == .lt || cc == .ge || cc == .le || cc == .gt then clsNV else 0))
      ∧ (a ≠ .nan → b ≠ .nan → fpMinMax f false x y = (if below y x then y else x) ∧ fpMinMax f true x y = (if below x y then y else x)
        ∧ fpCompare .lt a b = (order x y, 0) ∧ fpCompare .gt a b = (order y x, 0)
        ∧ fpCompare .ge a b = (!order x y, 0) ∧ fpCompare .le a b = (!order y x, 0)
        ∧ fpCompare .eq a b = (!order x y && !order y x, 0) ∧ fpCompare .ne a b = (order x y || order y x, 0)
        ∧ fpCompare .un a b = (false, 0) ∧ fpCompare .ord a b = (true, 0)))
  ∧ (∀ (ts : List FVal) (mode : Rnd),
    ((∀ t ∈ ts, t.finite = true) → (fpSum ts mode).2 = 0
      ∧ (fpSum ts mode).1.holds (ts.all (fun t => t.isNegZero) || mode == .rdn) (ts.map FVal.value).sum)
    ∧ (.inf false ∈ ts → .inf true ∈ ts → fpSum ts mode = (.nan, clsNV))
    ∧ (¬(.inf false ∈ ts ∧ .inf true ∈ ts) → .nan ∈ ts → fpSum ts mode = (.nan, 0))
    ∧ (∀ neg, .nan ∉ ts → .inf neg ∈ ts → .inf (!neg) ∉ ts → fpSum ts mode = (.inf neg, 0)))
  ∧ (∀ a b : FVal,
    let neg (x : FVal) : Bool := match x with | .inf s | .fin s _ _ => s | .nan => false
    (a = .nan ∨ b = .nan → fpMul a b = (.nan, 0))
    ∧ (a ≠ .nan → b ≠ .nan → a.finite = false ∨ b.finite = false → fpMul a b
        = (if a.isZero || b.isZero then (.nan, clsNV) else (.inf (xor (neg a) (neg b)), 0)))
    ∧ (a.finite = true → b.finite = true → (fpMul a b).2 = 0 ∧ (fpMul a b).1.finite = true ∧ neg (fpMul a b).1 = xor (neg a) (neg b)
        ∧ (fpMul a b).1.value = a.value * b.value))
  ∧ (∀ (s : State) (d a b : VReg) (f inp : Fmt) (r : Rnd) (i : Nat),
    let n := f.width / inp.width
    let products := (List.range n).map fun j => fpMul (s.fa inp a (i * n + j)) (s.fa inp b (i * n + j))
    let total := fpSum (s.fa f d i :: products.map (·.1)) (s.mode r)
    (f.isFloat = true → s.dotLane d a b f inp r i
      = s.roundLane f r i (total.1, total.2 ||| (products.map (·.2)).foldl (· ||| ·) 0))
    ∧ (f.isFloat = false → s.dotLane d a b f inp r i = (((s.ia f d i
        + ((List.range n).map fun j => s.ia inp a (i * n + j) * s.ia inp b (i * n + j)).sum) % (2 ^ f.width : Nat)).toNat, 0)))
  ∧ ∀ (s : State) (k : KReg) (f : Fmt) (g : Nat → Nat × Classes) (i : Nat), i < f.lanes →
    (∀ d : VReg,
      let q := physS s.cur.pre.rrb d
      laneAt f.width ((s.putLanes d k f (s.lanesOf k f g)).thread.v[q.val]) i
        = if laneOn f (s.rk k) i then (g i).1 % 2 ^ f.width
          else if s.thread.vdead.getLsbD q.val then 0 else laneAt f.width (s.thread.v[q.val]) i)
    ∧ (∀ d : KReg, d ≠ 0 → 8 ≤ f.width →
      (s.putMask d (s.lanesOf k f g)).thread.k[d.val].getLsbD i = (laneOn f (s.rk k) i && (g i).1 % 2 == 1))

/-- Reductions and scans combine the present lanes over the tree of R199, each Combine by its operation: SUM rounded once by the mode, with
the lowest lane of the right half as rounding argument, or for integers wrapped or under SAT saturated; MIN and MAX as R269 orders them, or
as integers; AND, OR and XOR by bits. VSCAN folds the aligned nodes that cover lanes 0 to i, from the lowest lane upward. Without a present
lane the result is the identity of Table 12-9 (R199, R281; the classes of all Combines are raised together; log 37).
A reduction or scan by SUM of integers that wrap therefore gives the sum of the active lanes, of all of them or of those up to the lane,
modulo 2 to the width (R189). -/
def Obligations.IntegerSums : Prop :=
  (∀ (s : State) (a : VReg) (k : KReg) (f : Fmt) (r : Rnd) (op : RedOp) (sat : Bool) (node : Nat → Nat → Option Nat × Classes) (i : Nat),
    (f.isInt = true ∨ (f ∈ [Fmt.fp64, .fp32, .fp16, .bf16] ∧ op ∈ [RedOp.sum, .min, .max])) → i < f.lanes →
    let w := f.width
    let val (x : Nat) : Int := if f.isSigned ∧ 2 ^ (w - 1) ≤ x % 2 ^ w then (x % 2 ^ w : Nat) - (2 ^ w : Nat) else (x % 2 ^ w : Nat)
    let wrap (x : Int) : Nat := (x % (2 ^ w : Nat)).toNat
    let lo : Int := if f.isSigned then -(2 ^ (w - 1) : Nat) else 0
    let hi : Int := if f.isSigned then (2 ^ (w - 1) : Nat) - 1 else (2 ^ w : Nat) - 1
    let total (x : Int) : Nat := wrap (if sat then max lo (min hi x) else x)
    let apply (lane x y : Nat) : Nat × Classes :=
      match op with
      | .sum => if f.isInt then (total (val x + val y), 0) else s.roundLane f r lane (fpSum [fpDecode f x, fpDecode f y] (s.mode r))
      | .min => (if f.isInt then wrap (if val x ≤ val y then val x else val y) else fpMinMax f false x y, 0)
      | .max => (if f.isInt then wrap (if val x ≤ val y then val y else val x) else fpMinMax f true x y, 0)
      | .and => (x &&& y, 0)
      | .or => (x ||| y, 0)
      | .xor => (x ^^^ y, 0)
    let both (lane : Nat) (p q : Option Nat × Classes) : Option Nat × Classes :=
      match p.1, q.1 with
      | some x, some y => (some (apply lane x y).1, p.2 ||| q.2 ||| (apply lane x y).2)
      | some x, none => (some x, p.2 ||| q.2)
      | none, y => (y, p.2 ||| q.2)
    let result (z : Option Nat × Classes) : Nat × Classes :=
      (match z.1 with
        | some x => if f.isFloat && (fpDecode f x).isNaN then
            (match f with | .fp64 => 0x7FF8000000000000 | .fp32 => 0x7FC00000 | .fp16 => 0x7E00 | _ => 0x7FC0) else x
        | none => match op with
          | .sum | .or | .xor => 0
          | .and => 2 ^ w - 1
          | .min => (match f with
            | .fp64 => 0x7FF0000000000000 | .fp32 => 0x7F800000 | .fp16 => 0x7C00 | .bf16 => 0x7F80
            | _ => if f.isSigned then 2 ^ (w - 1) - 1 else 2 ^ w - 1)
          | .max => (match f with
            | .fp64 => 0xFFF0000000000000 | .fp32 => 0xFF800000 | .fp16 => 0xFC00 | .bf16 => 0xFF80
            | _ => if f.isSigned then 2 ^ (w - 1) else 0), z.2)
    let top := Nat.log2 f.lanes
    (∀ j, node 0 j = (if laneOn f (s.rk k) j then some (s.va f a j) else none, 0)) →
    (∀ l j, node (l + 1) j = both (2 * j * 2 ^ l + 2 ^ l) (node l (2 * j)) (node l (2 * j + 1))) →
    s.vredResult op a k f r sat = result (node top 0)
    ∧ s.vscanResult op a k f r sat i = result ((List.range (top + 1)).reverse.foldl
        (fun (z : (Option Nat × Classes) × Nat) b =>
          if (i + 1).testBit b then (both z.2 z.1 (node b (z.2 / 2 ^ b)), z.2 + 2 ^ b) else z) ((none, 0), 0)).1)
  ∧ ∀ (s : State) (a : VReg) (k : KReg) (f : Fmt) (r : Rnd) (i : Nat), f.isInt = true → i < f.lanes →
    let lane (l : Nat) : Nat := if laneOn f (s.rk k) l then s.va f a l else 0
    s.vredResult .sum a k f r false = (((List.range f.lanes).map lane).sum % 2 ^ f.width, 0)
    ∧ s.vscanResult .sum a k f r false i = (((List.range (i + 1)).map lane).sum % 2 ^ f.width, 0)

/-! ## The M slot -/

/-- The matrix forms. MMA and MMAZ add one group's products, exact, to each of the 64 elements and round once; TZERO, TCFG and TINV set
contents or descriptor; TMOV copies, TTRN transposes elements and scales, TCVT converts under Table 13-3, TADD adds, TSCALE scales by a
row's, a column's or the same element; TROWI and TROWX move a data row. Each completes on every state in which it executes normally, its
shapes fit and no result raises an enabled class; a shape that does not fit traps ILLEGAL (R63, R188, R193, R198, R285 to R298). -/
def Obligations.MatrixOps : Prop :=
  ∀ (g : Guard) (d a b : TReg) (v : VReg) (n : Fin 8) (f : Fmt) (r : Rnd) (rows cols : Byte) (mode : ScaleMode),
    let shaped (x : Tile) : Bool := x.rows != 0 && x.cols != 0
    let size (x : Tile) : Nat := x.rows.toNat * x.cols.toNat
    let isShape (x : Tile) (f : Fmt) (m n : Nat) : Bool := x.f == f && x.rows.toNat == m && x.cols.toNat == n
    let hashed (s : State) (m : Rnd) (lane : Nat) : Nat := if m = .sr then
      (hash64 s.cur.pre.seed s.core.key.lidx s.cur.slot.val (BitVec.ofNat 64 s.cur.vt) lane).toNat % 2 ^ 32 else 0
    let rounded (s : State) (f : Fmt) (r : Rnd) (lane : Nat) (x : Exact) (c : Classes) : Nat × Classes :=
      ((roundTo f x (s.mode r) (hashed s (s.mode r) lane) false).1, (roundTo f x (s.mode r) (hashed s (s.mode r) lane) false).2 ||| c)
    let byte (x : Tile) (i : Nat) : Nat := laneAt 8 x.side i
    let made (data : TileBits) (side : VWord) (f : Fmt) (rows cols : Byte) : Tile :=
      ⟨data, side, true, true, false, BitVec.ofNat 4 f.code, rows, cols⟩
    let block (x : Tile) (i : Nat) : Nat := if x.rows == 8 then 8 * (i / 128) + i % 128 / 16 else 8 * (i / 8 / 16) + i % 8
    let blocks (x : Tile) : Bool := (x.rows == 8 && x.cols == 128) || (x.rows == 128 && x.cols == 8)
    let value (x : Tile) (i : Nat) : FVal :=
      if x.f == .e2m1 && blocks x then (fpDecode x.f (x.el i)).scale (scaleExp (byte x (block x i))) else fpDecode x.f (x.el i)
    let number (x : Tile) (i : Nat) : FVal :=
      if x.f.isFloat then value x i else .fin (intVal x.f (x.el i) < 0) (intVal x.f (x.el i)).natAbs 0
    let inBlock (x : Tile) (j : Nat) : List Nat := (List.range (size x)).filter fun i => block x i = j
    -- MMA and MMAZ, by format, group size and accumulator (Table 13-2)
    (∀ p ∈ ([(.fp64, 1, .fp64), (.fp32, 2, .fp32), (.fp16, 4, .fp32), (.bf16, 4, .fp32), (.e4m3, 8, .fp32), (.e5m2, 8, .fp32),
        (.i8, 8, .i32), (.e2m1, 16, .fp32)] : List (Fmt × Nat × Fmt)),
      let k := p.2.1
      let af := p.2.2
      let fits (s : State) : Bool := isShape (s.rt a) p.1 8 (8 * k) && isShape (s.rt b) p.1 (8 * k) 8 && isShape (s.rt d) af 8 8
      let ea (s : State) (i l : Nat) : Nat := (s.rt a).el (i * (8 * k) + (n.val * k + l))
      let eb (s : State) (l j : Nat) : Nat := (s.rt b).el ((n.val * k + l) * 8 + j)
      let va (s : State) (i l : Nat) : FVal := if p.1 = .e2m1 then (fpDecode p.1 (ea s i l)).scale (scaleExp (byte (s.rt a) (8 * i + n.val)))
        else fpDecode p.1 (ea s i l)
      let vb (s : State) (l j : Nat) : FVal := if p.1 = .e2m1 then (fpDecode p.1 (eb s l j)).scale (scaleExp (byte (s.rt b) (8 * n.val + j)))
        else fpDecode p.1 (eb s l j)
      let sum (s : State) (acc i j : Nat) : Nat × Classes :=
        if p.1 = .i8 then (((List.range k).foldl (fun (t : Int) l => t + intVal .i8 (ea s i l) * intVal .i8 (eb s l j)) (intVal .i32 acc)
          % 2 ^ 32).toNat, 0)
        else
          let products := (List.range k).map fun l => fpMul (va s i l) (vb s l j)
          let x := fpSum (fpDecode af acc :: products.map (·.1)) (s.mode .dyn)
          rounded s af .dyn (128 + 8 * i + j) x.1 (x.2 ||| products.foldl (fun c q => c ||| q.2) 0)
      let all (s : State) (acc : Nat → Nat) : List (Nat × Nat × Classes) :=
        laneResults 64 (fun _ => true) fun e => sum s (acc e) (e / 8) (e % 8)
      let low : TileBits := BitVec.ofNat 4096 (2 ^ (64 * af.width) - 1)
      DoesWhen (.mma g d a b n p.1) (fun s => fits s && s.noFpTrap (all s fun e => (s.rt d).el e)) (fun s =>
          let x := all s fun e => (s.rt d).el e
          s.putTile d (made (((s.rt d).data &&& ~~~low) ||| resultValue 4096 af.width x) (s.rt d).side af 8 8) x)
      ∧ DoesWhen (.mmaz g d a b n p.1) (fun s => fits s && s.noFpTrap (all s fun _ => 0)) (fun s =>
          let x := all s fun _ => 0
          s.putTile d (made (resultValue 4096 af.width x) 0 af 8 8) x)
      ∧ TrapsWhen (.mma g d a b n p.1) (fun s => !fits s) (fun _ => trapIllegal 2)
      ∧ TrapsWhen (.mmaz g d a b n p.1) (fun s => !fits s) (fun _ => trapIllegal 2))
    ∧ Does (.tzero g d) (fun s =>
        s.setT d { s.cur.pre.t[d.val] with data := 0, side := 0, valid := true, dirty := true } true)
    ∧ Does (.tcfg g d f rows cols) (fun s =>
        s.setT d { s.cur.pre.t[d.val] with fmt := BitVec.ofNat 4 f.code, rows := rows, cols := cols, valid := false, dirty := false }
          false)
    ∧ Does (.tinv g d) (fun s => s.setT d { s.cur.pre.t[d.val] with valid := false, dirty := false } false)
    ∧ DoesWhen (.tmov g d a) (fun s => shaped (s.rt a)) (fun s => s.setT d { s.rt a with valid := true, dirty := true } true)
    ∧ TrapsWhen (.tmov g d a) (fun s => !shaped (s.rt a)) (fun _ => trapIllegal 2)
    ∧ DoesWhen (.ttrn g d a) (fun s => shaped (s.rt a)) (fun s =>
        let x := s.rt a
        let m := x.rows.toNat
        s.setT d (made (ofLanes 4096 x.f.width (size x) fun i => x.el (i % m * x.cols.toNat + i / m))
          (ofLanes 512 8 64 fun i => byte x (8 * (i % 8) + i / 8)) x.f x.cols x.rows) true)
    ∧ TrapsWhen (.ttrn g d a) (fun s => !shaped (s.rt a)) (fun _ => trapIllegal 2)
    -- TCVT: to a format other than E2M1, from E2M1 to E2M1, and into blocks
    ∧ (let fits (s : State) : Bool := shaped (s.rt a) && decide (size (s.rt a) * f.width ≤ 4096)
          && (f != .e2m1 || (s.rt a).f == .e2m1 || blocks (s.rt a))
      let lo : Int := if f.isSigned then -(2 ^ (f.width - 1) : Nat) else 0
      let hi : Int := if f.isSigned then (2 ^ (f.width - 1) : Nat) - 1 else (2 ^ f.width : Nat) - 1
      let one (s : State) (i : Nat) : Nat × Classes :=
        let x := s.rt a
        let e := x.el i
        if x.f = f then (if f.isFloat then (if (fpDecode f e).isNaN then canonNaN f else e) else e, 0)
        else if x.f.isFloat then
          (if f.isFloat then rounded s f r (128 + i % 64) (value x i).exact 0
            else fpToInt f (value x i) (s.mode r) (hashed s (s.mode r) (128 + i % 64)))
        else if f.isFloat then rounded s f r (128 + i % 64) (intExact (intVal x.f e)) 0
        else (((if intVal x.f e < lo then lo else if hi < intVal x.f e then hi else intVal x.f e) % (2 ^ f.width : Nat)).toNat, 0)
      let blocked (s : State) (i : Nat) : Nat × Classes :=
        let x := s.rt a
        let l := inBlock x (block x i)
        let sc := scaleFor (l.map (number x))
        if sc = 255 then (0, if l.head? = some i then clsNV else 0)
        else rounded s .e2m1 r (128 + i % 64) ((number x i).scale (some (127 - (sc : Int)))).exact 0
      let all (s : State) : List (Nat × Nat × Classes) := laneResults (size (s.rt a)) (fun _ => true) (one s)
      let allIn (s : State) : List (Nat × Nat × Classes) := laneResults (size (s.rt a)) (fun _ => true) (blocked s)
      (f ≠ .e2m1 → DoesWhen (.tcvt g d a f r) (fun s => fits s && s.noFpTrap (all s)) (fun s =>
        s.putTile d (made (resultValue 4096 f.width (all s)) 0 f (s.rt a).rows (s.rt a).cols) (all s)))
      ∧ DoesWhen (.tcvt g d a .e2m1 r) (fun s => shaped (s.rt a) && decide (size (s.rt a) * 4 ≤ 4096) && (s.rt a).f == .e2m1) (fun s =>
        s.setT d { s.rt a with valid := true, dirty := true } true)
      ∧ DoesWhen (.tcvt g d a .e2m1 r) (fun s => blocks (s.rt a) && (s.rt a).f != .e2m1 && s.noFpTrap (allIn s)) (fun s =>
        s.putTile d (made (resultValue 4096 4 (allIn s)) (ofLanes 512 8 64 fun j => scaleFor ((inBlock (s.rt a) j).map (number (s.rt a))))
          .e2m1 (s.rt a).rows (s.rt a).cols) (allIn s))
      ∧ TrapsWhen (.tcvt g d a f r) (fun s => !fits s) (fun _ => trapIllegal 2))
    ∧ (let fits (s : State) : Bool := shaped (s.rt a) && isShape (s.rt a) f (s.rt a).rows.toNat (s.rt a).cols.toNat
          && isShape (s.rt b) f (s.rt a).rows.toNat (s.rt a).cols.toNat
      let one (s : State) (i : Nat) : Nat × Classes :=
        if f.isFloat then
          let x := fpSum [fpDecode f ((s.rt a).el i), fpDecode f ((s.rt b).el i)] (s.mode r)
          rounded s f r (128 + i % 64) x.1 x.2
        else (((intVal f ((s.rt a).el i) + intVal f ((s.rt b).el i)) % (2 ^ f.width : Nat)).toNat, 0)
      let all (s : State) : List (Nat × Nat × Classes) := laneResults (size (s.rt a)) (fun _ => true) (one s)
      DoesWhen (.tadd g d a b f r) (fun s => fits s && s.noFpTrap (all s)) (fun s =>
        s.putTile d (made (resultValue 4096 f.width (all s)) 0 f (s.rt a).rows (s.rt a).cols) (all s))
      ∧ TrapsWhen (.tadd g d a b f r) (fun s => !fits s) (fun _ => trapIllegal 2))
    ∧ (let fits (s : State) : Bool := shaped (s.rt a) && shaped (s.rt b) && (s.rt a).f == f && (s.rt b).f == f && (match mode with
          | .row => decide ((s.rt a).rows.toNat ≤ (s.rt b).cols.toNat)
          | .col => decide ((s.rt a).cols.toNat ≤ (s.rt b).cols.toNat)
          | .elem => (s.rt a).rows == (s.rt b).rows && (s.rt a).cols == (s.rt b).cols)
      let one (s : State) (i : Nat) : Nat × Classes :=
        let m := (s.rt a).cols.toNat
        let j := match mode with
          | .row => i / m
          | .col => i % m
          | .elem => i
        let x := fpMul (fpDecode f ((s.rt a).el i)) (fpDecode f ((s.rt b).el j))
        rounded s f .dyn (128 + i % 64) x.1.exact x.2
      let all (s : State) : List (Nat × Nat × Classes) := laneResults (size (s.rt a)) (fun _ => true) (one s)
      DoesWhen (.tscale g mode d a b f) (fun s => fits s && s.noFpTrap (all s)) (fun s =>
        s.putTile d (made (resultValue 4096 f.width (all s)) 0 f (s.rt a).rows (s.rt a).cols) (all s))
      ∧ TrapsWhen (.tscale g mode d a b f) (fun s => !fits s) (fun _ => trapIllegal 2))
    ∧ DoesWhen (.trowi g d v n) (fun s => (s.rt d).valid) (fun s =>
        s.setT d { s.rt d with
          data := BitVec.ofNat 4096 ((List.range 8).map fun i =>
            (if i = n.val then (s.rv v).toNat else laneAt 512 (s.rt d).data i) * 2 ^ (512 * i)).sum,
          valid := true, dirty := true } true)
    ∧ DoesWhen (.trowi g d v n) (fun s => !(s.rt d).valid) (fun s =>
        s.setT d { s.rt d with
          data := BitVec.ofNat 4096 ((s.rv v).toNat * 2 ^ (512 * n.val)), valid := true, dirty := true } true)
    ∧ Does (.trowx g v a n) (fun s => s.setV v (BitVec.ofNat 512 (laneAt 512 (s.rt a).data n.val)))

/-! ## The L slot -/

/-- Loads read their active lanes in the own scratchpad, and what they read is extended, merged under the mask, or makes a tile;
the offset is base plus scaled index plus displacement modulo 2 to the 64 (R300, R301, R306 to R309).
The checks of Table 3-10 on the one lane of LD and ST, when no FENCE check stops it first: a KIND other than LOCAL and MESH traps RIGHTS
wherever the lane lies (R76, log 84); of these two kinds, BOUNDS past the limit, else RIGHTS where the right or the owner does not permit
the access, else ALIGN; each with TADDR the offset and no effect (R44, R45, R77, R301). The lowest armed watchpoint whose region an LD reads with RD, or an own ST writes with WR, takes a BREAK trap at E3 with the
first matching offset, or with ACT = 1 stops the thread (R360). -/
def Obligations.Loads : Prop :=
  (∀ (g : Guard) (d x : SReg) (v xv : VReg) (t : TReg) (m : MemOp) (k : KReg) (sz lw : Fin 4) (n : GroupSize) (sgn scl : Bool),
      (∀ (s : State) (f : Nat), (s.offsetX m x f : Int)
        = ((s.rs m.base).toNat + (s.rs x).toNat * f + m.disp.toInt) % (2 ^ 64 : Nat))
      ∧ DoesWhen (.ld g d m x sz sgn scl) (fun s => s.accessGood m.seg .rd false true false (scalarLanes m x sz scl s)) (fun s =>
          let b := 2 ^ sz.val
          let r := memRead s.core.sp (s.placeOf' m.seg (s.offsetX m x (if scl = true then b else 1))) b
          s.setS d (if sgn then BitVec.signExtend 64 (BitVec.ofNat (8 * b) r) else BitVec.ofNat 64 r))
      ∧ DoesWhen (.ldv g v m x k lw n scl) (fun s => s.accessGood m.seg .rd false true false (vectorLanes m x k lw n scl s)) (fun s =>
          let w := 8 / 2 ^ lw.val
          let o := s.offsetX m x (if scl = true then 64 * n.size else 1)
          (List.range n.size).foldl (fun u r => u.setVm (regAfter v r)
            (ofLanes 512 (8 * w) (64 / w) fun i =>
              if (s.rk k).getLsbD i then memRead s.core.sp (s.placeOf' m.seg ((o + 64 * r + i * w) % 2 ^ 64)) w else 0)
            (byteLaneMask w (s.rk k))) s)
      ∧ DoesWhen (.ldvg g v m xv k lw scl) (fun s => s.accessGood m.seg .rd false true false (gatherLanes m xv k lw scl s)) (fun s =>
          let w := 8 / 2 ^ lw.val
          s.setVm v (ofLanes 512 (8 * w) (64 / w) fun i =>
              if (s.rk k).getLsbD i then
                memRead s.core.sp (s.placeOf' m.seg (s.offset m (laneAt (8 * w) (s.rv xv) i) (if scl = true then w else 1))) w
              else 0)
            (byteLaneMask w (s.rk k)))
      ∧ DoesWhen (.ldt g t m x scl) (fun s => s.accessGood m.seg .rd false true false (tileLanes m x scl s)) (fun s =>
          let row (j : Nat) : Nat :=
            memRead s.core.sp (s.placeOf' m.seg ((s.offsetX m x (if scl = true then 576 else 1) + 64 * j) % 2 ^ 64)) 64
          s.setT t { s.rt t with
            data := ofLanes 4096 512 8 row, side := BitVec.ofNat 512 (row 8), valid := true, dirty := false } true))
  ∧ (∀ (g : Guard) (d x : SReg) (m : MemOp) (sz : Fin 4) (sgn scl : Bool),
      let o (s : State) : Nat := s.offsetX m x (if scl = true then 2 ^ sz.val else 1)
      let fence (s : State) : Bool := s.fenceGood (s.rg m.seg) (scalarLanes m x sz scl s)
      let near (s : State) : Bool := segKind (s.rg m.seg) == 1 || segKind (s.rg m.seg) == 2
      let inside (s : State) : Bool := near s && decide (o s + 2 ^ sz.val ≤ segLimit (s.rg m.seg))
      let outside (s : State) : Bool := near s && decide (segLimit (s.rg m.seg) < o s + 2 ^ sz.val)
      let allowed (s : State) (need : Right) (team : Bool) : Bool :=
        segRight (s.rg m.seg) need && (team || s.ownsLane (s.rg m.seg) (o s))
      let addr (s : State) : Word := BitVec.ofNat 64 (o s)
      TrapsWhen (.ld g d m x sz sgn scl) (fun s => fence s && !near s) (fun s => ⟨2, 0x04, 0, 3, false, addr s, 0, .trap⟩)
      ∧ TrapsWhen (.st g d m x sz scl) (fun s => fence s && !near s) (fun s => ⟨2, 0x04, 0, 3, false, addr s, 0, .trap⟩)
      ∧ TrapsWhen (.ld g d m x sz sgn scl) (fun s => fence s && outside s) (fun s => ⟨2, 0x03, 0, 3, false, addr s, 0, .trap⟩)
      ∧ TrapsWhen (.ld g d m x sz sgn scl) (fun s => fence s && inside s && !allowed s .rd false)
          (fun s => ⟨2, 0x04, 0, 3, false, addr s, 0, .trap⟩)
      ∧ TrapsWhen (.ld g d m x sz sgn scl) (fun s => fence s && inside s && allowed s .rd false && o s % 2 ^ sz.val != 0)
          (fun s => ⟨2, 0x05, 0, 3, false, addr s, 0, .trap⟩)
      ∧ TrapsWhen (.st g d m x sz scl) (fun s => fence s && outside s) (fun s => ⟨2, 0x03, 0, 3, false, addr s, 0, .trap⟩)
      ∧ TrapsWhen (.st g d m x sz scl) (fun s => fence s && inside s && !allowed s .wr true)
          (fun s => ⟨2, 0x04, 0, 3, false, addr s, 0, .trap⟩)
      ∧ TrapsWhen (.st g d m x sz scl) (fun s => fence s && inside s && allowed s .wr true && o s % 2 ^ sz.val != 0)
          (fun s => ⟨2, 0x05, 0, 3, false, addr s, 0, .trap⟩)
      ∧ ∀ n : Fin 4,
        let at' (s : State) : Nat := s.placeOf' m.seg (o s)
        let watch (s : State) (i : Fin 4) : Word := (s.core.watchAt s.core.vx)[i.val]
        let len (w : Word) : Nat := 2 ^ Nat.min (w.toNat / 2 ^ 54 % 32) 19
        let base (w : Word) : Nat := w.toNat % 2 ^ 20 / len w * len w
        let hit (s : State) (bit : Nat) (i : Fin 4) : Bool := (watch s i).getLsbD 63 && (watch s i).getLsbD bit
          && decide (at' s < base (watch s i) + len (watch s i)) && decide (base (watch s i) < at' s + 2 ^ sz.val)
        let first (s : State) (bit : Nat) : Bool := hit s bit n && (List.finRange 4).all fun i => decide (n ≤ i) || !hit s bit i
        let good (s : State) (need : Right) (team : Bool) : Bool := fence s && inside s && allowed s need team && o s % 2 ^ sz.val == 0
        let stops (s : State) : Trap := ⟨3, 0x11, 0, 3, false, BitVec.ofNat 64 (Nat.max (at' s) (base (watch s n))), 0,
          if (watch s n).getLsbD 62 = true then .stop else .trap⟩
        TrapsWhen (.ld g d m x sz sgn scl) (fun s => good s .rd false
          && s.unpoisoned (s.rg m.seg) (scalarLanes m x sz scl s) && first s 61) stops
        ∧ TrapsWhen (.st g d m x sz scl) (fun s => good s .wr true && s.ownsLane (s.rg m.seg) (o s) && first s 60) stops)

/-- Stores: a lane that the core owns is stored at E3, a lane of another team core leaves as a word of its own; a nibble store
replaces one nibble; a tile store clears DIRTY. What a store writes stands in the own scratchpad; a destination to which a request in
progress has moved bytes that the store overwrites becomes undefined (R87, R96, R300, R302, R306 to R310, R312). -/
def Obligations.Stores : Prop :=
  ∀ (g : Guard) (d x : SReg) (v xv : VReg) (t : TReg) (m : MemOp) (k : KReg) (sz lw : Fin 4) (n : GroupSize) (scl hi nidx : Bool),
    let put (s : State) (o b val : Nat) : State :=
      if s.ownsLane (s.rg m.seg) o then
        (s.spStore (s.placeOf' m.seg o) b val).clearCovered [(s.placeOf' m.seg o, b)]
      else s.goesOut (.store (s.placeOf' m.seg o) b val) (s.ownerOf (s.rg m.seg) o) 0 none
    let scalar (s : State) : State := put s (s.offsetX m x (if scl = true then 2 ^ sz.val else 1)) (2 ^ sz.val)
      ((s.rs d).toNat % 2 ^ (8 * 2 ^ sz.val))
    let nibble (s : State) : State :=
      let u := s.offsetX m x 1
      let o := if nidx = true then u / 2 else u
      let h := if nidx = true then u % 2 == 1 else hi
      let old := memRead s.core.sp (s.placeOf' m.seg o) 1
      let val := (s.rs d).toNat % 16
      if s.ownsLane (s.rg m.seg) o then
        s.spStore (s.placeOf' m.seg o) 1 (if h = true then old % 16 + 16 * val else old / 16 * 16 + val)
      else s.goesOut (.nibble (s.placeOf' m.seg o) h (BitVec.ofNat 4 val)) (s.ownerOf (s.rg m.seg) o) 0 none
    let good (s : State) (team : Bool) (lanes : List Lane) : Bool := s.accessGood m.seg .wr team false true lanes
    DoesWhen (.st g d m x sz scl) (fun s => good s true (scalarLanes m x sz scl s)) scalar
    ∧ DoesWhen (.rst g d m x sz scl) (fun s => good s true (scalarLanes m x sz scl s)) scalar
    ∧ DoesWhen (.stnb g d m x hi nidx) (fun s => good s true (nibbleLanes m x hi nidx s)) nibble
    ∧ DoesWhen (.rstnb g d m x hi nidx) (fun s => good s true (nibbleLanes m x hi nidx s)) nibble
    ∧ DoesWhen (.stv g v m x k lw n scl) (fun s => good s false (vectorLanes m x k lw n scl s)) (fun s =>
        s.storeLanes (s.rg m.seg) ((vectorLanes m x k lw n scl s).map fun l =>
          (l, laneAt (8 * (8 / 2 ^ lw.val)) (s.rv (regAfter v (l.order / 64))) (l.order % 64))))
    ∧ DoesWhen (.stvs g v m xv k lw scl) (fun s => good s true (gatherLanes m xv k lw scl s)) (fun s =>
        s.storeLanes (s.rg m.seg) ((gatherLanes m xv k lw scl s).map fun l =>
          (l, laneAt (8 * (8 / 2 ^ lw.val)) (s.rv v) l.order)))
    ∧ DoesWhen (.stt g t m x scl) (fun s => good s false (tileLanes m x scl s)) (fun s =>
        (s.storeLanes (s.rg m.seg) ((tileLanes m x scl s).map fun l =>
          (l, if l.order < 8 then laneAt 512 (s.rt t).data l.order else (s.rt t).side.toNat))).modThread fun th =>
            { th with t := th.t.set t.val { th.t[t.val] with dirty := false } })
    ∧ ∀ (s : State) (a c q : Nat), s.spoiltBy (spaceOf s.core.key) [(a, c)] (spaceOf s.core.key) = [] →
        (s.spStore a c q).core.sp = memWrite s.core.sp a c q

/-- The bank unit's atomics read the old value, write the new one of Table 14-3 and give the old one to D, as one element at E3;
AFADD raises its classes (R314, R315). -/
def Obligations.Atomics : Prop :=
  (∀ (g : Guard) (d x : SReg) (m : MemOp) (w64 : Bool),
    let apply (op : AtomicOp) (s : State) (a b : Nat) : Nat × Classes :=
      atomicApply op w64 a b (s.mode .dyn) (s.srBits (s.mode .dyn) 192)
    DoesAtomic (.aadd g d m x w64) d x m w64 (apply .add) ∧ DoesAtomic (.amin g d m x w64) d x m w64 (apply .min)
    ∧ DoesAtomic (.amax g d m x w64) d x m w64 (apply .max) ∧ DoesAtomic (.aminn g d m x w64) d x m w64 (apply .minn)
    ∧ DoesAtomic (.amaxn g d m x w64) d x m w64 (apply .maxn) ∧ DoesAtomic (.aand g d m x w64) d x m w64 (apply .and)
    ∧ DoesAtomic (.aor g d m x w64) d x m w64 (apply .or) ∧ DoesAtomic (.axor g d m x w64) d x m w64 (apply .xor)
    ∧ DoesAtomic (.aswap g d m x w64) d x m w64 (apply .swap) ∧ DoesAtomic (.afadd g d m x w64) d x m w64 (apply .fadd)
    ∧ DoesAtomic (.acas g d m x w64) d x m w64 (fun s a b =>
        (if a = (s.rs d).toNat % 2 ^ (if w64 = true then 64 else 32) then b else a, 0)))
  ∧ ∀ (w64 : Bool) (a b : Nat) (mode : Rnd) (h : Nat),
    let w := if w64 = true then 64 else 32
    let si (n : Nat) : Int := (BitVec.ofNat w n).toInt
    let f : Fmt := if w64 = true then .fp64 else .fp32
    let sum := fpSum [fpDecode f a, fpDecode f b] mode
    let r := roundTo f sum.1 mode h false
    atomicApply .add w64 a b mode h = ((a + b) % 2 ^ w, 0)
    ∧ atomicApply .min w64 a b mode h = (if si a ≤ si b then a else b, 0)
    ∧ atomicApply .max w64 a b mode h = (if si a ≤ si b then b else a, 0)
    ∧ atomicApply .minn w64 a b mode h = (Min.min a b, 0) ∧ atomicApply .maxn w64 a b mode h = (Max.max a b, 0)
    ∧ atomicApply .and w64 a b mode h = (a &&& b, 0) ∧ atomicApply .or w64 a b mode h = (a ||| b, 0)
    ∧ atomicApply .xor w64 a b mode h = (a ^^^ b, 0) ∧ atomicApply .swap w64 a b mode h = (b, 0)
    ∧ atomicApply .fadd w64 a b mode h = (r.1, r.2 ||| sum.2)

/-- RLD and RAOP: at the own core the element is read, or changed, at E3 and its result is read from the second rotation after that of
the issue, or a POISON trap is deferred and nothing is changed; for another team core a word leaves and the result waits for its
reply (R31, R46, R311, R313, R315). -/
def Obligations.RemoteReads : Prop :=
  ∀ (g : Guard) (d x : SReg) (m : MemOp) (sz : Fin 4) (sgn scl w64 : Bool) (op : AtomicOp),
    let reg (s : State) : Option Ref :=
      if (physS s.cur.pre.rrb d).val = 0 then none else some (.s (physS s.cur.pre.rrb d))
    let reply (s : State) (v : Word) (cls : Classes) (poison : Option Nat) : State :=
      ({ s with fresh := s.fresh + 1 } : State).modThread fun t =>
        if t.phase == .vacant then t
        else { t with pending := t.pending ++ [⟨s.fresh, reg s, .scalar (if poison.isSome then 0 else v), some (s.cur.vt / 8 * 8 + 16),
          s.cur.pc, s.cur.vt, [(0, cls)], false, poison⟩] }
    let awaits (s : State) : State :=
      ({ s with fresh := s.fresh + 1 } : State).modThread fun t =>
        if t.phase == .vacant then t
        else { t with pending := t.pending ++ [⟨s.fresh, reg s, .scalar 0, none, s.cur.pc, s.cur.vt, [], false, none⟩] }
    let good (s : State) (need : Right) (wr : Bool) (lanes : List Lane) : Bool :=
      lanes.all (s.laneGood (s.rg m.seg) need true) && s.fenceGood (s.rg m.seg) lanes
        && s.unwatched true wr (s.rg m.seg) lanes
    let b := 2 ^ sz.val
    let o (s : State) : Nat := s.offsetX m x (if scl = true then b else 1)
    let n := if w64 = true then 8 else 4
    let change (s : State) : Nat × Classes :=
      atomicApply op w64 (memRead s.core.sp (s.placeOf' m.seg (s.offset0 m)) n) ((s.rs x).toNat % 2 ^ (8 * n)) (s.mode .dyn)
        (s.srBits (s.mode .dyn) 192)
    let poison (s : State) (o n : Nat) : Option Nat := ((poisonIn s.core.poison (s.placeOf' m.seg o) n).head?).map (· * 64)
    DoesWhen (.rld g d m x sz sgn scl) (fun s => good s .rd false (scalarLanes m x sz scl s) && s.ownsLane (s.rg m.seg) (o s))
      (fun s =>
        let r := memRead s.core.sp (s.placeOf' m.seg (o s)) b
        reply s (if sgn then BitVec.signExtend 64 (BitVec.ofNat (8 * b) r) else BitVec.ofNat 64 r) 0 (poison s (o s) b))
    ∧ DoesWhen (.rld g d m x sz sgn scl) (fun s => good s .rd false (scalarLanes m x sz scl s) && !s.ownsLane (s.rg m.seg) (o s))
      (fun s => (awaits s).goesOut (.load (s.placeOf' m.seg (o s)) b sgn) (s.ownerOf (s.rg m.seg) (o s)) 0 (some s.fresh))
    ∧ DoesWhen (.raop g op d m x w64)
      (fun s => good s .at_ true (atomicLanes m w64 s) && s.ownsLane (s.rg m.seg) (s.offset0 m)
        && (poison s (s.offset0 m) n).isNone)
      (fun s => (reply s (BitVec.ofNat 64 (memRead s.core.sp (s.placeOf' m.seg (s.offset0 m)) n)) (change s).2 none).spStore
        (s.placeOf' m.seg (s.offset0 m)) n (change s).1)
    ∧ DoesWhen (.raop g op d m x w64)
      (fun s => good s .at_ true (atomicLanes m w64 s) && s.ownsLane (s.rg m.seg) (s.offset0 m)
        && (poison s (s.offset0 m) n).isSome)
      (fun s => reply s 0 0 (poison s (s.offset0 m) n))
    ∧ DoesWhen (.raop g op d m x w64)
      (fun s => good s .at_ true (atomicLanes m w64 s) && !s.ownsLane (s.rg m.seg) (s.offset0 m))
      (fun s => (awaits s).goesOut (.atomic op (s.placeOf' m.seg (s.offset0 m)) w64 (BitVec.ofNat 64 ((s.rs x).toNat % 2 ^ (8 * n)))
        (s.mode .dyn) s.cur.pre.seed (BitVec.ofNat 64 s.cur.vt) s.core.key.lidx s.cur.slot.val)
        (s.ownerOf (s.rg m.seg) (s.offset0 m)) 0 (some s.fresh))

/-- Queues and dependence counters. A header has PUB in bits 127:64, RSV in 63:40, TAKE in 39:16, ERR in bit 15 and CAPL in 2:0, and with
C = 2^CAPL and Used = (RSV − TAKE) mod 2^24 it is sound when RSVD = 0, CAPL ≠ 7, ERR = 0, Used ≤ C and its entries end within the segment.
QRSV of a full queue answers all ones and changes nothing, else RSV goes up by one and D holds the entry's offset and number; QPUB of a
reserved entry that is not published sets its PUB bit, and any other traps QUEUE; QTAKE of a queue whose oldest entry is published clears
its PUB bit, counts TAKE up and gives the entry, else it waits, or traps SCHEDULE in a counted team; QRSV and QTAKE of a header that is not
sound trap QUEUE. DEPDEC takes one from COUNT; at an old COUNT of 1 it enqueues its task in the queue at QLOC: entry RSV mod C holds the
task, its PUB bit is set and RSV goes up by one; where that queue is not sound or full, QERR is set, and the header's ERR where QLOC names
one. A QPUB or DEPDEC of another core's object goes out to it (R316 to R320). What a publishing follows, and the thread learns by the take, is the
model's own (log 6);
at a wrap the last of PUB's bits is C − 1. -/
def Obligations.Queues : Prop :=
  ∀ (g : Guard) (d : SReg) (m : MemOp),
    let loc (s : State) : Nat := s.placeOf' m.seg (s.offset0 m)
    let room (s : State) : Nat := segLimit (s.rg m.seg) - s.offset0 m
    let good (s : State) (team : Bool) : Bool := s.accessGood m.seg .at_ team true true (objLanes m s)
    let own (s : State) : Bool := s.ownsLane (s.rg m.seg) (s.offset0 m)
    let addr (s : State) : Word := BitVec.ofNat 64 (s.offset0 m)
    let mine (s : State) : Bool := good s false && own s
    let pub (h : Nat) : Nat := h / 2 ^ 64 % 2 ^ 64
    let rsv (h : Nat) : Nat := h / 2 ^ 40 % 2 ^ 24
    let take (h : Nat) : Nat := h / 2 ^ 16 % 2 ^ 24
    let cap (h : Nat) : Nat := 2 ^ (h % 8)
    let used (h : Nat) : Nat := (rsv h + 2 ^ 24 - take h) % 2 ^ 24
    let sound (h r : Nat) : Prop := h / 2 ^ 3 % 2 ^ 12 = 0 ∧ h % 8 ≠ 7 ∧ h / 2 ^ 15 % 2 = 0 ∧ used h ≤ cap h ∧ 16 + 8 * cap h ≤ r
    let header (h p r k : Nat) : Nat := p * 2 ^ 64 + r % 2 ^ 24 * 2 ^ 40 + k % 2 ^ 24 * 2 ^ 16 + h % 2 ^ 16
    let h (s : State) : Nat := memRead s.core.sp (loc s) 16
    let num (s : State) : Nat := (s.rs d).toNat % 2 ^ 24
    let valid (s : State) : Prop := sound (h s) (room s) ∧ (num s + 2 ^ 24 - take (h s)) % 2 ^ 24 < used (h s)
      ∧ (pub (h s)).testBit (num s % cap (h s)) = false
    let oldest (s : State) : Nat := loc s + 16 + 8 * (take (h s) % cap (h s))
    let ready (s : State) : Prop := used (h s) ≠ 0 ∧ (pub (h s)).testBit (take (h s) % cap (h s)) = true
    let count (s : State) : Nat := h s % 2 ^ 64
    let qloc (s : State) : Nat := h s / 2 ^ 64 % 2 ^ 20
    let spb (s : State) : Nat := partSPB s.record.part
    let named (s : State) : Prop := qloc s % 16 = 0 ∧ qloc s + 16 ≤ spb s
    let counted (s : State) : Nat := h s / 2 ^ 64 * 2 ^ 64 + (count s + 2 ^ 64 - 1) % 2 ^ 64
    let failed (s : State) : Nat := if (h s).testBit 127 then counted s else counted s + 2 ^ 127
    let queue (s : State) (r : Nat) : Nat := memRead (memWrite s.core.sp (loc s) 16 r) (qloc s) 16
    let takes (s : State) : Prop := sound (queue s (counted s)) (spb s - qloc s) ∧ used (queue s (counted s)) < cap (queue s (counted s))
    let clean (s : State) : Prop := count s = 1 → named s → poisonIn s.core.poison (qloc s) 16 = []
    DoesWhen (.qrsv g d m) (fun s => mine s && decide (sound (h s) (room s) ∧ used (h s) = cap (h s)))
      (fun s => s.setS d (BitVec.allOnes 64))
    ∧ DoesWhen (.qrsv g d m) (fun s => mine s && decide (sound (h s) (room s) ∧ used (h s) ≠ cap (h s))) (fun s =>
        (s.spStore (loc s) 16 (header (h s) (pub (h s)) (rsv (h s) + 1) (take (h s)))).setS d
          (BitVec.ofNat 64 ((s.offset0 m + 16 + 8 * (rsv (h s) % cap (h s))) % 2 ^ 40 * 2 ^ 24 + rsv (h s))))
    ∧ TrapsWhen (.qrsv g d m) (fun s => mine s && decide ¬sound (h s) (room s)) (fun s => trapQueue 3 (addr s))
    ∧ DoesWhen (.qpub g d m) (fun s => good s true && own s && decide (valid s)) (fun s =>
        (s.spStore (loc s) 16 (header (h s) (pub (h s) + 2 ^ (num s % cap (h s))) (rsv (h s)) (take (h s)))).publish s.core.key s.thread.known
          (loc s + 16 + 8 * (num s % cap (h s))))
    ∧ TrapsWhen (.qpub g d m) (fun s => good s true && own s && decide ¬valid s) (fun s => trapQueue 3 (addr s))
    ∧ DoesWhen (.qpub g d m) (fun s => good s true && !own s) (fun s =>
        s.goesOut (.qpub (loc s) (room s) (BitVec.ofNat 24 (num s))) (s.ownerOf (s.rg m.seg) (s.offset0 m)) 0 none)
    ∧ DoesWhen (.qtake g d m) (fun s => mine s && decide (sound (h s) (room s) ∧ ready s ∧ poisonIn s.core.poison (oldest s) 8 = []))
        (fun s => ((s.spStore (loc s) 16
            (header (h s) (pub (h s) - 2 ^ (take (h s) % cap (h s))) (rsv (h s)) (take (h s) + 1))).learn s.core.key s.cur.slot (s.core.entryKnown (oldest s))).setS d
          (BitVec.ofNat 64 (memRead s.core.sp (oldest s) 8)))
    ∧ TrapsWhen (.qtake g d m) (fun s => mine s && decide ¬sound (h s) (room s)) (fun s => trapQueue 3 (addr s))
    ∧ DoesWhen (.qtake g d m) (fun s => mine s && decide (sound (h s) (room s) ∧ ¬ready s) && s.mayWait) (fun s =>
        s.waits (.qtake (loc s) (addr s) (room s) (physS s.cur.pre.rrb d)))
    ∧ TrapsWhen (.qtake g d m) (fun s => mine s && decide (sound (h s) (room s) ∧ ¬ready s) && !s.mayWait)
        (fun s => trapSchedule 3 (addr s))
    ∧ DoesWhen (.depdec g d m) (fun s => good s true && own s && decide (count s ≠ 1)) (fun s => s.spStore (loc s) 16 (counted s))
    ∧ DoesWhen (.depdec g d m) (fun s => good s true && own s && decide (count s = 1 ∧ clean s ∧ named s ∧ takes s)) (fun s =>
        let q := queue s (counted s)
        let e := rsv q % cap q
        (((s.spStore (loc s) 16 (counted s)).spStore (qloc s + 16 + 8 * e) 8 (s.rs d).toNat).spStore (qloc s) 16
          (header q (if (pub q).testBit e then pub q else pub q + 2 ^ e) (rsv q + 1) (take q))).publish s.core.key s.thread.known
          (qloc s + 16 + 8 * e))
    ∧ DoesWhen (.depdec g d m) (fun s => good s true && own s && decide (count s = 1 ∧ clean s ∧ named s ∧ ¬takes s)) (fun s =>
        let q := queue s (failed s)
        (s.spStore (loc s) 16 (failed s)).spStore (qloc s) 16 (if q.testBit 15 then q else q + 2 ^ 15))
    ∧ DoesWhen (.depdec g d m) (fun s => good s true && own s && decide (count s = 1 ∧ ¬named s)) (fun s =>
        s.spStore (loc s) 16 (failed s))
    ∧ DoesWhen (.depdec g d m) (fun s => good s true && !own s) (fun s =>
        s.goesOut (.depdec (loc s) (s.rs d)) (s.ownerOf (s.rg m.seg) (s.offset0 m)) 0 none)
    ∧ (∀ (s : State) (k : CoreKey) (l : List Known) (e : Nat), ∃ y : Core → List (Nat × List Known), s.publish k l e = s.modCore k fun c => { c with entries := y c })

/-- Barrier objects and the mailbox: BOINIT writes an object with its error bits clear, BOEXP and BOARR change its counts under Advance,
BWAIT goes on once the phase is reached, waits, or traps ENGINE, OVERRUN or SCHEDULE, BTEST tests, and of a phase so acquired the thread
alone learns what was counted into it. A change of a Faulted object is nothing; else the counts change, clamped to their signed ranges of 40 and 16 bits, a negative one sets
OVERRUN, and without OVERRUN two counts of 0 take PHASE on by one and load RBYTES and RARR. A phase e is reached when (PHASE − e) mod 65,536 is below
32,768. MWAIT, MPOP and MPEEK act on the oldest message (R139 to R142, R323 to R327). What a
thread learns is the model's (log 6). -/
def Obligations.Objects : Prop :=
  ∀ (g : Guard) (d x : SReg) (p : PReg) (m : MemOp),
    let loc (s : State) : Nat := s.placeOf' m.seg (s.offset0 m)
    let obj (s : State) : BarrierObject := BarrierObject.ofNat (memRead s.core.sp (loc s) 16)
    let good (s : State) (team wr : Bool) : Bool := s.accessGood m.seg .at_ team true wr (objLanes m s)
    let own (s : State) : Bool := s.ownsLane (s.rg m.seg) (s.offset0 m)
    let addr (s : State) : Word := BitVec.ofNat 64 (s.offset0 m)
    let sound (s : State) : Bool := !(obj s).overrun && !(obj s).faulted
    let reached (s : State) : Bool := phaseReached (obj s).phase ((s.rs x).toNat % 2 ^ 16)
    let mine (s : State) (wr : Bool) : Bool := good s false wr && own s
    DoesWhen (.boinit g d m x) (fun s => s.accessGood m.seg .at_ false false true (objLanes m s)) (fun s =>
        s.spStore (loc s) 16 ((s.rs d).toNat * 2 ^ 64 + ((s.rs x) &&& ~~~0x00F0000000000000).toNat))
    ∧ DoesWhen (.boexp g d m x) (fun s => mine s true) (fun s =>
        s.spStore (loc s) 16 ((obj s).change (s.rs d).toInt (s.rs x).toInt).toNat)
    ∧ DoesWhen (.boarr g m) (fun s => good s true true && own s) (fun s => s.spStore (loc s) 16 ((obj s).change 0 (-1)).toNat)
    ∧ DoesWhen (.boarr g m) (fun s => good s true true && !own s) (fun s =>
        s.goesOut (.boarr (loc s)) (s.ownerOf (s.rg m.seg) (s.offset0 m)) 0 none)
    ∧ DoesWhen (.bwait g m x) (fun s => mine s false && sound s && reached s)
        (fun s => s.acquire s.core.key s.cur.slot (loc s) ((s.rs x).toNat % 2 ^ 16))
    ∧ DoesWhen (.bwait g m x) (fun s => mine s false && sound s && !reached s && s.mayWait) (fun s =>
        s.waits (.bwait (loc s) (addr s) ((s.rs x).truncate 16)))
    ∧ TrapsWhen (.bwait g m x) (fun s => mine s false && (obj s).overrun) (fun s => trapOverrun 3 (addr s))
    ∧ TrapsWhen (.bwait g m x) (fun s => mine s false && !(obj s).overrun && (obj s).faulted)
        (fun s => trapEngine 3 (BitVec.ofNat 64 (natOfInt 40 (obj s).remain)))
    ∧ TrapsWhen (.bwait g m x) (fun s => mine s false && sound s && !reached s && !s.mayWait) (fun s => trapSchedule 3 (addr s))
    ∧ DoesWhen (.btest g p m x) (fun s => mine s false) (fun s =>
        (if reached s && !(obj s).faulted && !(obj s).overrun then s.acquire s.core.key s.cur.slot (loc s) ((s.rs x).toNat % 2 ^ 16) else s).setP p
          (reached s && !(obj s).faulted && !(obj s).overrun))
    ∧ (∀ (b : BarrierObject) (bytes arrivals : Int),
        let remain := max (-((2 ^ 39 : Nat) : Int)) (min (b.remain + bytes) ((2 ^ 39 - 1 : Nat) : Int))
        let arrive := max (-((2 ^ 15 : Nat) : Int)) (min (b.arrive + arrivals) ((2 ^ 15 - 1 : Nat) : Int))
        let below := b.overrun = true ∨ remain < 0 ∨ arrive < 0
        let dead := b.error = true ∨ b.poison = true ∨ b.fault = true
        (dead → b.change bytes arrivals = b)
        ∧ (¬dead → ¬below → remain = 0 → arrive = 0 → b.change bytes arrivals = { b with
            phase := (b.phase + 1) % 65536
            remain := b.rbytes
            arrive := if b.rarr < 2 ^ 15 then (b.rarr : Int) else (b.rarr : Int) - 65536 })
        ∧ (¬dead → ¬below → (remain ≠ 0 ∨ arrive ≠ 0) → b.change bytes arrivals = { b with remain := remain, arrive := arrive })
        ∧ (¬dead → below → b.change bytes arrivals = { b with remain := remain, arrive := arrive, overrun := true }))
    ∧ (∀ phase e : Nat, phaseReached phase e = true ↔ ((phase : Int) - e) % 65536 < 32768)
    ∧ (∀ (s : State) (k : CoreKey) (t : Fin 8) (l n : Nat), s.acquire k t l n = s ∨ ∃ x,
        s.acquire k t l n = s.modCore k fun c => c.modSlot t fun th => { th with known := addKnown th.known x })
    ∧ DoesWhen (.mwait g) (fun s => !s.core.mailbox.isEmpty && (mwaitTraps s.core).isEmpty) (fun s => s)
    ∧ DoesWhen (.mwait g) (fun s => s.core.mailbox.isEmpty && s.mayWait) (fun s => s.waits .mwait)
    ∧ TrapsWhen (.mwait g) (fun s => s.core.mailbox.isEmpty && !s.mayWait) (fun _ => trapSchedule 3 0)
    ∧ (∀ (s : State) (q : Quad) (rest : List Quad), s.core.mailbox = q :: rest →
        let took (t : State) (l : List Known) : State := ((t.learn s.core.key s.cur.slot l).setS d (BitVec.ofNat 64 (q.toNat / 2 ^ 64))).setS
          (regAfter d 1) (BitVec.ofNat 64 q.toNat)
        (s.ready (.mpop g d) = true → ∃ l y, exec (.mpop g d) s = .next
          (let z := took (s.begun (.mpop g d)) l
          { z with core := { z.core with mailbox := rest, done := y } }))
        ∧ (s.ready (.mpeek g d) = true → ∃ l, exec (.mpeek g d) s = .next (took (s.begun (.mpeek g d)) l)))
    ∧ (∀ s : State, s.core.mailbox = [] →
        let none' (i : Instr) : State := ((s.begun i).setS d (BitVec.allOnes 64)).setS (regAfter d 1) 0
        (s.ready (.mpop g d) = true → ∃ y, exec (.mpop g d) s = .next
          (let z := none' (.mpop g d)
          { z with core := { z.core with done := y } }))
        ∧ (s.ready (.mpeek g d) = true → exec (.mpeek g d) s = .next (none' (.mpeek g d))))

/-- FENCE leaves a mark for the requests that follow and, past CORE scope, sets the cycle that no later remote lane may perform by; ACSNAP
stores the record of Table 16-2 whole: its header's fields and the counter of each slot and cause, little-endian, as of the boundary that
began the issuing rotation, since when the slots below the issuer's have been charged once (R98 to R101, R122, R328, R329, R353). -/
def Obligations.FenceAndSnapshot : Prop :=
  ∀ (g : Guard) (sc : FenceScope) (m : MemOp) (x : SReg),
    Does (.fence g sc) (fun s =>
      let f := match s.cur.pre.lastRemote with
        | some c => c
        | none => s.cur.tick + 4
      let l := addKnown s.thread.fenced s.thread.performed
      let u : State := { s with core := { s.core with marks := s.core.marks ++ [⟨sc, f, s.cur.slot, s.fresh, l⟩] } }
      if sc = .core then u
      else u.modThread fun t => { t with fence := some (f, s.cur.pc), fenceId := s.fresh, fenced := l, performed := [] })
    ∧ DoesWhen (.acsnap g m x) (fun s => (acsnapLanes m x s).all (s.laneGood (s.rg m.seg) .wr false)
        && s.unwatched false true (s.rg m.seg) (acsnapLanes m x s) && s.fenceGood (s.rg m.seg) (acsnapLanes m x s)
        && segKind (s.rg m.seg) == 1) (fun s =>
        let loc := s.placeOf' m.seg (s.offsetX m x 1)
        (s.spStore loc 1088 (ofLeBytes s.snapRecord)).clearCovered [(loc, 1088)])
    ∧ ∀ s : State,
      let b := s.cur.slot.val
      let dtick := (s.die s.core.die).dhist.getD (4 + b) s.cur.dtick
      s.snapRecord.length = 1088
      ∧ s.snapRecord.take 64 = leBytes 64 ((s.cur.vt - b) % 2 ^ 64 * 2 ^ 448 + (s.cur.tick - b) % 2 ^ 64 * 2 ^ 384 + dtick % 2 ^ 64 * 2 ^ 320
          + s.core.key.lidx % 2 ^ 32 * 2 ^ 288 + s.record.asid % 2 ^ 16 * 2 ^ 272 + s.core.corexy % 2 ^ 24 * 2 ^ 248)
      ∧ ∀ (t : Fin 8) (n : Fin 16),
        let th := s.core.slots[t.val]
        let now := th.acct[n.val].toNat
        (s.snapRecord.drop (64 + 128 * t.val + 8 * n.val)).take 8 = leBytes 8 (if n = 15 then 0
          else if t.val < b ∧ th.lastCause.code = n then (now + 2 ^ 48 - 1) % 2 ^ 48 else now)

/-- An engine command whose request passes the checks of R131 and R132 is pushed with the values read at D and writes 0, or writes 1 and
pushes nothing when sixteen requests are held; a request word that is not legal traps ILLEGAL. Of the checks of Table 5-2 and R322, BOUNDS
stands before RIGHTS and RIGHTS before ALIGN; within each, the destination comes before the source, LEN, the index list and the barrier
object, and TADDR holds the offset, or the length, of the operand that fails first. A request without rows, bytes or indices takes no
BOUNDS (R129 to R132, R321, R322). See logs 19 and 43. -/
def Obligations.EngineCommands : Prop :=
  ∀ (g : Guard) (d : PReg) (q : Fin 8),
    DoesCommand (.copy g d q) .copy d q ∧ DoesCommand (.gath g d q) .gath d q ∧ DoesCommand (.scat g d q) .scat d q
    ∧ DoesCommand (.iload g d q) .iload d q

/-! ## The X slot -/

/-- Exchange: SEND puts a word on the scheduled plane; RECV and RECVT take the oldest word landed under their tag, or wait, RECVT until its
deadline; WSEND sends window words in order; AMSG sends a message to a core of the package, or, by a port that is not removed (log 69),
to another package. A block of WSEND traps BOUNDS, a destination RIGHTS, then the block ALIGN or POISON (R45, R72, R146 to R150, R161,
R333 to R336, R340, R341). -/
def Obligations.Exchange : Prop :=
  ∀ (g : Guard) (d a b : SReg) (p : PReg) (dst : BitVec 8) (seq : BitVec 5) (wseq : Byte) (sel : TagSel) (n : BitVec 5)
    (tag : BitVec 14),
    let word (s : State) (t : BitVec 32) : Option Landed := s.core.landing.find? fun l => l.sender ++ l.seq = t
    let took (s : State) (t : BitVec 32) : State :=
      { s with core := { s.core with landing := s.core.landing.eraseP fun l => l.sender ++ l.seq = t } }
    let known (s : State) : Bool := decide ((s.rs b).toNat < 2 ^ 24) && decide ((s.rs b).toNat < s.record.tsize)
    let goes (s : State) : Nat := (s.rs b).toNat % 2 ^ 24
    Does (.send g a dst seq) (fun s =>
      let far := s.record.hops s.core.key.lidx (s.rectCore dst.toNat)
      { s with
        fresh := s.fresh + 1
        flights := s.flights ++ [⟨s.fresh, .word (seq.zeroExtend 8) (s.rs a), s.core.key.ctx, s.core.key.lidx,
          s.rectCore dst.toNat, s.cur.tick, 1, xOrder, 0, far, if far = 0 then s.cur.tick + 8 else s.cur.tick + 6, false,
          addKnown s.thread.known s.thread.fenced, s.thread.fenceId⟩] })
    ∧ (∀ v, DoesWhen (.recv g d sel) (fun s => (word s (s.tagOf d sel)).map (·.data) == some v)
        (fun s => (took s (s.tagOf d sel)).setS d v))
    ∧ DoesWhen (.recv g d sel) (fun s => (word s (s.tagOf d sel)).isNone && s.mayWait)
        (fun s => s.waits (.recv (s.tagOf d sel) (physS s.cur.pre.rrb d)))
    ∧ TrapsWhen (.recv g d sel) (fun s => (word s (s.tagOf d sel)).isNone && !s.mayWait)
        (fun s => trapSchedule 4 ((s.tagOf d sel).zeroExtend 64))
    ∧ (∀ v, DoesWhen (.recvt g d a p sel) (fun s => (word s (s.tagOf d sel)).map (·.data) == some v)
        (fun s => ((took s (s.tagOf d sel)).setS d v).setP p false))
    ∧ DoesWhen (.recvt g d a p sel) (fun s => (word s (s.tagOf d sel)).isNone && decide ((s.rs a).toNat ≤ s.core.vx))
        (fun s => (s.setS d 0).setP p true)
    ∧ DoesWhen (.recvt g d a p sel) (fun s => (word s (s.tagOf d sel)).isNone && decide (s.core.vx < (s.rs a).toNat))
        (fun s => s.waits (.recvt (s.tagOf d sel) (physS s.cur.pre.rrb d) (s.rs a) (s.waitPred p)))
    ∧ DoesWhen (.wsend g a b wseq none) known
        (fun s => s.sendWindow s.core s.record (goes s) wseq (s.rs a) none s.cur.tick s.cur.dtick 0)
    ∧ DoesWhen (.wsend g a b wseq (some n)) (fun s => known s && s.rawGood (s.rs a).toNat (8 * (n.toNat + 1)) 8) (fun s =>
        (List.range (n.toNat + 1)).foldl (fun t j =>
          t.sendWindow s.core s.record (goes s) wseq (BitVec.ofNat 64 (memRead s.core.sp ((s.rs a).toNat + 8 * j) 8)) none s.cur.tick
            s.cur.dtick j) s)
    ∧ RawTraps (.wsend g a b wseq (some n)) (fun s => (s.rs a).toNat) (8 * (n.toNat + 1)) 8 known
    ∧ TrapsWhen (.wsend g a b wseq none) (fun s => !known s) (fun s => ⟨2, 0x04, 0, 4, false, s.rs b, 0, .trap⟩)
    ∧ TrapsWhen (.wsend g a b wseq (some n)) (fun s => s.rawInside (s.rs a).toNat (8 * (n.toNat + 1)) && !known s)
        (fun s => ⟨2, 0x04, 0, 4, false, s.rs b, 0, .trap⟩)
    ∧ (∀ (s : State) (q : Word) (i : Nat), ∃ w, s.sendWindow s.core s.record i wseq q none s.cur.tick s.cur.dtick 0
          = { s with fresh := s.fresh + 1, windows := s.windows ++ [w] }
        ∧ w.dst = i ∧ w.sender = s.core.key.lidx ∧ w.seq = wseq ∧ w.data = q ∧ w.issue = s.cur.tick ∧ w.sent = s.cur.dtick
        ∧ w.origin = (if s.record.here i then 1 else 2) ∧ w.route.head? = some s.core.die.val)
    ∧ DoesWhen (.amsg g a b tag) (fun s => known s && s.record.here (goes s)) (fun s =>
        { s with
          fresh := s.fresh + 1
          messages := s.messages
            ++ [⟨s.fresh, s.core.key.ctx, s.core.key.lidx, goes s, activeMessage tag s.core.key.lidx (s.rs a)⟩] })
    ∧ DoesWhen (.amsg g a b tag) (fun s => known s && !s.record.here (goes s)) (fun s =>
        let hub := Config.hubOf s.core.die.val (s.record.packageOf (goes s)) % 2
        let pkg := s.record.packageIndex (goes s)
        if BitVec.ofNat 32 (3 * 2 ^ 28 + (8 + hub) * 2 ^ 24 + (16 * hub + Config.portOf hub pkg % 16)) ∈ s.firm.removals then s
        else { s with fabricOut := s.fabricOut
          ++ [(pkg, .message s.record.jobKey (activeMessage tag s.core.key.lidx (s.rs a)) ⟨s.core.key.ctx, goes s⟩)] })
    ∧ TrapsWhen (.amsg g a b tag) (fun s => !known s) (fun s => trapRights 4 0 (s.rs b) 0)

/-- Barrier wires and time: BARW and BARWR arrive in the open episode of their scope, or open one, and wait; TAMP goes on when its scope's
count has reached its value and notes the boundary of the rotation in which the thread issues next, else waits; WAITT goes on when its counter equals its value,
waits while it is below, and writes 1 when it is past (R152, R155, R156, R159, R160, R165, R337 to R339). -/
def Obligations.WiresAndTime : Prop :=
  ∀ (g : Guard) (op : WireOp) (sc : WireScope) (d a : SReg) (ts : TampScope) (imm : BitVec 30) (c : Counter) (p : PReg),
    let same (s : State) (e : Episode) : Bool :=
      e.ctx == s.core.key.ctx && e.die == s.core.die && e.scope == sc && e.line == s.record.line sc s.core.key.lidx
    let limit (s : State) : Option Nat :=
      if s.cur.pre.wireto = 0 then none else some (s.core.vx + s.cur.pre.wireto.toNat)
    let waiter (s : State) : List (CoreKey × Fin 8 × Option Nat) :=
      if s.thread.phase == .vacant then [] else [(s.core.key, s.cur.slot, limit s)]
    let arrival (s : State) (v : Option Word) (o : WireOp) : Arrival := ⟨s.core.key.lidx, v, o, s.cur.tick + 4⟩
    let joins (s : State) (e : Episode) (v : Option Word) (o : WireOp) (dest : Option SReg) : State :=
      ({ s with episodes := s.episodes.map fun y => if y.id = e.id then
          { y with arrivals := if y.arrivals.any (fun z => z.lidx = s.core.key.lidx) then y.arrivals else y.arrivals ++ [arrival s v o],
                   waiters := y.waiters ++ waiter s } else y } : State).waits (.wire e.id dest)
    let opens (s : State) (v : Option Word) (o : WireOp) (dest : Option SReg) : State :=
      ({ s with
          fresh := s.fresh + 1
          episodes := s.episodes ++ [⟨s.fresh, s.core.key.ctx, s.core.die, sc, s.record.line sc s.core.key.lidx, [arrival s v o],
            waiter s⟩] } : State).waits (.wire s.fresh dest)
    let value (s : State) : Word := BitVec.ofInt 64 ((s.rs a).toInt + imm.toInt)
    (∀ e, DoesWhen (.barw g sc) (fun s => s.episodes.find? (same s) == some e) (fun s => joins s e none .or none))
    ∧ DoesWhen (.barw g sc) (fun s => (s.episodes.find? (same s)).isNone) (fun s => opens s none .or none)
    ∧ (∀ e, DoesWhen (.barwr g op sc d a) (fun s => s.episodes.find? (same s) == some e)
        (fun s => joins s e (some (s.rs a)) op (some (physS s.cur.pre.rrb d))))
    ∧ DoesWhen (.barwr g op sc d a) (fun s => (s.episodes.find? (same s)).isNone)
        (fun s => opens s (some (s.rs a)) op (some (physS s.cur.pre.rrb d)))
    ∧ DoesWhen (.tamp g ts a imm) (fun s => s.tampHolds s.core ts (value s).toNat) (fun s =>
        s.modThread fun t => { t with
          tampAt := (ts, s.cur.tick + (8 - s.cur.vt % 8), none) :: t.tampAt.filter fun q => q.1 ≠ ts })
    ∧ DoesWhen (.tamp g ts a imm) (fun s => !s.tampHolds s.core ts (value s).toNat) (fun s => s.waits (.tamp ts (value s)))
    ∧ DoesWhen (.waitt g c p a imm) (fun s => decide ((value s).toNat < s.counter s.core c)) (fun s => s.setP p true)
    ∧ DoesWhen (.waitt g c p a imm) (fun s => decide ((value s).toNat = s.counter s.core c)) (fun s => s.setP p false)
    ∧ DoesWhen (.waitt g c p a imm) (fun s => decide (s.counter s.core c < (value s).toNat)) (fun s =>
        (s.setP p false).waits (.waitt c (value s) (s.waitPred p)))

/-- Channels and timetables: QPUSH submits a launch or raises EVENT 5, or traps QUEUE with sixteen pushes outstanding; the record of a
launch, and the header of CARM, trap BOUNDS, ALIGN or POISON; QPOP reads the
counts, or takes the oldest response or 0; CARM writes 1 with eight places taken, else checks an IDLE timetable or posts its refusal;
CFIRE and TRIG start ARMED timetables and mark MISSED on running ones (R169, R170, R174, R343 to R348). -/
def Obligations.Channels : Prop :=
  ∀ (g : Guard) (q : QReg) (a b d : SReg) (pr : Fin 8) (p : PReg) (n : Byte),
    let out (w : Word) : Nat := (w.toNat / 2 ^ 32 + 2 ^ 32 - w.toNat % 2 ^ 32) % 2 ^ 32
    let pushed (s : State) : State :=
      { s with
        fresh := s.fresh + 1
        core := { s.core with
          q := s.core.q.set q.val (qWord (qPushed s.core.q[q.val] + 1) (qPopped s.core.q[q.val]))
          asked := s.core.asked ++ [(s.fresh, q, none)] } }
    let header (s : State) : Nat := memRead s.core.sp (s.rs a).toNat 16
    let good (s : State) : Bool := s.rawGood (s.rs a).toNat 16 16
    DoesWhen (.qpush g q b pr) (fun s => decide (q = 0) && s.rawGood (s.rs b).toNat 128 64 && out s.core.q[q.val] != 16) (fun s =>
        { pushed s with submitted := s.submitted ++ [(s.core.key, s.fresh, memBytes s.core.sp (s.rs b).toNat 128, pr.val)] })
    ∧ DoesWhen (.qpush g q b pr) (fun s => decide (q ≠ 0) && out s.core.q[q.val] != 16) (fun s =>
        (pushed s).sendEvent 5 s.core.key.ctx 0 [BitVec.ofNat 64 s.core.key.lidx, BitVec.ofNat 64 q.val, s.rs b])
    ∧ TrapsWhen (.qpush g q b pr) (fun s => (decide (q ≠ 0) || s.rawGood (s.rs b).toNat 128 64) && out s.core.q[q.val] == 16)
        (fun _ => ⟨3, 0x10, 0, 4, false, BitVec.ofNat 64 q.val, 0, .trap⟩)
    ∧ RawTraps (.qpush g 0 b pr) (fun s => (s.rs b).toNat) 128 64 (fun _ => true)
    ∧ RawTraps (.carm g p a) (fun s => (s.rs a).toNat) 16 16 (fun _ => true)
    ∧ Does (.qpop g d q true) (fun s => s.setS d s.core.q[q.val])
    ∧ (∀ v, DoesWhen (.qpop g d q false) (fun s => (s.core.resp.find? fun r => r.1 = q).map (·.2) == some v) (fun s =>
        ({ s with core := { s.core with
            resp := s.core.resp.eraseP (fun x => x.1 = q),
            q := s.core.q.set q.val (qWord (qPushed s.core.q[q.val]) (qPopped s.core.q[q.val] + 1)) } } : State).setS d v))
    ∧ DoesWhen (.qpop g d q false) (fun s => (s.core.resp.find? fun r => r.1 = q).isNone) (fun s => s.setS d 0)
    ∧ DoesWhen (.carm g p a) (fun s => good s && decide (8 ≤ s.core.places.length)) (fun s => s.setP p true)
    ∧ DoesWhen (.carm g p a) (fun s => good s && decide (s.core.places.length < 8) && thState (header s) != 0) (fun s =>
        (s.setP p false).tablePost s.core.key (s.rs a).toNat 1 (s.rs a).toNat)
    ∧ DoesWhen (.carm g p a) (fun s => good s && decide (s.core.places.length < 8) && thState (header s) == 0) (fun s =>
        let u := s.setP p false
        { u with core := { u.core with tables := s.core.places.filter (fun x => x.hdr ≠ (s.rs a).toNat)
            ++ [⟨(s.rs a).toNat, some (s.cur.tick + 5 + thNent (header s)), false, false, 0, false, 0, 0, 0, false⟩] } })
    ∧ Does (.cfire g a b) (fun s => s.fire (s.rs a).toNat (s.rs b))
    ∧ Does (.trig g a n) (fun s =>
        (s.core.tables.filter fun t => thState (s.core.header t.hdr) = 1 && thTrig (s.core.header t.hdr) = n.toNat).foldl
          (fun u t => u.fire t.hdr (s.rs a)) s)
    ∧ (∀ (s : State) (h : Nat) (v : Word),
        let held : Bool := s.core.tables.any fun t => t.hdr = h && t.checking.isNone
        let st := thState (memRead s.core.sp h 16)
        (held = false → s.fire h v = s)
        ∧ (held = true → st = 2 → s.fire h v = s.seqWrite s.core.key h 16 (setBitN (memRead s.core.sp h 16) 0 true))
        ∧ (held = true → st ≠ 1 → st ≠ 2 → s.fire h v = s)
        ∧ (held = true → st = 1 →
            (s.spoiltBy (spaceOf s.core.key) [(h, 16)] (spaceOf s.core.key) = [] →
              (s.fire h v).core.sp = memWrite s.core.sp h 16 (thWithState (memRead s.core.sp h 16) 2))
            ∧ ∀ t ∈ (s.fire h v).core.tables, t.hdr = h → t.running = true
              ∧ t.base = s.origin s.core s.cur.pre (thHandle (memRead s.core.sp h 16)) + v.toNat ∧ t.entry = 0))

/-! ## What becomes due between bundles -/

/-- What a core does for a thread beside its bundles: a result that is ready is written, with its flags, its deferred trap, or neither;
a deferred trap enters the handler; a hold ends once no register that the bundle names is awaited; and a wait ends when its condition
holds, with the wait's register written (R31, R33, R38, R46, R52, R149, R159, R160, R165, R256, R305, R332, R335, R336). -/
def Obligations.WaitsEnd : Prop :=
  ∀ (s u : State) (k : CoreKey) (t : Fin 8), (s.findCore k).isSome = true → u = s.focus k →
    let th := u.slotOf t
    let x := u.core.vx
    let waitsFor (w : WaitKind) (pc : Pc) (n : Nat) : Prop := th.phase = .waiting ⟨w, pc, n, none⟩
    let ended (w : WaitKind) (pc : Pc) (n : Nat) : Phase := .waiting ⟨w, pc, n, some x⟩
    let due (p : Pend) : Prop := th.pending = [p] ∧ ∃ r, p.ready = some r ∧ r ≤ x - 4
    let sound (loc n : Nat) : Prop := poisonIn u.core.poison loc n = []
    let word (tag : BitVec 32) : Option Landed := u.core.landing.find? fun l => l.sender ++ l.seq = tag
    let took (tag : BitVec 32) : State :=
      { u with core := { u.core with landing := u.core.landing.eraseP fun l => l.sender ++ l.seq = tag } }
    (∀ p d v, due p → p.reg = some (.s d) → d ≠ 0 → p.val = .scalar v → p.raised = [] → p.poison = none →
      exec (.longResultReady k t) s = .next (u.modSlot t fun a =>
        { a with s := a.s.set d.val v, sdead := a.sdead &&& ~~~(BitVec.twoPow 32 d.val), pending := [] }))
    ∧ (∀ p d v m, due p → p.reg = some (.v d) → p.val = .vector v m → p.poison = none → th.deferred = [] →
      ∃ z, exec (.longResultReady k t) s = .next z ∧ (z.slotOf t).pending = []
        ∧ (z.slotOf t).v[d.val] = (v &&& m) ||| ((if th.vdead.getLsbD d.val then 0 else th.v[d.val]) &&& ~~~m)
        ∧ (z.slotOf t).deferred = match p.raised.find? fun y => y.2 &&& fpEnables th.fpctl ≠ 0 with
          | some y => if p.traps then [⟨p.issue, 0x0F, p.pc.zeroExtend 64, BitVec.ofNat 6 y.1⟩] else []
          | none => [])
    ∧ (∀ p g, due p → p.poison = some g → th.deferred = [] →
      ∃ z, exec (.longResultReady k t) s = .next z ∧ (z.slotOf t).pending = []
        ∧ (z.slotOf t).deferred = [⟨p.issue, 0x0B, BitVec.ofNat 64 g, 0⟩])
    ∧ (∀ d rest, th.deferred = d :: rest → th.phase = .ready → th.trapped = false →
      ∃ z, exec (.deferredTrap k t) s = .next z
        ∧ let b := z.slotOf t
          b.tcause = d.code ∧ b.tpc = th.pc ∧ b.taddr = d.taddr ∧ b.tlane = d.tlane ∧ b.trapped = true ∧ b.pc = th.tvec
          ∧ b.deferred = rest ∧ b.lastCause = .trapEntry ∧ ∀ r, keeps th b r = true)
    ∧ ((∀ b, decodeBundle (BitVec.ofNat 256 (memRead u.core.fetchStore.1 (th.pc.toNat * 32) 32)) = some b →
        ∀ i ∈ [b.s, b.l, b.x, b.v, b.m], ∀ r ∈ namedRefs th i, ∀ p ∈ th.pending, p.reg ≠ some r) →
      exec (.holdRelease k t) s = .next (u.modSlot t fun a => { a with held := false }))
    ∧ (∀ loc off ph pc n, waitsFor (.bwait loc off ph) pc n → sound loc 16 →
      let b := BarrierObject.ofNat (memRead u.core.sp loc 16)
      b.overrun = false → b.error = false → b.poison = false → b.fault = false → phaseReached b.phase ph.toNat = true →
      exec (.waitRetry k t) s = .next (((u.noteRead (spaceOf k) loc 16).acquire k t loc ph.toNat).modSlot t fun a => { a with phase := ended (.bwait loc off ph) pc n }))
    ∧ (∀ loc off ph pc n, waitsFor (.bwait loc off ph) pc n → sound loc 16 →
      let b := BarrierObject.ofNat (memRead u.core.sp loc 16)
      b.overrun = false → b.error = false → b.poison = false → b.fault = false → phaseReached b.phase ph.toNat = false →
      u.record.elastic = true → exec (.waitRetry k t) s = .next (u.noteRead (spaceOf k) loc 16))
    ∧ (∀ pc n m rest, waitsFor .mwait pc n → u.core.mailbox = m :: rest → (mailStatus m = 0 ∨ 3 < mailStatus m) →
      exec (.waitRetry k t) s = .next (u.modSlot t fun a => { a with phase := ended .mwait pc n }))
    ∧ (∀ loc off room d pc n, waitsFor (.qtake loc off room d) pc n → sound loc 16 →
      let h := memRead u.core.sp loc 16
      qSound h room = true → qReady h = true → sound (loc + qEntry h) 8 →
      exec (.waitRetry k t) s = .next (((((u.noteRead (spaceOf k) loc 16).noteRead (spaceOf k) (loc + qEntry h) 8).spStoreBy t loc 16
          (qTaken h)).learn k t (u.core.entryKnown (loc + qEntry h))).modSlot t fun a =>
        { a.putS d (BitVec.ofNat 64 (memRead u.core.sp (loc + qEntry h) 8)) with phase := ended (.qtake loc off room d) pc n }))
    ∧ (∀ tag d pc n l, waitsFor (.recv tag d) pc n → word tag = some l →
      exec (.recvRetry k t) s = .next ((took tag).modSlot t fun a => { a.putS d l.data with phase := ended (.recv tag d) pc n }))
    ∧ (∀ tag d e b pc n l, waitsFor (.recvt tag d e b) pc n → word tag = some l →
      exec (.recvRetry k t) s = .next ((took tag).modSlot t fun a =>
        { (a.putS d l.data).putP b false with phase := ended (.recvt tag d e b) pc n }))
    ∧ (∀ tag d e b pc n, waitsFor (.recvt tag d e b) pc n → e.toNat ≤ x →
      exec (.recvtDeadline k t) s = .next (u.modSlot t fun a =>
        { (a.putS d 0).putP b true with phase := ended (.recvt tag d e b) pc n }))
    ∧ (∀ v r pc n, waitsFor (.park v r) pc n → u.core.sharedAt r 9 x ≠ v →
      exec (.parkWake k t) s = .next (u.modSlot t fun a => { a with phase := ended (.park v r) pc n }))
    ∧ (∀ sc v pc n, waitsFor (.tamp sc v) pc n → u.tampHolds u.core sc v.toNat = true →
      exec (.tampRelease k t) s = .next (u.modSlot t fun a =>
        { a with
          phase := ended (.tamp sc v) pc n
          tampAt := (sc, (u.die u.core.die).tick + (8 - x % 8), none) :: a.tampAt.filter fun q => q.1 ≠ sc }))
    ∧ (∀ c v p pc n, waitsFor (.waitt c v p) pc n → v.toNat ≤ u.counter u.core c →
      exec (.waittReached k t) s = .next (u.modSlot t fun a => { a with phase := ended (.waitt c v p) pc n }))

/-- Wire episodes: when every core of its scope has arrived, an episode is released 24 ticks and m' + n' after the last arrival; every
waiter that waits in it still then goes on with the result, which for BARWR is the riders' payloads reduced along x in each row and then along y, and
the episode is gone; an episode that is not complete when a waiter's WIRETO expires ends with a WIRETO trap of every waiter; of a waiter
that a debugger has stopped the result is kept until it goes on (R152 to R155, R337, R361). -/
def Obligations.WireEpisodes : Prop :=
  ∀ (s : State) (ep : Nat) (e : Episode), s.episodes.find? (fun y => y.id = ep) = some e →
    let r := s.recordOf e.ctx
    let tick := (s.die e.die).tick
    let members := (List.range r.rect).filter fun i => match e.scope with
      | .all => true
      | .row => r.ly i == e.line
      | .col => r.lx i == e.line
    let arrived (i : Nat) : Bool := e.arrivals.any fun a => r.local a.lidx = i
    let span := match e.scope with
      | .all => r.m + r.n
      | .row => r.m + 1
      | .col => 1 + r.n
    let last := e.arrivals.foldl (fun m a => Nat.max m a.cycle) 0
    ((∀ i ∈ members, arrived i = true) → last + 24 + span ≤ tick → s.wireStill e = false →
      ∃ z, exec (.wireRelease ep) s = .next z ∧ z.episodes = s.episodes.filter (fun y => y.id ≠ ep)
        ∧ ∀ w ∈ e.waiters, ∀ c, s.findCore w.1 = some c → ∀ d pc n,
          c.slots[w.2.1.val].phase = .waiting ⟨.wire ep d, pc, n, none⟩ →
          ∃ c', z.findCore w.1 = some c' ∧ c'.slots[w.2.1.val].recorded = none
            ∧ c'.slots[w.2.1.val].phase = .waiting ⟨.wire ep d, pc, n, some (if c.res = .running then c.vx else c.vx - 4 - 1)⟩
            ∧ ∀ q, d = some q → (c.slots[w.2.1.val].heldAt c.vx = false → q ≠ 0 → c'.slots[w.2.1.val].s[q.val] = e.result r)
              ∧ (c.slots[w.2.1.val].heldAt c.vx = true → c'.slots[w.2.1.val].got = some (e.result r)
                ∧ c'.slots[w.2.1.val].s = c.slots[w.2.1.val].s))
    ∧ ((∀ i ∈ members, arrived i = true) → s.wireStill e = true → exec (.wireRelease ep) s = .next s)
    ∧ ((∀ i ∈ members, arrived i = true) → tick < last + 24 + span → exec (.wireRelease ep) s = .next s)
    ∧ ((∃ i ∈ members, arrived i = false) → e.waiters.any s.expired = true →
      ∃ z, exec (.wiretoExpiry ep) s = .next z ∧ z.episodes = s.episodes.filter (fun y => y.id ≠ ep)
        ∧ ∀ w ∈ e.waiters, ∀ c, s.findCore w.1 = some c → ∀ d pc n,
          c.slots[w.2.1.val].phase = .waiting ⟨.wire ep d, pc, n, none⟩ →
          ∃ c' p, z.findCore w.1 = some c' ∧ c'.slots[w.2.1.val].recorded = some p ∧ p.code = 0x09 ∧ p.next = true)
    ∧ (∀ i j, members.filter (fun y => !arrived y) = i :: j → e.missing r = BitVec.ofNat 64 (r.ly i * 256 + r.lx i))
    ∧ (e.scope ≠ .all → ∀ i j, members = i :: j → e.result r = (j.map (e.part r)).foldl (wireStep e.op) (e.part r i))
    ∧ (e.scope = .all → e.result r = foldStep e.op ((List.range r.n).map fun y =>
        foldStep e.op (((List.range r.rect).filter fun i => r.ly i == y).map (e.part r))))

/-! ## What the networks bring -/

/-- A remote access that stands at its owner's core, in its cycle, acts there as the same access would at the core itself, and one that
answers sends a reply: a store writes its bytes, a load and an atomic give the old value, a QPUB, DEPDEC and BOARR change their object;
an access for a core that is not at its place is held, behind what is held already (R87, R91, R92, R107, R110 to R115). -/
def Obligations.AccessesPerform : Prop :=
  ∀ (s : State) (f : Flight) (op : RemoteOp) (slot : Fin 8) (pend : Option Nat) (c : Core),
    s.flights.find? (fun g => g.id = f.id) = some f → f.kind = .access op slot pend →
    s.findCore ⟨f.ctx, f.dst⟩ = some c → f.crossed = f.hops → s.flightStill f = false →
    let x := (s.die c.die).tick
    let rest := s.flights.filter fun g => g.id ≠ f.id
    s.copiesFrom (spaceOf ⟨f.ctx, f.dst⟩) (spaceOf ⟨f.ctx, f.dst⟩) = [] →
    let bare (l : List Flight) : List Flight := l.map fun g => { g with known := [] }
    let at' (m : Memory) : Prop := ∃ z, exec (.remoteAccessArrival f.id) s = .next z ∧ bare z.flights = bare rest
      ∧ ∃ c', z.findCore ⟨f.ctx, f.dst⟩ = some c' ∧ c'.sp = m
    let answers (n : Nat) (v : Word) (p : Option Nat) (cls : Classes) (m : Memory) : Prop :=
      ∃ z, exec (.remoteAccessArrival f.id) s = .next z
        ∧ bare z.flights = bare rest ++ [⟨s.fresh, .reply slot n v p cls, f.ctx, f.dst, f.src, x - 5, 0, s.fresh, 0, f.hops,
            if f.hops = 0 then x else x + 2, false, [], 0⟩]
        ∧ ∃ c', z.findCore ⟨f.ctx, f.dst⟩ = some c' ∧ c'.sp = m
    f.due ≤ x →
    (c.res ≠ .running → exec (.remoteAccessArrival f.id) s
      = .next { s with flights := (s.flights.filter fun g => !(g.id == f.id && !g.held))
          ++ (s.flights.filter fun g => g.id == f.id && !g.held).map fun g => { g with held := true } })
    ∧ (c.res = .running → s.stuckBehind f = false →
      (∀ loc n v, op = .store loc n v → at' (memWrite c.sp loc n v.toNat))
      ∧ (∀ loc hi v, op = .nibble loc hi v → at' (memWrite c.sp loc 1
          (if hi = true then memRead c.sp loc 1 % 16 + 16 * v.toNat else memRead c.sp loc 1 / 16 * 16 + v.toNat)))
      ∧ (∀ loc n sgn i, op = .load loc n sgn → pend = some i → poisonIn c.poison loc n = [] →
        let r := memRead c.sp loc n
        answers i (if sgn then BitVec.signExtend 64 (BitVec.ofNat (8 * n) r) else BitVec.ofNat 64 r) none 0 c.sp)
      ∧ (∀ loc n sgn i g l, op = .load loc n sgn → pend = some i → poisonIn c.poison loc n = g :: l →
        answers i 0 (some (g * 64)) 0 c.sp)
      ∧ (∀ a loc w64 v m seed vt l t i, op = .atomic a loc w64 v m seed vt l t → pend = some i →
        let n := if w64 = true then 8 else 4
        let r := atomicApply a w64 (memRead c.sp loc n) v.toNat m ((hash64 seed l t vt 192).toNat % 2 ^ 32)
        poisonIn c.poison loc n = [] →
        answers i (BitVec.ofNat 64 (memRead c.sp loc n)) none r.2 (memWrite c.sp loc n r.1))
      ∧ (∀ loc room n, op = .qpub loc room n →
        let h := memRead c.sp loc 16
        (qpubValid h room n.toNat = true → at' (memWrite c.sp loc 16
          (qMake (setBitN (qPub h) (n.toNat % qCap h) true) (qRsv h) (qTake h) (qErr h) (qCapl h))))
        ∧ (qpubValid h room n.toNat = false → at' (memWrite c.sp loc 16 (setBitN h 15 true))))
      ∧ (∀ loc task, op = .depdec loc task →
        at' ((depdecWrites c.sp loc task.toNat (partSPB (s.recordOf f.ctx).part)).foldl
          (fun m w => memWrite m w.1 w.2.1 w.2.2) c.sp))
      ∧ (∀ loc, op = .boarr loc →
        at' (memWrite c.sp loc 16 ((BarrierObject.ofNat (memRead c.sp loc 16)).change 0 (-1)).toNat)))

/-- Other arrivals: a reply gives its value to the result that awaits it; a SEND word or a window word enters the landing buffer when an
entry is free and waits otherwise; a window word for another package leaves at its hub, by a port that is not removed (log 69); an item from another package goes on to
its core when its key or handle lets it in (the notice that a part of the team has halted is the model's, log 74), else it is dropped, counted and reported by EVENT 3, and nothing comes by a removed port; an
active message becomes ready to post; the mailbox takes held items while entries are free, in order (R31, R88, R139, R147, R149, R150,
R161, R162, R167, R311, R340 to R342, R467). -/
def Obligations.WordsArrive : Prop :=
  ∀ (s : State),
    (∀ (f : Flight) (slot : Fin 8) (n : Nat) (v : Word) (p : Option Nat) (cls : Classes) (a c : Core) (q : Pend),
      s.flights.find? (fun g => g.id = f.id) = some f → f.kind = .reply slot n v p cls → f.crossed = f.hops →
      s.flightStill f = false → s.stuckBehind f = false → s.findCore ⟨f.ctx, f.src⟩ = some a → f.due ≤ (s.die a.die).tick →
      s.findCore ⟨f.ctx, f.dst⟩ = some c → c.res = .running → c.slots[slot.val].pending = [q] → q.id = n →
      let first := q.issue / 8 * 8 + 8 * (1 + (8 + 4 * f.hops + 7) / 8)
      let next := (c.vx + 1 - slot.val + 7) / 8 * 8
      ∃ z c', exec (.remoteReplyArrival f.id) s = .next z ∧ z.flights = s.flights.filter (fun g => g.id ≠ f.id)
        ∧ z.findCore ⟨f.ctx, f.dst⟩ = some c'
        ∧ c'.slots[slot.val].pending
          = [{ q with val := .scalar v, ready := some (Nat.max first next), raised := [(0, cls)], poison := p }])
    ∧ (∀ (f : Flight) (seq : Byte) (data : Word) (c : Core),
      s.flights.find? (fun g => g.id = f.id) = some f → f.kind = .word seq data → f.crossed = f.hops →
      s.flightStill f = false → s.findCore ⟨f.ctx, f.dst⟩ = some c → f.due ≤ (s.die c.die).tick →
      let wait : State := { s with flights := (s.flights.filter fun g => !(g.id == f.id && !g.held))
          ++ (s.flights.filter fun g => g.id == f.id && !g.held).map fun g => { g with held := true } }
      (c.res ≠ .running ∨ 64 ≤ c.landing.length → exec (.scheduledWordLanding f.id) s = .next wait)
      ∧ (c.res = .running → c.landing.length < 64 →
        ∃ z c', exec (.scheduledWordLanding f.id) s = .next z ∧ z.findCore ⟨f.ctx, f.dst⟩ = some c'
          ∧ c'.landing = c.landing ++ [⟨data, BitVec.ofNat 24 f.src, seq, 0⟩]
          ∧ (f.held = false → z.flights = s.flights.filter fun g => g.id ≠ f.id)))
    ∧ (∀ (w : WindowWord) (d : Nat), s.windows.find? (fun g => g.id = w.id) = some w → w.route = [d] → w.stand ≠ .landed →
      s.windowStill w = false → w.issue + 16 + 40 * w.crossed + w.waited ≤ (s.die (Fin.ofNat 10 w.srcDie)).tick →
      (∀ x, w.due = some x → x + w.waited ≤ (s.die (Fin.ofNat 10 d)).dtick) →
      let takes (c : Core) : Prop :=
        c.res = .running ∨ (c.res = .frozen ∧ w.handle.isSome = true ∧ (s.recordOf c.key.ctx).elastic = false)
      let stands (x : WindowStand) : List WindowWord := s.windows.map fun g => if g.id = w.id then { g with stand := x } else g
      (∀ c, w.origin ≠ 2 ∨ w.due.isSome = true → s.findCore ⟨w.ctx, w.dst⟩ = some c → takes c → s.portTaken w = false →
        (c.landing.length < 64 →
          ∃ z c', exec (.windowWordLanding w.id) s = .next z ∧ z.findCore ⟨w.ctx, w.dst⟩ = some c'
            ∧ z.windows = (if w.stand = .waiting then stands .landed else s.windows.filter fun g => g.id ≠ w.id)
            ∧ c'.landing = c.landing ++ [⟨w.data, BitVec.ofNat 24 w.sender, w.seq, w.origin⟩])
        ∧ (64 ≤ c.landing.length → exec (.windowWordLanding w.id) s = .next { s with windows := stands .waiting }))
      ∧ (∀ c, w.origin ≠ 2 ∨ w.due.isSome = true → s.findCore ⟨w.ctx, w.dst⟩ = some c → ¬takes c ∨ s.portTaken w = true →
        exec (.windowWordLanding w.id) s = .next s)
      ∧ (w.origin = 2 → w.due = none → d = 8 ∨ d = 9 →
        let pkg := (s.recordOf w.ctx).packageIndex w.dst
        let gone : State := { s with windows := s.windows.filter fun g => g.id ≠ w.id }
        let port := Config.portOf (d - 8) pkg % 16
        exec (.windowWordLanding w.id) s = .next
          (if BitVec.ofNat 32 (3 * 2 ^ 28 + d * 2 ^ 24 + (16 * (d - 8) + port)) ∈ s.firm.removals then gone
          else { gone with
            fabricOut := s.fabricOut ++ [(pkg, match w.handle with
              | some h => .groupWord h w.jobKey w.sender w.seq w.data ⟨w.ctx, w.dst⟩ (w.sent + w.waited)
              | none => .windowWord w.jobKey w.sender w.seq w.data ⟨w.ctx, w.dst⟩ (w.sent + w.waited))] })))
    ∧ (∀ (w v : WindowWord), v ∈ s.windows → v.id ≠ w.id → v.route = w.route → v.origin ≠ 2 ∨ v.due.isSome = true →
      (v.stand = .landed → s.portTaken w = true)
      ∧ (v.stand = .waiting → s.present ⟨v.ctx, v.dst⟩ = true → s.windowStill v = false → v.reached.isSome = true →
        (w.reached = none ∨ v ∈ s.windows.takeWhile fun g => g.id != w.id) → s.portTaken w = true))
    ∧ (∀ (hub : Fin 2) (port : Fin 16) (sent : Nat) (key : Word) (sender : Nat) (seq : Byte) (data : Word) (m : Quad) (k : CoreKey) (x : Context),
      s.findCtx k.ctx = some x → (s.findCore k).isSome = true →
      let rid := BitVec.ofNat 32 (3 * 2 ^ 28 + (8 + hub.val) * 2 ^ 24 + (16 * hub.val + port.val))
      (rid ∈ s.firm.removals → ∀ item, exec (.hubWordArrival hub port item) s = .next s)
      ∧ (rid ∉ s.firm.removals →
      let die := 8 + hub.val
      let dropped : State := { s with firm := { s.firm with wordsDropped := s.firm.wordsDropped + 1 } }
      let event (h : Nat) : State := dropped.sendEvent 3 k.ctx h [BitVec.ofNat 64 (hub.val * 16 + port.val)]
      let flight := ((s.firm.flights.find? fun y => y.1 = x.record.packageIndex sender).map fun y => y.2.toNat).getD 0
      let word (w : FabricItem) : Prop := exec (.hubWordArrival hub port w) s = .next
        { s with
          fresh := s.fresh + 1
          windows := s.windows ++ [⟨s.fresh, k.ctx, sender, die, k.lidx, seq, data, 2, none, 0, dieRoute die (s.dieOf k.ctx k.lidx),
            (s.die (Fin.ofNat 10 die)).tick - 8, 0, 0, none, 0, sent, some (sent + flight), .moving⟩] }
      (x.record.jobKey = key → word (.windowWord key sender seq data k sent))
      ∧ (x.record.jobKey = key → exec (.hubWordArrival hub port (.message key m k)) s = .next
        { s with fresh := s.fresh + 1, messages := s.messages ++ [⟨s.fresh, k.ctx, m.toNat / 2 ^ 64 % 2 ^ 24, k.lidx, m⟩] })
      ∧ (∀ rank, x.record.jobKey = key → exec (.hubWordArrival hub port (.halted key rank k)) s = .next
        (({ s with fresh := s.fresh + 1 } : State).modCtx k.ctx fun y => { y with heard := rank :: y.heard }))
      ∧ (∀ h b, s.handles.find? (fun y => y.handle = h) = some b → b.jobKey = x.record.jobKey → sender ∈ b.ranks →
        word (.groupWord h key sender seq data k sent))
      ∧ (∀ h, s.handles.find? (fun y => y.handle = h) = none →
        exec (.hubWordArrival hub port (.groupWord h key sender seq data k sent)) s = .next (event h.toNat))
      ∧ (x.record.jobKey ≠ key → exec (.hubWordArrival hub port (.windowWord key sender seq data k sent)) s = .next (event 0))))
    ∧ (∀ (m : Message) (c : Core), s.messages.find? (fun y => y.id = m.id) = some m →
      s.messages.find? (fun y => y.ctx = m.ctx && y.src = m.src && y.dst = m.dst) = some m →
      s.findCore ⟨m.ctx, m.dst⟩ = some c → c.res = .running → c.heldMail = [] →
      ∃ z c', exec (.activeMessageArrival m.id) s = .next z ∧ z.messages = s.messages.filter (fun y => y.id ≠ m.id)
        ∧ z.findCore ⟨m.ctx, m.dst⟩ = some c' ∧ c'.heldMail = [⟨(s.die c.die).tick + 1, 2, m.src, m.msg⟩]
        ∧ c'.mailbox = c.mailbox)
    ∧ (∀ (k : CoreKey) (c : Core), s.findCore k = some c → c.mailbox.length + c.heldMail.length ≤ 32 →
      ∃ z c', exec (.mailboxHeldPost k) s = .next z ∧ z.findCore k = some c' ∧ c'.heldMail = []
        ∧ c'.mailbox = c.mailbox ++ c.heldMail.map (·.msg))
    ∧ (∀ (k : CoreKey) (c : Core), s.findCore k = some c → 32 ≤ c.mailbox.length →
      ∃ z c', exec (.mailboxHeldPost k) s = .next z ∧ z.findCore k = some c' ∧ c'.heldMail = c.heldMail
        ∧ c'.mailbox = c.mailbox)

/-! ## Engines and translation -/

/-- The transfer engine: the oldest queued request starts when fewer than four are in progress and, for each of its FENCE marks, every remote
access of the thread from before the FENCE has performed and no request ahead has writes, counts or a message left that the mark waits for
(log 52); the port admits a unit whose translation succeeds, parks one whose translation fails, or returns it when its fault queue is full; a unit's eight
bytes are read, and then written and counted into the request's object, and the request goes on to its next unit, row or element; a
split request's units come from the owners' scratchpads; a request that is done posts its completion message or leaves the FIFO (R109,
R122, R125, R130, R133 to R138, R141, R144, R433 to R436). That reading and writing are two steps, and that a claim about a write asks
that no write makes bytes of this scratchpad undefined (R96), is the model's (log 82, log 6). -/
def Obligations.EngineSteps : Prop :=
  ∀ (s : State) (k : CoreKey) (c : Core) (r : Request), s.findCore k = some c → c.res = .running →
    let rec' := s.recordOf k.ctx
    let tick := (s.die c.die).tick
    let has (z : State) (p : Request → Prop) : Prop := ∃ c' r', z.findCore k = some c' ∧ c'.req r.id = some r' ∧ p r'
    let counted (m : Memory) : Memory :=
      if wCmode r.w3 % 2 = 0 then m
      else memWrite m (wBooff r.w3) 16 ((BarrierObject.ofNat (memRead m (wBooff r.w3) 16)).change (-8) 0).toNat
    let safe (u : ReadUnit) (dst : Nat) : Prop := s.spoiltBy (spaceOf k) [(dst, 8), (wBooff r.w3, 16)] (spaceOf k) = []
      ∧ (u.space = spaceOf k → u.src + 8 ≤ wBooff r.w3 ∨ wBooff r.w3 + 16 ≤ u.src)
    (c.fifo.find? (fun y => y.state == .queued) = some r →
      (c.fifo.filter fun y => y.state == .started || y.state == .finishing).length < 4 →
      (∀ m ∈ r.marks, m.f < tick ∧ (∀ g ∈ s.flights, ∀ op t p, g.ctx = k.ctx → g.src = k.lidx → g.kind = .access op t p → t ≠ m.slot ∨ m.issue ≤ g.id)
        ∧ ∀ q ∈ c.fifo.takeWhile (fun y => y.id ≠ r.id), wCmode q.w3 = 0 ∧ segKind q.dseg ≠ 1
        ∧ segKind q.dseg ≠ 2 ∧ m.scope ≠ .package ∧ m.scope ≠ .system) →
      ∃ z c', exec (.engineRequestStart k) s = .next z ∧ z.findCore k = some c'
        ∧ c'.fifo = c.fifo.map fun y => if y.id = r.id then
            { y with
              state := if requestEmpty y.op y.w2 then .finishing else .started
              begun := true
              recv := if y.op.indexed = true ∨ wMc y.w2 = 0 then []
                else (List.range rec'.rect).filter fun i => if wMc y.w2 = 1 then rec'.ly i == rec'.ly (rec'.local k.lidx)
                  else rec'.lx i == rec'.lx (rec'.local k.lidx) }
          else y)
    ∧ (c.req r.id = some r → r.state = .started → r.parked = false → r.op = .copy → wMc r.w2 = 0 → r.recv = [] → r.admitted = [] →
      ∀ va off room write, (write = false ∧ segKind r.sseg = 3 ∧ r.buf = [] ∧ r.bad = none ∧ 0 < r.rowLeft ∧ va = segBase r.sseg + wOff r.w1
          ∧ off = wOff r.w1 ∧ room = Nat.min r.rowLeft (2 ^ 16 - va % 2 ^ 16))
        ∨ (write = true ∧ segKind r.dseg = 3 ∧ segKind r.sseg = 1 ∧ r.buf.length = 1 ∧ va = segBase r.dseg + wOff r.w0
          ∧ off = wOff r.w0 ∧ room = 8) →
      (s.die c.die).cache.find? (fun y => y.holds rec'.asid va) = none → rec'.asid ∉ (s.die c.die).refused →
      (∀ pa sz rd wr, s.walk (s.sliceOf k) rec'.asid va write rec'.diag = .leaf pa sz rd wr →
        ∃ z n, exec (.engineUnitAdmission k r.id) s = .next z ∧ 8 * (n + 1) ≤ Nat.max 8 room
          ∧ has z fun r' => r'.admitted = [⟨va, pa, 8 * (n + 1), write, tick, (va / sz * sz, sz), false, false⟩])
      ∧ (∀ why level, s.walk (s.sliceOf k) rec'.asid va write rec'.diag = .fault why level →
        ((s.die c.die).faults.length < 128 →
          ∃ z, exec (.engineUnitAdmission k r.id) s = .next z ∧ has z (fun r' => r'.parked = true)
            ∧ (z.die c.die).faults
              = (s.die c.die).faults ++ [⟨k, r.id, r.slot, rec'.asid, va, off, write, (s.die c.die).dtick, s.fresh, none⟩])
        ∧ (128 ≤ (s.die c.die).faults.length →
          ∃ z, exec (.engineUnitAdmission k r.id) s = .next z ∧ rec'.asid ∈ (z.die c.die).refused
            ∧ (z.die c.die).faults = (s.die c.die).faults)))
    ∧ (c.req r.id = some r → r.state = .started → r.parked = false → r.op = .copy → wMc r.w2 = 0 → r.recv = [] →
      segKind r.sseg = 1 → segKind r.dseg = 1 → k.lidx < 2 ^ 24 - 1 →
      let src := segBase r.sseg + wOff r.w1
      let dst := segBase r.dseg + wOff r.w0
      (r.buf = [] → r.bad = none → 0 < r.rowLeft → poisonIn c.poison src 8 = [] →
        ∃ z c', exec (.engineUnitAccess k r.id) s = .next z ∧ z.findCore k = some c' ∧ c'.sp = c.sp
          ∧ has z fun r' => r'.buf = [⟨spaceOf k, src, memRead c.sp src 8⟩] ∧ r'.w0 = r.w0 ∧ r'.w1 = r.w1)
      ∧ (r.buf = [] → r.bad = none → 0 < r.rowLeft → poisonIn c.poison src 8 ≠ [] →
        ∃ z, exec (.engineUnitAccess k r.id) s = .next z ∧ has z fun r' => r'.state = .finishing
          ∧ (r.status = 0 → r'.status = 2 ∧ r'.errIdx = 0 ∧ r'.errOff = BitVec.ofNat 64 (wOff r.w1)))
      ∧ ∀ u, r.buf = [u] → r.stained = [] → (r.bad = none → 8 < r.rowLeft → poisonIn c.poison (src + 8) 8 = []) → (∀ i, i < 8 → r.inDestination rec' k (.sp k src) i = false) → safe u dst →
        ∃ z c', exec (.engineUnitAccess k r.id) s = .next z ∧ z.findCore k = some c' ∧ c'.sp = counted (memWrite c.sp dst 8 u.val)
          ∧ has z fun r' => r'.buf = []
            ∧ (8 < r.rowLeft → r'.state = .started ∧ r'.rowLeft = r.rowLeft - 8 ∧ r'.rowsLeft = r.rowsLeft
              ∧ r'.w0 = withOff r.w0 (wOff r.w0 + 8) ∧ r'.w1 = withOff r.w1 (wOff r.w1 + 8))
            ∧ (r.rowLeft ≤ 8 → 1 < r.rowsLeft → r'.state = .started ∧ r'.rowLeft = wLen r.w2 ∧ r'.rowsLeft = r.rowsLeft - 1
              ∧ r'.w0 = withOff r.w0 (wOff r.w0 + 8 + 8 * wDstr r.w2 - wLen r.w2)
              ∧ r'.w1 = withOff r.w1 (wOff r.w1 + 8 + 8 * wSstr r.w2 - wLen r.w2))
            ∧ (r.rowLeft ≤ 8 → r.rowsLeft ≤ 1 → r'.state = .finishing))
    ∧ (c.req r.id = some r → r.state = .started → r.parked = false → r.op = .gath → segKind r.sseg = 2 → segKind r.dseg = 1 →
      r.recv = [] → r.bad = none → k.lidx < 2 ^ 24 - 1 → ∀ e, r.idx = some e →
      let got := 8 * (r.unit + r.buf.length)
      (∀ m p cm, got < wEsz r.w2 → placeOf rec' k r.sseg (wOff r.w1 + e * wEsz r.w2 + got) = .sp m p →
        m.lidx < 2 ^ 24 - 1 → s.findCore m = some cm → cm.res = .running → poisonIn cm.poison p 8 = [] →
        ∃ z c', exec (.engineSublist k r.id) s = .next z ∧ z.findCore k = some c' ∧ c'.sp = c.sp
          ∧ has z fun r' => r'.buf = r.buf ++ [⟨spaceOf m, p, memRead cm.sp p 8⟩] ∧ r'.unit = r.unit ∧ r'.idx = some e)
      ∧ ∀ u rest, wEsz r.w2 ≤ got → r.buf = u :: rest → r.stained = [] →
        let dst := segBase r.dseg + (wOff r.w0 + r.next * wEsz r.w2 + 8 * r.unit)
        safe u dst →
        ∃ z c', exec (.engineSublist k r.id) s = .next z ∧ z.findCore k = some c' ∧ c'.sp = counted (memWrite c.sp dst 8 u.val)
          ∧ has z fun r' => r'.buf = rest
            ∧ (8 * (r.unit + 1) < wEsz r.w2 → r'.unit = r.unit + 1 ∧ r'.idx = some e ∧ r'.next = r.next)
            ∧ (wEsz r.w2 ≤ 8 * (r.unit + 1) → r'.unit = 0 ∧ r'.idx = none ∧ r'.next = r.next + 1))
    ∧ (c.req r.id = some r → r.state = .finishing → c.heldMail = [] →
      (wCmode r.w3 < 2 → ∃ z c', exec (.engineRequestComplete k r.id) s = .next z ∧ z.findCore k = some c'
        ∧ c'.fifo = c.fifo.filter (fun y => y.id ≠ r.id) ∧ c'.heldMail = [])
      ∧ (2 ≤ wCmode r.w3 → ∃ z c', exec (.engineRequestComplete k r.id) s = .next z ∧ z.findCore k = some c'
        ∧ c'.heldMail = [⟨tick, 0, r.id, completionMessage (wTag r.w3) r.status.toNat r.slot.val r.op.code
            (if r.status = 0 then 0 else r.errIdx)
            (if r.status ≠ 0 then r.errOff.toNat else if r.op.indexed then wIcnt r.w2 * wEsz r.w2
              else if wMc r.w2 = 0 then wNrow r.w2 * wLen r.w2 else wLen r.w2)⟩]))

/-- Faults and shootdowns: the service cores admit a parked unit whose walk now succeeds, refuse one that may not be served, and log
one that the driver is to answer; the answers 1 and 2 and the time limit act on the unit; a shootdown command drops the translations
that it covers, and CMDDONE goes on once no unit uses one (R432, R435 to R439). -/
def Obligations.FaultsServed : Prop :=
  (∀ (s : State) (sl : Fin 8) (d : Fin 10) (p : Parked) (c : Core) (r : Request),
    s.findCore p.core = some c → c.req p.req = some r → s.sliceOf p.core = sl →
    let die := s.die d
    let at' (off : Nat) : Nat := 0x17FFF800000 + 0x100000 * sl.val + off
    let tcb (off : Nat) : Nat := memRead s.mem (at' off) 8
    let gone (z : State) : Prop := (z.die d).faults = die.faults.filter fun q => !q.same p
    let has (z : State) (f : Request → Prop) : Prop := ∃ c' r', z.findCore p.core = some c' ∧ c'.req p.req = some r' ∧ f r'
    let admitted (i : Instr) (pa : Nat) : Prop := r.op.indexed = false ∨ p.write = false → ∃ z, exec i s = .next z ∧ gone z
      ∧ has z fun r' => r'.parked = false ∧ ∃ page : Nat × Nat,
          r'.admitted = r.admitted ++ [⟨p.va, pa, 8, p.write, die.tick, page, false, true⟩] ∧ page.1 ≤ p.va ∧ page.1 % page.2 = 0
    let refused (i : Instr) : Prop := ∃ z, exec i s = .next z ∧ gone z
      ∧ has z fun r' => r'.state = .finishing ∧ (r.status = 0 → r'.status = 3 ∧ r'.errOff = BitVec.ofNat 64 p.segOff)
    let walk := s.walk sl p.asid p.va p.write (s.recordOf p.core.ctx).diag
    let full : Bool := (tcb 0x80008 + 2 ^ 64 - tcb 0x80010) % 2 ^ 64 == 8192
    let released (n : Nat) : Prop := (tcb 0x80008 + 2 ^ 64 - tcb 0x80010 % 2 ^ 64) % 2 ^ 64 < (tcb 0x80008 + 2 ^ 64 - n % 2 ^ 64) % 2 ^ 64
    let answer (n : Nat) : Nat := memRead s.mem (at' (0xA0000 + 32 * (n % 8192)) + 24) 8 % 4
    (die.faults.filter (fun q => q.record.isNone) = [p] →
      (∀ e : Fin 10, ∀ q ∈ (s.die e).faults, s.sliceOf q.core = sl → q.record.isNone = true → p.order ≤ q.order) →
      (∀ pa sz rd wr, walk = .leaf pa sz rd wr → admitted (.faultService d) pa)
      ∧ (∀ lvl, walk = .fault .hole lvl → refused (.faultService d))
      ∧ (∀ why lvl, walk = .fault why lvl → why ≠ .tPoison → (tcb (8 * p.asid)).testBit 62 = false → refused (.faultService d))
      ∧ (∀ why lvl, walk = .fault why lvl → why ≠ .tPoison → why ≠ .hole → (tcb (8 * p.asid)).testBit 62 = true →
        (full = true → exec (.faultService d) s = .next { s with free := s.free + 1 })
        ∧ (full = false → ∃ z, exec (.faultService d) s = .next z
          ∧ z.mem = memWrite (memWrite s.mem (at' (0xA0000 + 32 * (tcb 0x80008 % 8192))) 32
              (pack [(62, 0), (2, 0), (32, tcb 0x80008), (16, p.asid), (4, why.code), (2, lvl), (1, b2n p.write), (4, d.val),
                (4, c.y.val), (4, c.x.val), (3, p.slot.val), (6, 0), (64, p.dtick), (52, p.va)]))
              (at' 0x80008) 8 ((tcb 0x80008 + 1) % 2 ^ 64)
          ∧ (z.die d).faults = die.faults.map fun q =>
              if q.same p then { q with record := some (tcb 0x80008, die.dtick) } else q)))
    ∧ (∀ n t, s.pendingFaults sl = [(d, p, n, t)] →
      (answer n = 2 → refused (.faultAnswerPoll sl))
      ∧ (answer n = 0 → released n → refused (.faultAnswerPoll sl))
      ∧ (answer n = 0 → ¬released n → exec (.faultAnswerPoll sl) s = .next s)
      ∧ (∀ pa sz rd wr, answer n = 1 → walk = .leaf pa sz rd wr → admitted (.faultAnswerPoll sl) pa)
      ∧ (answer n = 0 → ¬released n → tcb 0x80000 % 2 ^ 32 ≠ 0 → t + tcb 0x80000 % 2 ^ 32 * 3600000 ≤ die.dtick →
        refused (.faultTimeout sl))
      ∧ (tcb 0x80000 % 2 ^ 32 = 0 ∨ die.dtick < t + tcb 0x80000 % 2 ^ 32 * 3600000 → exec (.faultTimeout sl) s = .next s)))
  ∧ (∀ (s : State) (sl : Fin 8),
    let at' (off : Nat) : Nat := 0x17FFF800000 + 0x100000 * sl.val + off
    let tcb (off : Nat) : Nat := memRead s.mem (at' off) 8
    (let cmd := memRead s.mem (at' (0x90000 + 16 * (tcb 0x80020 % 4096))) 16
      let op := cmd / 2 ^ 120
      let drops (i : Instr) : Prop := ∃ z, exec i s = .next z ∧ (z.slice sl).shoot = true ∧ z.mem = s.mem
        ∧ ∀ e : Fin 10, (z.die e).cache = (s.die e).cache.filter fun y =>
          !((s.slice sl).hasAsid y.asid && commandCovers cmd y.asid y.va y.size)
      tcb 0x80020 ≠ tcb 0x80018 → (s.slice sl).shoot = false →
        (op = 1 → drops (.shootdownPages sl)) ∧ (op = 2 → drops (.shootdownAsid sl))
        ∧ (op ≠ 1 → op ≠ 2 → drops (.shootdownSlice sl)))
    ∧ ((s.slice sl).shoot = true →
      (∀ k ∈ s.cores, s.sliceOf k.key = sl → ∀ q ∈ k.fifo, ∀ u ∈ q.admitted, u.dropped = false) →
      ∃ z, exec (.shootdownAck sl) s = .next z ∧ (z.slice sl).shoot = false
        ∧ z.mem = memWrite s.mem (at' 0x80020) 8 ((tcb 0x80020 + 1) % 2 ^ 64)))
  ∧ ∀ (cmd asid va n : Nat),
    (cmd / 2 ^ 120 % 2 ^ 8 = 1 → (commandCovers cmd asid va n = true ↔ cmd / 2 ^ 104 % 2 ^ 16 = asid
        ∧ cmd / 2 ^ 16 % 2 ^ 36 * 2 ^ 16 < va + n ∧ va < (cmd / 2 ^ 16 % 2 ^ 36 + Nat.max (cmd / 2 ^ 72 % 2 ^ 32) 1) * 2 ^ 16))
    ∧ (cmd / 2 ^ 120 % 2 ^ 8 = 2 → (commandCovers cmd asid va n = true ↔ cmd / 2 ^ 104 % 2 ^ 16 = asid))

/-! ## Clocks, timetables, traces and the debugger -/

/-- A die takes stamps every 4,096 ticks, each within a tick of the other die's count, and is locked from then on: SLOW names the compute
die with the lowest estimate and RATE its own rate beside that one's; a PTP message is stamped at one of 32 ports, the servo's offset from
it sets PLOCK, SKEWB and what it slews, and a stamp of the port's own two-step message leaves in its follow-up, but nothing at a removed
port (R467); a debugger's stop and resume act at the thread's next rotation boundary, at which a wait that ended during the stop ends; a hub
die's service cores go to the nominal clock at
a boundary once full service has begun and no DIAG context of the die is left that has not ended; at a pulse of its die a trace session appends a KEY record of 6,208
bytes after its opening, and counts a lost record when its ring has no room (R157, R158, R354 to R357, R361, R458, R463; Table 6-5). How
far an estimate lags is free, and from where a hub die's ticks count for its RATE is the model's (log 5); the messages, the bound of 36
and the half of the exchange as delay are the model's (log 99). -/
def Obligations.ClocksDebugTrace : Prop :=
  ((∀ (s : State) (d : Fin 10), (s.die d).tick % 4096 = 0 → ∃ z, exec (.alignStampExchange d) s = .next z
      ∧ (z.die d).alock = true ∧ (z.die d).errb = 2 ∧ (z.die d).estimates.length = 8 ∧ (z.die d).stampAt = (s.die d).tick
      ∧ (∀ e : Fin 8, ∃ lag, (z.die d).estimates[e.val]? = some lag ∧ lag ≤ 1 ∧ (e.val = d.val → lag = 0))
      ∧ (let est (e : Nat) : Nat := (s.die (Fin.ofNat 10 e)).tick - (z.die d).estimates.getD e 0
        let slow := (z.die d).slow.toNat
        let ppm (own low : Nat) : Int :=
          let m : Nat := Nat.min ((2 * (Nat.max own low - Nat.min own low) * 64 * 1000000 + low) / (2 * low)) 12800
          if low ≤ own then m else -(m : Int)
        slow < 8 ∧ (∀ e, e < 8 → est slow ≤ est e) ∧ (∀ e, e < slow → est slow < est e)
        ∧ (d.val < 8 → est slow ≠ 0 → (z.die d).rate.toInt = ppm (est d.val) (est slow))
        ∧ (d.val = slow → est slow ≠ 0 → (z.die d).rate = 0)
        ∧ (8 ≤ d.val → let own := ((s.die d).tick - (s.die d).rateFrom.1) * (if (s.die d).slowClock = true then 2 else 1)
          let low := est slow - (s.die d).rateFrom.2.getD slow 0
          low ≠ 0 → (z.die d).rate.toInt = ppm own low))
      ∧ ∀ e : Fin 10, (z.die e).tick = (s.die e).tick ∧ (z.die e).dtick = (s.die e).dtick ∧ (e ≠ d → z.die e = s.die e))
    ∧ (∀ (s : State) (hub : Fin 2) (rep : PtpReport),
        let rid := BitVec.ofNat 32 (3 * 2 ^ 28 + (8 + hub.val) * 2 ^ 24 + (16 * hub.val + rep.port.val))
        (rid ∈ s.firm.removals → exec (.ptpTimestamp hub rep) s = .next s)
        ∧ (rid ∉ s.firm.removals →
        let now := (s.die (Fin.ofNat 10 (8 + hub.val))).dtick
        let n := 16 * hub.val + rep.port.val
        let port := s.firm.ptp.toList.getD n PtpPort.reset
        let seen : Option Int := if rep.grandmaster = true then some 0 else match rep.message with
          | .sync (some o) => some ((now : Int) - o - port.delay)
          | .followUp o => port.came.map fun t => (t : Int) - o - port.delay
          | _ => none
        let off : Int := seen.getD s.firm.offset
        let lock := rep.plock = true ∧ -36 ≤ off ∧ off ≤ 36
        ∃ z, exec (.ptpTimestamp hub rep) s = .next { s with firm := z } ∧ z.offset = off ∧ (z.plock = true ↔ lock)
          ∧ (∀ o, seen = some o → z.slew = -(o * 1000000)) ∧ (seen = none → z.slew = s.firm.slew)
          ∧ (¬lock → z.skewb = 255) ∧ (lock → rep.grandmaster = true → z.skewb = 0)
          ∧ (lock → rep.grandmaster = false → rep.skewb.toNat ≤ z.skewb.toNat ∧ off.natAbs ≤ z.skewb.toNat)
          ∧ (∀ m, m ≠ n → z.ptp.toList.getD m PtpPort.reset = s.firm.ptp.toList.getD m PtpPort.reset)
          ∧ (let after := z.ptp.toList.getD n PtpPort.reset
            (rep.message = .request → after = { port with asked := some now })
            ∧ (∀ t h, rep.message = .response h → port.asked = some t → after = { port with asked := none, delay := (now - t - h) / 2 })
            ∧ (rep.message = .sync none → after = { port with came := some now })
            ∧ (∀ o, rep.message = .sync (some o) ∨ rep.message = .followUp o → after = { port with came := none })
            ∧ (rep.message = .syncLeaves → after = { port with left := some now } ∧ z.ptpOut = (n, .followUp now) :: s.firm.ptpOut)
            ∧ (rep.message = .peerRequest → after = { port with peer := some now })
            ∧ (∀ t, rep.message = .responseLeaves → port.peer = some t →
              after = { port with peer := none } ∧ z.ptpOut = (n, .held (now - t)) :: s.firm.ptpOut)
            ∧ (rep.message ≠ .syncLeaves → rep.message ≠ .responseLeaves → z.ptpOut = s.firm.ptpOut))
          ∧ { z with plock := s.firm.plock, skewb := s.firm.skewb, ptp := s.firm.ptp, offset := s.firm.offset, slew := s.firm.slew,
                     ptpOut := s.firm.ptpOut } = s.firm))
    ∧ (∀ (s : State) (k : CoreKey) (t : Fin 8) (c : Core), s.findCore k = some c →
        let th := c.slots[t.val]
        let next := if c.res = .running then (c.vx / 8 + 1) * 8 else c.vx - 4
        let asks (i : Instr) : Prop := ∃ z c', exec i s = .next z ∧ z.findCore k = some c'
          ∧ c'.slots = c.slots.set t.val { th with stopAsked := some next }
        (th.phase ≠ .vacant → th.stopped = none → th.stopAsked = none → asks (.debugStopRequest k t))
        ∧ (th.stopped.isSome = true → th.resumed = none → asks (.debugResume k t)))
    ∧ (∀ (t : Thread) (b st v : Nat),
        (t.stopped = none → t.stopAsked = some b →
          t.debugged v = if b ≤ v then { t with stopped := some b, stopAsked := none } else t)
        ∧ (t.stopped = some st → t.resumed = some b →
          t.debugged v = if b ≤ v then { t with stopped := none, resumed := none, skipBreak := true } else t)
        ∧ (∀ w x, t.phase = .waiting w → w.done = some x → st ≤ x → (∀ e q, w.kind ≠ .wire e q) →
          t.resumes st b = { t with
            resumed := some b, stopAsked := none, got := none, phase := .waiting { w with done := some b } }))
    ∧ (∀ (s : State) (k : CoreKey) (t : Fin 8) (st b : Nat), (s.slotOf t).stopped = some st → (s.slotOf t).stopAsked = some b →
        (s.core.vx < b → s.resumeDue k t = s)
        ∧ (b ≤ s.core.vx → (s.slotOf t).phase = .ready → s.resumeDue k t = s.modSlot t fun th =>
          { th with resumed := some b, stopAsked := none }))
    ∧ (∀ (s : State) (hub : Fin 2) (d : Fin 10), d.val = 8 + hub.val → (s.die d).slowClock = true → s.firm.service = .full →
        (s.die d).tick % 8 = 7 →
        let parts (x : Context) : List Core := s.cores.filter fun c => c.key.ctx != 0 && c.key.ctx == x.num
        let halted (x : Context) : Prop := ∀ c ∈ parts x, ∀ t ∈ c.slots.toList, t.phase = .vacant ∧ t.start + 1 ≤ s.reckoned d c + 4
        ((∀ x ∈ s.contexts, (∀ c ∈ parts x, c.die ≠ d)
            ∨ (halted x ∧ (∀ c ∈ parts x, c.fifo = []) ∧ x.record.npkg = 0 ∧ x.record.pkgRank = 0)) →
          exec (.serviceClockSwitch hub) s = .next (s.modDie d fun x =>
            { x with slowClock := false, rateFrom := (x.tick, (List.finRange 8).map fun e => s.estimate d (Fin.ofNat 10 e.val)) }))
        ∧ ((∃ x ∈ s.contexts, (∃ c ∈ parts x, c.die = d) ∧ ¬halted x) → exec (.serviceClockSwitch hub) s = .next s)))
  ∧ (∀ (s : State) (x : Session) (p : Nat), s.sessions.find? (fun y => y.id = x.id) = some x → x.lost = 0 → x.needKey = true →
      (s.die x.die).dhist[4]? = some p →
      (p % 2 ^ x.k ≠ 0 → exec (.tracePulse x.id) s = .next s)
      ∧ (p % 2 ^ x.k = 0 → 6208 ≤ x.size - (x.wr - x.rd) →
        ∃ z x', exec (.tracePulse x.id) s = .next z ∧ z.sessions.find? (fun y => y.id = x.id) = some x'
          ∧ x'.wr = x.wr + 6208 ∧ x'.seq = x.seq + 1 ∧ x'.sinceKey = (x.sinceKey + 1) % 64 ∧ x'.needKey = false ∧ x'.last = s.traceEntries x
          ∧ x'.rd = x.rd ∧ x'.base = x.base ∧ x'.size = x.size)
      ∧ (p % 2 ^ x.k = 0 → x.size - (x.wr - x.rd) < 6208 →
        ∃ z, exec (.tracePulse x.id) s = .next z ∧ z.mem = s.mem
          ∧ z.sessions.find? (fun y => y.id = x.id) = some { x with lost := 1 })
      ∧ (s.traceEntries x).length = 256)

/-- Timetables and channels: a CARM check ends with ARMED, or with REJECTED, the place free and its message; a due PUT sends its bytes as
window words with the group's handle; a due GET or ACC takes its word from the landing buffer and writes it, or the sum, to the
scratchpad; a missing word stops a run of a counted team, marks its object, and makes one of an elastic team wait until the word comes; the oldest known
response of a channel is posted (R163, R169, R170, R172, R343, R344, R347, Tables 7-1 to 7-3). The wait of a check's timetable that is
written meanwhile is the model's choice (log 4). -/
def Obligations.TimetablesRun : Prop :=
  ∀ (s : State) (k : CoreKey) (c : Core) (hdr : Nat), s.findCore k = some c → k.lidx < 2 ^ 24 - 1 → hdr < 2 ^ 20 →
    let clear (l : List (Nat × Nat)) : Prop := s.spoiltBy (spaceOf k) l (spaceOf k) = []
    let h := memRead c.sp hdr 16
    let tick := (s.die c.die).tick
    let becomes (i : Instr) (p : Core → Prop) : Prop := ∃ z c', exec i s = .next z ∧ z.findCore k = some c' ∧ p c'
    (∀ t, c.tables.find? (fun y => y.hdr = hdr && y.checking.isSome) = some t → t.touched = false →
      clear [(hdr, 16)] →
      (s.tableFault c hdr = none → becomes (.carmCheckComplete k hdr) fun c' =>
        c'.sp = memWrite c.sp hdr 16 (thWithState h 1)
        ∧ (∃ y ∈ c'.tables, y.hdr = hdr) ∧ ∀ y ∈ c'.tables, y.hdr = hdr → y.checking = none)
      ∧ (∀ o, s.tableFault c hdr = some o → c.heldMail = [] → becomes (.carmCheckComplete k hdr) fun c' =>
        c'.sp = memWrite c.sp hdr 16 (thWithState h 3) ∧ (∀ y ∈ c'.tables, y.hdr ≠ hdr)
        ∧ c'.heldMail = [⟨tick, 1, hdr, completionMessage (thTag (memRead c'.sp hdr 16)) 1 7 0 0 o⟩]))
    ∧ (thBooff h % 16 ≠ 0 → s.tableFault c hdr = some hdr)
    ∧ (s.handles.find? (fun y => y.handle.toNat = thHandle h) = none → s.tableFault c hdr = some hdr)
    ∧ (∀ t, c.res = .running → thState h = 2 → c.tables.find? (fun y => y.hdr = hdr && y.running) = some t →
      t.entry + 1 < thNent h → s.emptyRun c hdr = false →
      let e := memRead c.sp (hdr + 16 + 16 * t.entry) 16
      let peer := (s.ranksOf (thHandle h)).getD (tePeer e) 0
      let word : Option Landed := c.landing.find? fun l => l.sender ++ l.seq = BitVec.ofNat 32 (peer * 256 + teSeq e)
      let count := if t.onDtick = true then (s.die c.die).dtick else tick
      let due := t.base + teWt e + (s.guardTo c peer).1 ≤ count
      let stores (i : Instr) (v : Nat) : Prop := becomes i fun c' => c'.sp = memWrite c.sp (teLoff e) 8 v
        ∧ c'.landing = c.landing.eraseP (fun l => l.sender ++ l.seq = BitVec.ofNat 32 (peer * 256 + teSeq e))
        ∧ { t with entry := t.entry + 1, taken := 0, bytes := t.bytes + 8, asleep := false } ∈ c'.tables
        ∧ ∀ y ∈ c'.tables, y.hdr = hdr → y.entry = t.entry + 1
      (teKind e = 1 → t.base + teWt e ≤ count + (s.guardTo c peer).2 →
        ∃ z ws, exec (.timetablePut k hdr) s = .next z ∧ z.windows = s.windows ++ ws ∧ ws.length = teLen e / 8
          ∧ ∀ i w, ws[i]? = some w → w.data = BitVec.ofNat 64 (memRead c.sp (teLoff e + 8 * i) 8) ∧ w.dst = peer
            ∧ w.sender = k.lidx ∧ w.seq = BitVec.ofNat 8 (teSeq e) ∧ w.handle = some (BitVec.ofNat 24 (thHandle h)) ∧ w.issue = tick
            ∧ w.sent = (s.die c.die).dtick ∧ w.order = i)
      ∧ (due → t.taken = 0 → teLen e = 8 → teLoff e + 8 ≤ hdr ∨ hdr + 16 ≤ teLoff e → clear [(teLoff e, 8)] →
        (∀ l, teKind e = 3 → t.asleep = false → word = some l → stores (.timetableGet k hdr) l.data.toNat)
        ∧ (∀ l, teKind e = 3 → t.asleep = true → word = some l → stores (.timetableEntryWake k hdr) l.data.toNat)
        ∧ (∀ l, teKind e = 2 → t.asleep = false → word = some l →
          stores (.timetableAcc k hdr) (accWord e (memRead c.sp (teLoff e) 8) l.data.toNat))
        ∧ (teKind e = 3 → t.asleep = false → word = none → (s.recordOf k.ctx).elastic = true →
          becomes (.timetableGet k hdr) fun c' => c'.sp = c.sp
            ∧ c'.tables = c.tables.map fun y => if y.hdr = hdr then { y with asleep := true } else y)
        ∧ (teKind e = 3 → t.asleep = false → word = none → (s.recordOf k.ctx).elastic = false →
          clear [(thBooff h, 16), (hdr, 16)] →
          let old := memRead c.sp (thBooff h) 16
          let b := BarrierObject.ofNat old
          becomes (.timetableGet k hdr) fun c' => c'.sp = memWrite (memWrite c.sp (thBooff h) 16
              (if b.faulted = true then old else { b with error := true, remain := ((hdr + 16 + 16 * t.entry : Nat) : Int) }.toNat))
              hdr 16 (thWithState h 4)
            ∧ ∀ y ∈ c'.tables, y.hdr ≠ hdr)))
    ∧ (∀ e a b, teFmt e = 2 → (teOp e = 0 → accWord e a b = (a + b) % 2 ^ 64) ∧ (teOp e = 3 → accWord e a b = a &&& b))
    ∧ (∀ id q w rest, c.res = .running → c.asked = (id, q, some w) :: rest → becomes (.channelResponsePost k) fun c' =>
        c'.resp = c.resp ++ [(q, w)] ∧ c'.asked = c.asked.filter fun y => y.1 ≠ id)
    ∧ (∀ id q id' w, c.res = .running → c.asked = [(id, q, none), (id', q, some w)] → becomes (.channelResponsePost k) fun c' =>
        c'.resp = c.resp ∧ c'.asked = c.asked)


/-! ## Placement, freezes and returns -/

/-- The placer starts a ready launch whose rectangles fit, with the context and its cores at their boundary, and answers it; a stopped
slice places nothing. A core freezes at its boundary; the last core that the placer
wants of a quiesced team streams out, and leaves the team frozen; an elastic core that has its place again streams in, and a placed team
resumes, at a boundary; credits last one second (R27, R50, R51, R53, R82, R144, R352, R401, R417 to R424, R468). Starts and resumes take
boundaries of their dies within 2 ticks of each other, and wait until such come: which ones, and when, is the model's choice (log 29);
that a run fired after the boundary was chosen moves it is log 48; what a core leaves unfinished before it streams is log 50. -/
def Obligations.Placement : Prop :=
  (∀ (s : State) (sl : Fin 8), s.submitted = [] →
      ((s.slice sl).stopped = true → exec (.placerRun sl) s = .next s)
      ∧ ∀ q p lane n, (s.slice sl).queue = [q] → (s.slice sl).stopped = false → s.firm.service = .full → s.firm.thermalHold = false →
        (∀ c ∈ s.contexts, c.record.slice = sl.val → c.victim = []) → q.record.slice = sl.val → q.dep = 0 → q.team = none →
        q.origin = .frame lane n → (q.record.npkg = 0 ∨ s.firm.plock = true) → s.findPlace q.record (fun _ => false) = some p →
        (s.together (p.map (·.1)) startLead = false → exec (.placerRun sl) s = .next s)
        ∧ (s.together (p.map (·.1)) startLead = true → ∃ z x cores, exec (.placerRun sl) s = .next z ∧ (z.slice sl).queue = [] ∧ z.contexts = s.contexts ++ [x] ∧ x.num = s.nextCtx
          ∧ x.record = q.record ∧ x.ranks = p ∧ x.state = .running ∧ z.nextCtx = s.nextCtx + 1 ∧ z.others = s.others ++ cores
          ∧ cores.length = q.record.m * q.record.n * q.record.d
          ∧ (∀ c ∈ cores, c.key.ctx = s.nextCtx ∧ c.res = .running ∧ c.tick0 % 8 = 0 ∧ (s.die c.die).tick < c.tick0 ∧ c.vx = 0
            ∧ c.istore = memPut [] 0 q.record.code ∧ c.sp = memPut [] 0 q.record.data
            ∧ ∀ t : Fin 8, c.slots[t.val].phase = (if q.record.mask.getLsbD t.val then .ready else .vacant)
              ∧ (q.record.mask.getLsbD t.val = true → c.slots[t.val].pc = q.record.entries[t.val])
              ∧ c.slots[t.val].tvec = q.record.tvec ∧ c.slots[t.val].seed = q.record.seed
              ∧ c.slots[t.val].wireto = q.record.wireto ∧ c.slots[t.val].g = q.record.segs ∧ c.slots[t.val].rrb = 0)
          ∧ (∃ lead, ∀ c ∈ cores, c.tick0 = s.boundaries (p.map (·.1)) lead c.die)
          ∧ (z.out.head?).map (·.payload) = some [BitVec.ofNat 64 (s.nextCtx % 2 ^ 32)]))
  ∧ (∀ (s : State) (dies : List (Fin 10)) (lead : Nat), s.together dies lead = true → ∀ d ∈ dies, ∀ e ∈ dies,
      let at' (x : Fin 10) : Nat := (s.die x).edge
        + (s.boundaries dies lead x - (s.die x).tick - 1) * (if (s.die x).slowClock = true then 2000000 else 1000000)
      s.boundaries dies lead d % 8 = 0 ∧ (s.die d).tick + lead ≤ s.boundaries dies lead d + 4 ∧ at' d ≤ at' e + 2000000)
  ∧ (∀ (s : State) (d : Fin 10) (m n x y : Nat), s.freeRect d m n (fun _ => false) = some (x, y) →
      (s.die d).outOfService = false ∧ x + m ≤ dieSpan d.val ∧ y + n ≤ dieSpan d.val
      ∧ (∀ r ∈ (s.die d).pendingRemoval, r.toNat / 2 ^ 28 ≠ 2)
      ∧ ∀ i j, i < m → j < n → (x + i, y + j) ∉ (s.die d).removedCores
        ∧ (∀ r ∈ (s.die d).pendingRemoval, r.toNat / 2 ^ 28 = 1 → (r.toNat / 2 ^ 16 % 16, r.toNat / 2 ^ 20 % 16) ≠ (x + i, y + j))
        ∧ ∀ c ∈ s.cores, c.key.ctx ≠ 0 → c.die = d → c.holdsPlace = true → (c.x.val, c.y.val) ≠ (x + i, y + j))
  ∧ (∀ (s : State) (sl : Fin 8),
      ((s.slice sl).stopped = true → exec (.creditExpiry sl) s = .next s)
      ∧ ((s.slice sl).stopped = false → exec (.creditExpiry sl) s = .next (s.modSlice sl fun x =>
          { x with credits := x.credits.filter fun c => (s.die 8).dtick < c.2 + 3600000000 })))
  ∧ (∀ (s : State) (k : CoreKey) (c : Core) (b : Nat), s.findCore k = some c → c.res = .running → c.stopAt = some b →
      let team := s.cores.filter fun x => x.key.ctx ≠ 0 && x.key.ctx == k.ctx
      (c.vx < b + 4 → exec (.freezeBoundary k) s = .next s)
      ∧ (b + 4 ≤ c.vx → (∃ x ∈ team, x.res ≠ .running) ∨ (∀ x ∈ team, s.runsOn x = false) →
        ∃ z c', exec (.freezeBoundary k) s = .next z ∧ z.findCore k = some c'
          ∧ c' = { c with res := .frozen, frozenAt := (s.die c.die).tick + b - c.vx, stopAt := none, overwritten := [],
                          slots := c.slots.map Thread.endWrites })
      ∧ (b + 4 ≤ c.vx → (∀ x ∈ team, x.res = .running) → (∃ x ∈ team, s.runsOn x = true) →
        ∃ z b', exec (.freezeBoundary k) s = .next z ∧ b' % 8 = 0 ∧ ∀ x ∈ team, x.vx + 4096 ≤ b'
          ∧ ∃ c', z.findCore x.key = some c' ∧ c'.stopAt = some b' ∧ c'.res = .running))
  ∧ (∀ (s : State) (n : Nat) (x : Context), s.findCtx n = some x →
      (n ≠ 0 → x.state = .freezing → x.record.elastic = false ∨ x.whole = true → x.doomed = false →
        (∀ c ∈ s.cores, c.key.ctx = n → c.res ≠ .running
          ∧ ∀ r ∈ c.fifo, r.state = .held ∨ (r.id ∈ s.captured c ∧ r.admitted = [] ∧ r.unit = 0 ∧ r.turn = 0)) →
        let placed : Prop := ∀ c ∈ s.cores, c.key.ctx = n → c.holdsPlace = true
        ∃ z x', exec (.quiesce n) s = .next z ∧ z.findCtx n = some x'
          ∧ (x.victim ≠ [] → x'.state = .quiesced)
          ∧ (x.victim = [] → x.thermal = true ∨ s.sliceHeld x = true → x'.state = .frozen)
          ∧ (x.victim = [] → x.thermal = false → s.sliceHeld x = false → (placed → x'.state = .placed)
            ∧ (¬placed → x'.state = .frozen ∧ ∃ q ∈ (z.slice (Fin.ofNat 8 x.record.slice)).queue, q.team = some n))
          ∧ ∀ l c, s.findCore ⟨n, l⟩ = some c → ∃ c', z.findCore ⟨n, l⟩ = some c' ∧ c'.fifo.length = c.fifo.length
            ∧ ∀ r ∈ c'.fifo, r.state = .held ∨ r.image.isSome = true)
      ∧ (∀ l c, x.record.elastic = true → x.state = .running → l ∈ x.victim → s.findCore ⟨n, l⟩ = some c → c.res = .running →
        c.stopAt = none → ∃ z c', exec (.elasticEviction ⟨n, l⟩) s = .next z ∧ z.findCore ⟨n, l⟩ = some c'
          ∧ c' = { c with stopAt := some ((c.vx / 8 + 1) * 8) })
      ∧ (∀ l c, x.victim = [l] → x.state = .quiesced → s.findCore ⟨n, l⟩ = some c → c.res = .frozen → (s.die c.die).tick % 8 = 4 →
        (s.slice (Fin.ofNat 8 x.record.slice)).stop = none → (∀ y ∈ s.cores, y.key.ctx = n → ∀ r ∈ y.fifo, r.turn = 0 ∧ r.unit = 0) →
        ∃ z c' x', exec (.streamOut ⟨n, l⟩) s = .next z ∧ z.findCore ⟨n, l⟩ = some c' ∧ z.findCtx n = some x'
          ∧ c'.res = .away c.die ((s.die c.die).tick - 4) ((s.die c.die).dhist.getD 4 (s.die c.die).dtick) false
          ∧ x'.victim = [] ∧ x'.state = .frozen ∧ c'.sp = c.sp ∧ c'.c = c.c ∧ c'.mailbox = c.mailbox
          ∧ ∀ t : Fin 8, c'.slots[t.val].pc = c.slots[t.val].pc ∧ c'.slots[t.val].p = c.slots[t.val].p
            ∧ c'.slots[t.val].k = c.slots[t.val].k ∧ c'.slots[t.val].g = c.slots[t.val].g ∧ c'.slots[t.val].acct = c.slots[t.val].acct
            ∧ ∀ i : Fin 32, c'.slots[t.val].s[i.val]
              = if c.slots[t.val].phase ≠ .vacant ∧ c.slots[t.val].sdead.getLsbD i.val = true then 0 else c.slots[t.val].s[i.val])
      ∧ (n ≠ 0 → x.state = .placed → s.sliceHeld x = false → x.thermal = false →
        (∀ c ∈ s.cores, c.key.ctx = n → c.res = .frozen) →
        let dies := ((s.cores.filter fun c => c.key.ctx = n).map (·.die)).eraseDups
        ∃ z, exec (.resume n) s = .next z ∧ (z = { s with free := s.free + 2 } ∨ ∃ x', z.findCtx n = some x' ∧ x'.state = .resuming
          ∧ s.together dies startLead = true
          ∧ ∃ wait < 64, ∀ l c, s.findCore ⟨n, l⟩ = some c → ∃ c' b, z.findCore ⟨n, l⟩ = some c'
            ∧ b = s.boundaries dies (8 * (wait + 2)) c.die ∧ c' = (let c1 : Core := { c with resumeAt := some b }
              if x.record.elastic = true ∧ x.whole = false then c1 else c1.shifted x.record.elastic)
            ∧ b % 8 = 0 ∧ (s.die c.die).tick < b))
      ∧ (n ≠ 0 → x.state = .resuming → s.sliceHeld x = false → x.thermal = false →
        (∀ c ∈ s.cores, c.key.ctx = n → c.res = .frozen ∧ ∃ r, c.resumeAt = some r ∧ r + 4 ≤ (s.die c.die).tick) →
        ∃ z x', exec (.resume n) s = .next z ∧ z.findCtx n = some x' ∧ x'.state = .running
          ∧ ∀ c ∈ z.cores, c.key.ctx = n → c.res = .running)
      ∧ (∀ l c a u v f, x.record.elastic = true → x.state = .running → s.findCore ⟨n, l⟩ = some c → c.res = .away a u v f →
        c.resumeAt.isSome = true → (s.die c.die).tick % 8 = 4 →
        ∃ z c' r, exec (.coreReturn ⟨n, l⟩) s = .next z ∧ z.findCore ⟨n, l⟩ = some c' ∧ c'.res = .frozen ∧ c'.resumeAt = some r
          ∧ r % 8 = 0 ∧ (s.die c.die).tick + 4 ≤ r
          ∧ (∀ t : Fin 8, c'.slots[t.val].acct[13] = c.slots[t.val].acct[13] + BitVec.ofNat 48
              (if a = c.die ∧ f = false then ((s.die c.die).tick - 4 - u) / 8
                else ((s.die c.die).dhist.getD 4 (s.die c.die).dtick - v) / 8))))

/-- Starts, power and faults: a start keeps the minimum image version, the stored parameters and the removals whose list its tag proves and
that no restore names, and leaves no context, word or listed byte of memory, and each die's TICK at 0, and a failed one leaves no context; a limit holds the placer and sends EVENT 8,
the critical one freezes every team (an elastic one as soon as boundaries of its dies lie together: log 29), and the end of the condition lets the frozen ones resume; an error event is counted, and the
event that brings the count up to its threshold makes the fault lasting and sends EVENT 10; a removal acts once its core is free
(R457, R459, R460, R464 to R468). -/
def Obligations.PackageEvents : Prop :=
  (∀ (s : State) (o : StartOutcome) (warm : Bool),
      let i : Instr := if warm = true then .warmStart o else .coldStart o
      ∃ z, exec i s = .next z ∧ z.contexts = [] ∧ z.mem = [] ∧ z.core = Core.reset ∧ z.others = [] ∧ z.flights = []
        ∧ z.firm.minVersion = s.firm.minVersion ∧ z.firm.storedParams = s.firm.storedParams
        ∧ (s.firm.removals = [] ∨ s.firm.removalTag = removalsTag s.firm.removals →
          z.firm.removals = s.firm.removals.filter (fun r => !s.firm.restores.contains r))
        ∧ (s.firm.removals ≠ [] → s.firm.removalTag ≠ removalsTag s.firm.removals → z.firm.removals = [])
        ∧ z.firm.removalTag = removalsTag z.firm.removals
        ∧ (∀ d : Fin 10, (z.die d).tick = 0 ∧ (z.die d).alock = false ∧ (z.die d).dtick = (s.die d).dtick)
        ∧ (o.failed = some 1 → z.firm.service = .failed 1) ∧ (o.failed = some 2 → z.firm.service = .failed 2)
        ∧ (o.failed ≠ some 1 → o.failed ≠ some 2 → z.firm.service = .boot ∧ z.firm.step = 1
          ∧ z.firm.starting = some (warm, o) ∧ z.out = s.out))
  ∧ (∀ (s : State) (n : Nat), (s.failStart n).contexts = [] ∧ (s.failStart n).firm.service = .failed n)
  ∧ (∀ s : State, exec .thermalLimit s = .next
      (({ s with firm := { s.firm with thermalHold := true } } : State).sendEvent 8 0 0 []))
  ∧ (∀ s : State, ∃ z, exec .thermalCritical s = .next z ∧ z.firm.thermalHold = true ∧ z.firm.critical = true
      ∧ (∀ n x, s.findCtx n = some x → ∃ x', z.findCtx n = some x' ∧ x'.thermal = true
        ∧ (x.state = .running → x'.state = .freezing ∧ (n ≠ 0 → x.record.elastic = false ∨ s.together (s.runDies n) stopLead = true → ∀ l c, s.findCore ⟨n, l⟩ = some c → c.res = .running →
          c.tick0 ≤ (s.die c.die).tick →
          ∃ c' b, z.findCore ⟨n, l⟩ = some c' ∧ c'.stopAt = some b ∧ b % 8 = 0 ∧ c.vx + 4096 ≤ b))))
  ∧ (∀ s : State, ∃ z, exec .thermalClear s = .next z ∧ z.firm.thermalHold = false ∧ z.firm.critical = false
      ∧ ∀ n x, s.findCtx n = some x → ∃ x', z.findCtx n = some x' ∧ x'.thermal = false
        ∧ (x.thermal = true → x.state = .frozen → s.sliceHeld x = false →
          (∀ c ∈ s.cores, c.key.ctx = n → c.holdsPlace = true) → x'.state = .placed))
  ∧ (∀ (s : State) (rid : BitVec 32),
      let old : List Nat := match s.firm.events.find? fun e => e.1 == rid with
        | some e => e.2
        | none => []
      let t := s.firm.thresholds.toList.getD (rid.toNat / 2 ^ 28 - 1) 0
      let l := ((s.die 8).dtick :: old).take t
      let count := (l.filter fun e => (s.die 8).dtick < e + 311040000000000).length
      (ridOk rid = false → exec (.errorEvent rid) s = .next s)
      ∧ (∀ g, covered populated 16 (g * 64) (g * 64 + 64) = true → g ∈ (s.spoil rid (.memory g)).memPoison)
      ∧ (ridOk rid = true → ∃ z, exec (.errorEvent rid) s = .next z ∧ z.firm.events.find? (fun e => e.1 == rid) = some (rid, l)
        ∧ (count < t ∨ rid ∈ s.firm.lasting → z.firm.lasting = s.firm.lasting ∧ z.out = s.out)
        ∧ (t ≤ count → rid ∉ s.firm.lasting → z.firm.lasting = rid :: s.firm.lasting ∧ z.firm.removals = rid :: s.firm.removals
          ∧ z.out.head?.map (·.payload) = some [BitVec.ofNat 64 (10 * 2 ^ 56 + (if s.dieLeaves rid then 2 else 1) * 2 ^ 32
              + rid.toNat)])))
  ∧ (∀ (s : State) (rid : BitVec 32) (d : Fin 10), rid.toNat / 2 ^ 28 = 1 → rid.toNat / 2 ^ 24 % 16 = d.val →
      let cell := (rid.toNat / 2 ^ 16 % 16, rid.toNat / 2 ^ 20 % 16)
      rid ∈ (s.die d).pendingRemoval → cell ∉ (s.die d).removedCores → (s.die d).removedCores.length < 4 →
      ((∀ c ∈ s.cores, c.key.ctx ≠ 0 → c.die = d → c.holdsPlace = true → (c.x.val, c.y.val) ≠ cell) →
        exec (.resourceRemoval rid) s = .next (s.modDie d fun x =>
          { x with removedCores := cell :: x.removedCores, pendingRemoval := x.pendingRemoval.filter fun r => r ≠ rid }))
      ∧ ((∃ c ∈ s.cores, c.key.ctx ≠ 0 ∧ c.die = d ∧ c.holdsPlace = true ∧ (c.x.val, c.y.val) = cell) →
        exec (.resourceRemoval rid) s = .next s))

/-! ## Frames -/

/-- Every frame step leaves a frame of another kind alone, drops what R410 drops, with EVENT 7, and answers REFUSED to a kind that the
package does not serve as it stands; an answer is a frame on the same lane with the same SEQ. The frames of launches, the memory window,
attestation, handles, contexts, trace sessions, channels and flights act as Table 23-2 says (R161, R166, R344, R354, R357, R358,
R410 to R416, R420, R425, R428, R457, R462). Operand i of a CTRL frame is payload word i: the model's choice (log 26). -/
def Obligations.Frames : Prop :=
  (∀ (s : State) (f : Frame), ∀ p ∈ ([(.launch f, .launch), (.memrd f, .memrd), (.memwr f, .memwr), (.attest f, .attest), (.bind f, .bind),
      (.unbind f, .unbind), (.destroy f, .destroy), (.reset f, .reset), (.topen f, .topen), (.tclose f, .tclose), (.trdptr f, .trdptr),
      (.hostresp f, .hostresp), (.cancel f, .cancel), (.flightrd f, .flightrd), (.slicecfg f, .slicecfg), (.dirty f, .dirty),
      (.dsnap f, .dsnap), (.slicestop f, .slicestop), (.sliceload f, .sliceload), (.slicerun f, .slicerun),
      (.sliceclear f, .sliceclear), (.digest f, .digest), (.healthcfg f, .healthcfg), (.healthrd f, .healthrd),
      (.heartbeat f, .heartbeat), (.restore f, .restore), (.image f, .image)] : List (Instr × FrameKind)),
    (f.kind ≠ some p.2 → exec p.1 s = .next s)
    ∧ (f.kind = some p.2 → f.accepted = false → exec p.1 s = .next
      (({ s with firm := { s.firm with dropped := s.firm.dropped + 1 } } : State).sendEvent 7 0 0
        [BitVec.ofNat 64 f.lane.val, BitVec.ofNat 64 f.seq]))
    ∧ (f.kind = some p.2 → f.accepted = true → s.firm.serves p.2 = false →
      exec p.1 s = .next (s.respond f 1 [BitVec.ofNat 64 (if p.2 = .launch then 8 else 0)])))
  ∧ (∀ (s : State) (f : Frame) (st : Nat) (w : List Word), st < 256 → w.length < 1024 → f.asid < 2 ^ 16 →
      ∃ a, (s.respond f st w).out = a :: s.out ∧ a.lane = f.lane ∧ a.seq = f.seq ∧ a.type = f.type ∧ a.resp = true
        ∧ a.slice = f.slice ∧ a.status = st ∧ a.payload = w)
  ∧ (∀ (s : State) (code n mid : Nat) (w : List Word) (x : Context), 1 ≤ code → code ≤ 6 → s.findCtx n = some x → x.record.slice < 8 →
      w.length < 1023 → ∃ a, (s.sendEvent code n mid w).out = a :: s.out ∧ a.lane = 0 ∧ a.type = 3 ∧ a.slice = x.record.slice
        ∧ a.payload.tail = w)
  ∧ (∀ n : Fin 8, let t := 0x17FFF800000 + 0x100000 * n.val
      readOnlyWord (t + 0xE0000) = true ∧ readOnlyWord (t + 0xE0018) = true ∧ readOnlyWord (t + 0xE0008) = false
      ∧ ∀ i : Fin 8192, (∀ j : Fin 3, readOnlyWord (t + 0xA0000 + 32 * i.val + 8 * j.val) = true)
        ∧ readOnlyWord (t + 0xA0000 + 32 * i.val + 24) = false)
  ∧ (∀ (s : State) (f : Frame), s.firm.service = .full → f.accepted = true →
      let no (i : Instr) (k : FrameKind) (why : Nat) : Prop := f.kind = some k → exec i s = .next (s.respond f 1 [BitVec.ofNat 64 why])
      let yes (i : Instr) (k : FrameKind) (t : State) (p : List Word) : Prop := f.kind = some k → exec i s = .next (t.respond f 0 p)
      let ctx (n : Nat) (x : Context) : Prop :=
        s.contexts.find? (fun c => c.num == (f.word 1).toNat && c.record.slice == f.slice) = some x ∧ s.findCtx n = some x ∧ x.num = n
      (∀ r, s.checkRecord f.slice f.payload none = .ok r → f.kind = some .launch →
        let matched := (s.slice (Fin.ofNat 8 r.slice)).credits.filter fun c => c.1 = r.ltoken
        exec (.launch f) s = .next (({ s with arrivals := s.arrivals + 1 } : State).modSlice (Fin.ofNat 8 r.slice) fun x =>
          { x with
            queue := x.queue ++ [⟨r, .frame f.lane f.seq, s.arrivals, (s.die 8).dtick, r.depCnt - matched.length, none⟩],
            credits := x.credits.filter fun c => !decide (c.1 = r.ltoken) }))
      ∧ (∀ e, s.checkRecord f.slice f.payload none = .error e → no (.launch f) .launch e)
      ∧ (f.asid = 0 → f.addr % 8 = 0 → f.addr % 2 ^ 16 + 8 * f.len8 ≤ 2 ^ 16 → s.owns f.sliceNo f.addr (8 * f.len8) = true →
        (poisonIn s.memPoison f.addr (8 * f.len8) = [] → f.kind = some .memrd →
          ∃ z : State, exec (.memrd f) s = .next
              (z.respond f 0 ((List.range f.len8).map fun i => BitVec.ofNat 64 (memRead s.mem (f.addr + 8 * i) 8)))
            ∧ { z with core := s.core, others := s.others } = s ∧ ∀ k c, s.findCore k = some c →
              ∃ l : List Request, z.findCore k = some { c with fifo := l }
                ∧ (l.map fun r => { r with moved := [] }) = c.fifo.map fun r => { r with moved := [] })
        ∧ (∀ w, f.payload = [w] → (s.tcb f.sliceNo 0xE0000).testBit 63 = false → readOnlyWord f.addr = false →
          s.spoiltBy 0 [(f.addr, 8)] 0 = [] → f.kind = some .memwr →
          ∃ z : State, exec (.memwr f) s = .next (z.respond f 0 []) ∧ z.mem = memWrite s.mem f.addr 8 w.toNat)
        ∧ (∀ w, f.payload = [w] → readOnlyWord f.addr = true → yes (.memwr f) .memwr s []))
      ∧ (f.asid = 0 → f.addr % 8 = 0 → f.addr % 2 ^ 16 + 8 * f.len8 ≤ 2 ^ 16 → s.owns f.sliceNo f.addr (8 * f.len8) = false →
        (f.kind = some .memrd → exec (.memrd f) s = .next (s.respond f 2 []))
        ∧ (f.kind = some .memwr → exec (.memwr f) s = .next (s.respond f 2 [])))
      ∧ yes (.attest f) .attest s (payloadOf (s.report f ++ identitySign (s.report f)))
      ∧ (0 < (f.word 1).toNat → (f.word 1).toNat < 2 ^ 24 → 0 < (Config.rankList s.mem (f.word 3)).length →
        (Config.rankList s.mem (f.word 3)).length < 2 ^ 24 →
        yes (.bind f) .bind { s with
          handles := ⟨BitVec.ofNat 24 (f.word 1).toNat, f.word 2, Config.rankList s.mem (f.word 3)⟩ :: s.handles.filter fun x =>
            x.handle ≠ BitVec.ofNat 24 (f.word 1).toNat } [])
      ∧ (s.handles.any (fun x => x.handle.toNat == (f.word 1).toNat) = true →
        yes (.unbind f) .unbind { s with handles := s.handles.filter fun x => x.handle.toNat ≠ (f.word 1).toNat } [])
      ∧ (∀ n x, ctx n x → x.state ≠ .freezing → f.kind = some .destroy →
        ∃ z : State, exec (.destroy f) s = .next (z.respond f 0 []) ∧ z.contexts = s.contexts.filter (fun c => c.num ≠ n)
          ∧ ((∃ y ∈ s.contexts, y.num ≠ n ∧ y.record.jobKey = x.record.jobKey) → z.handles = s.handles)
          ∧ ((∀ y ∈ s.contexts, y.num ≠ n → y.record.jobKey ≠ x.record.jobKey) →
            z.handles = s.handles.filter fun h => h.jobKey != x.record.jobKey)
          ∧ (∀ w ∈ z.flights, w.ctx ≠ n) ∧ (n ≠ 0 → ∀ c ∈ z.cores, c.key.ctx ≠ n))
      ∧ (∀ n x, ctx n x → x.state = .freezing → f.kind = some .destroy →
        exec (.destroy f) s = .next ((s.modCtx n fun c => { c with doomed := true }).respond f 0 []))
      ∧ (∀ n x, ctx n x → x.state ≠ .freezing → f.kind = some .reset →
        ∃ z : State, exec (.reset f) s = .next (z.respond f 0 []) ∧ z.contexts = s.contexts.filter (fun c => c.num ≠ n)
          ∧ ∀ y ∈ z.sessions, y.ctx ≠ n)
      ∧ (∀ n x, ctx n x → ∀ c id, 1 ≤ (f.word 3).toNat → (f.word 3).toNat < 8 → s.findCore ⟨n, (f.word 2).toNat⟩ = some c →
        c.openPush (Fin.ofNat 8 (f.word 3).toNat) = some id →
        yes (.hostresp f) .hostresp (s.modCore ⟨n, (f.word 2).toNat⟩ fun c => { c with
          asked := c.asked.map fun x =>
            if x.1 = id then (x.1, x.2.1, some (BitVec.ofNat 64 (2 ^ 63 + 2 * 2 ^ 60 + (f.word 4).toNat % 2 ^ 60))) else x }) [])
      ∧ (∀ x d, f.word 0 = BitVec.ofNat 64 (5 * 2 ^ 56 + x.num) → x.num < 2 ^ 32 → x ∈ s.contexts → x.record.slice = f.slice →
        (f.word 1).toNat = d → d < 8 → (s.slice f.sliceNo).dieMask.getLsbD d = true →
        10 ≤ (f.word 2).toNat → (f.word 2).toNat ≤ 30 → (f.word 3).toNat % 2 ^ 16 = 0 → (f.word 4).toNat % 2 ^ 16 = 0 →
        0 < (f.word 4).toNat → d * 2 ^ 36 ≤ (f.word 3).toNat → (f.word 3).toNat + (f.word 4).toNat ≤ d * 2 ^ 36 + 48 * 2 ^ 30 →
        (s.sessions.filter fun y => y.die.val == d).length < 8 →
        yes (.topen f) .topen { s with
          fresh := s.fresh + 1
          sessions := s.sessions ++ [⟨s.fresh, f.slice, x.num, (s.recordOf x.num).asid, Fin.ofNat 10 d, (f.word 2).toNat, (f.word 3).toNat, (f.word 4).toNat,
            0, 0, 0, 0, 0, true, List.replicate 256 absentEntry⟩] } [BitVec.ofNat 64 s.fresh])
      ∧ (∀ y, s.sessions = [y] → y.slice = f.slice → (f.word 0).toNat % 2 ^ 32 = y.ctx → (f.word 1).toNat = y.die.val →
        (f.word 2).toNat = y.k → (f.word 3).toNat = y.base → (f.word 4).toNat = y.size → f.kind = some .tclose →
        ∃ z : State, exec (.tclose f) s = .next (z.respond f 0 []) ∧ z.sessions = [])
      ∧ (∀ y, s.sessions.find? (fun y => y.id == (f.word 1).toNat && y.slice == f.slice) = some y → y.size ≠ 0 →
        y.rd % y.size ≤ (f.word 2).toNat → (f.word 2).toNat < y.size → y.rd - y.rd % y.size + (f.word 2).toNat ≤ y.wr →
        yes (.trdptr f) .trdptr (s.setSession { y with rd := y.rd - y.rd % y.size + (f.word 2).toNat }) [])
      ∧ (∀ q, (s.slice f.sliceNo).queue.filter (fun q => q.team.isNone && q.record.ltoken == (f.word 1).toNat) = [q] →
        let left := s.modSlice f.sliceNo fun x =>
          { x with queue := x.queue.filter fun q => !(q.team.isNone && q.record.ltoken == (f.word 1).toNat) }
        (∀ l n, q.origin = .frame l n → yes (.cancel f) .cancel left [])
        ∧ (∀ k id, q.origin = .child k id → f.kind = some .cancel → ∃ r < 256, exec (.cancel f) s = .next
            ((({ left with free := s.free + 1 } : State).modCore k fun c => { c with asked := c.asked.map fun x =>
              if x.1 = id then (x.1, x.2.1, some (BitVec.ofNat 64 (2 ^ 63 + 2 ^ 60 + r))) else x }).respond f 0 [])))
      ∧ (∀ n w, s.firm.flights.find? (fun x => x.1 == (f.word 1).toNat) = some (n, w) →
        yes (.flightrd f) .flightrd s [w.zeroExtend 64]))

/-- The frames of slices, health and the image: SLICECFG gives an empty slice its shares; DIRTY and DSNAP set and clear the control
words, and each port flips by itself before a DSNAP is answered; SLICESTOP, SLICELOAD, SLICERUN and SLICECLEAR stop, bring in, resume and clear a slice; DIGEST hashes a range; HEALTHCFG,
HEALTHRD, HEARTBEAT and RESTORE read and set health; IMAGE takes a chunk (R444 to R455, R457, R460, R466 to R470, Table 25-5). -/
def Obligations.SliceFrames : Prop :=
  (∀ (s : State) (f : Frame), s.firm.service = .full → f.accepted = true →
      let sl := f.sliceNo
      let x := s.slice sl
      let no (i : Instr) (k : FrameKind) (why : Nat) : Prop := f.kind = some k → exec i s = .next (s.respond f 1 [BitVec.ofNat 64 why])
      let yes (i : Instr) (k : FrameKind) (t : State) (p : List Word) : Prop := f.kind = some k → exec i s = .next (t.respond f 0 p)
      let fld (n hi lo : Nat) : Nat := (f.word n).toNat / 2 ^ lo % 2 ^ (hi + 1 - lo)
      let want : Slice := { x with
        dieMask := BitVec.ofNat 8 (fld 1 63 56), asidBase := fld 1 47 32, asidCnt := fld 1 31 16
        cap0b := fld 2 63 55, cap0n := fld 2 54 45, cap1b := fld 2 44 36, cap1n := fld 2 35 26 }
      (s.sliceEmpty sl = true → fld 0 55 0 = 0 → fld 1 55 48 = 0 → fld 1 15 0 = 0 → fld 2 25 0 = 0 →
        want.cap0b + want.cap0n ≤ 512 → want.cap1b + want.cap1n ≤ 512 → want.asidBase ≠ 0 → want.asidBase + want.asidCnt ≤ 65536 →
        (∀ n : Fin 8, n ≠ sl → (s.slice n).dieMask ≠ 0 → want.overlaps (s.slice n) = false) →
        f.kind = some .slicecfg →
        ∃ z : State, exec (.slicecfg f) s = .next ((z.modSlice sl fun _ => want).respond f 0 []) ∧ z = { s with dies := z.dies }
          ∧ ∀ d : Fin 10, z.die d = { s.die d with
            cache := (s.die d).cache.filter fun e => !((decide (x.asidBase ≤ e.asid) && decide (e.asid < x.asidBase + x.asidCnt))
              || (decide (want.asidBase ≤ e.asid) && decide (e.asid < want.asidBase + want.asidCnt))) })
      ∧ (s.sliceEmpty sl = false → no (.slicecfg f) .slicecfg 0)
      ∧ ((f.word 1).getLsbD 0 = true → s.bitmapOk sl 0 = true → s.bitmapOk sl 1 = true → x.snap = none →
        yes (.dirty f) .dirty (((s.modSlice sl fun y => { y with ports := 0 }).setTcb sl 0xE0000 (2 ^ 63)).setTcb sl 0xE0018 0) [])
      ∧ ((f.word 1).getLsbD 0 = false → x.snap = none → yes (.dirty f) .dirty (s.setTcb sl 0xE0000 (s.tcb sl 0xE0000 % 2)) [])
      ∧ ((s.tcb sl 0xE0000).testBit 63 = true → x.snap = none → f.kind = some .dsnap →
        exec (.dsnap f) s = .next ((s.setTcb sl 0xE0000 (2 ^ 63 + (s.tcb sl 0xE0000 + 1) % 2)).modSlice sl fun y =>
          { y with snap := some (f.lane, f.seq, List.finRange 10) }))
      ∧ (∀ lane seq p ports, x.snap = some (lane, seq, p :: ports) → ∃ d ∈ p :: ports,
        s.flipPort sl = ({ s with free := s.free + 1 } : State).modSlice sl fun y =>
          { y with ports := y.ports ^^^ BitVec.twoPow 10 d.val, snap := some (lane, seq, (p :: ports).erase d) })
      ∧ (∀ lane seq, x.snap = some (lane, seq, []) → ∃ z : State, let n := (s.tcb sl 0xE0018 + 1) % 2 ^ 64
        s.flipPort sl = z.sendFrame lane 5 true sl.val 0 0 (some seq) 0 [BitVec.ofNat 64 n] ∧ (z.slice sl).snap = none
          ∧ (∀ d : Fin 10, (z.slice sl).ports.getLsbD d.val = (s.tcb sl 0xE0000).testBit 0)
          ∧ z.mem = memWrite s.mem (0x17FFF800000 + 0x100000 * sl.val + 0xE0018) 8 n)
      ∧ ((s.tcb sl 0xE0000).testBit 63 = false → no (.dsnap f) .dsnap 0)
      ∧ (x.stopped = false → x.dieMask ≠ 0 → s.stopReason sl (f.word 1).toNat (f.word 2).toNat = none → f.kind = some .slicestop →
        ∃ z : State, exec (.slicestop f) s = .next z ∧ (z.slice sl).stopped = true ∧ (z.slice sl).stoppedAt = (s.die 8).dtick
          ∧ (z.slice sl).stop = some (f.lane, f.seq, (f.word 1).toNat, (f.word 2).toNat) ∧ z.out = s.out
          ∧ ∀ n c, s.findCtx n = some c → c.record.slice = sl.val → c.state = .running →
            ∃ c', z.findCtx n = some c' ∧ c'.state = .freezing)
      ∧ (∀ r, x.stopped = false → x.dieMask ≠ 0 → s.stopReason sl (f.word 1).toNat (f.word 2).toNat = some r → no (.slicestop f) .slicestop r)
      ∧ (x.stopped = true → no (.slicestop f) .slicestop 0)
      ∧ (∀ h body img, s.imageAt sl (f.word 1).toNat = .ok (h, body) → s.contentOf body = some img → img.contexts = [] → img.cores = [] →
        img.queue = [] → img.handles = [] → s.sliceEmpty sl = true → img.dies = ((List.range 8).filter fun d => x.dieMask.getLsbD d).length →
        s.firm.plock = true → natBits (ofLeBytes (h.drop 16 |>.take 8)) 63 60 = img.dies % 16 → f.kind = some .sliceload →
        ∃ z : State, exec (.sliceload f) s = .next (z.respond f 0 []) ∧ (z.slice sl).stopped = true ∧ (z.slice sl).queue = []
          ∧ (z.slice sl).credits = img.credits ∧ z.contexts = s.contexts)
      ∧ (∀ h body img, s.imageAt sl (f.word 1).toNat = .ok (h, body) → s.contentOf body = some img →
        let dies := ((List.range 8).filter fun d => x.dieMask.getLsbD d).length
        s.sliceEmpty sl = false ∨ img.dies ≠ dies ∨ natBits (ofLeBytes (h.drop 16 |>.take 8)) 63 60 ≠ dies % 16 →
        no (.sliceload f) .sliceload 3)
      ∧ (∀ r, s.imageAt sl (f.word 1).toNat = .error r → no (.sliceload f) .sliceload r)
      ∧ (x.stopped = true → x.stop = none → f.kind = some .slicerun →
        ∃ z : State, exec (.slicerun f) s = .next (z.respond f 0 []) ∧ (z.slice sl).stopped = false
          ∧ ∀ q ∈ x.queue, { q with since := q.since + ((s.die 8).dtick - Nat.max q.since x.stoppedAt) } ∈ (z.slice sl).queue)
      ∧ (x.stopped = false → no (.slicerun f) .slicerun 0 ∧ no (.sliceclear f) .sliceclear 0)
      ∧ (x.stopped = true → x.stop = none → f.kind = some .sliceclear →
        ∃ z : State, exec (.sliceclear f) s = .next (z.respond f 0 []) ∧ (z.slice sl).stopped = false ∧ (z.slice sl).queue = []
          ∧ (z.slice sl).credits = [] ∧ ∀ c ∈ z.contexts, c.record.slice ≠ sl.val)
      ∧ (let a := (f.word 1).toNat
        let n := (f.word 2).toNat
        a % 2 ^ 16 = 0 → n % 2 ^ 16 = 0 → s.owns sl a n = true → poisonIn s.memPoison a n = [] →
        f.kind = some .digest →
        ∃ z : State, exec (.digest f) s = .next (z.respond f 0 (payloadOf (shake256 (memBytes s.mem a n) 32)))
          ∧ { z with core := s.core, others := s.others } = s ∧ ∀ k c, s.findCore k = some c →
            ∃ l : List Request, z.findCore k = some { c with fifo := l }
              ∧ (l.map fun r => { r with moved := [] }) = c.fifo.map fun r => { r with moved := [] })
      ∧ (∀ k : Fin 3, fld 1 35 32 = k.val + 1 → fld 1 15 0 ≠ 0 → yes (.healthcfg f) .healthcfg
        { s with firm := { s.firm with thresholds := s.firm.thresholds.set k.val (fld 1 15 0) } } [])
      ∧ (let r : BitVec 32 := (f.word 1).truncate 32
        (ridOk r = false → no (.healthrd f) .healthrd 0)
        ∧ (ridOk r = true → f.kind = some .healthrd → ∃ w, exec (.healthrd f) s = .next (s.respond f 0 w) ∧ w.length = 65
          ∧ w[0]?.map (fun y => y.toNat / 2 ^ 48) = some (inWindow (s.die 8).dtick (s.firm.eventsOf r) % 2 ^ 16)
          ∧ w[1]? = some (BitVec.ofNat 64 ((s.firm.eventsOf r).headD 0)))
        ∧ (r ∈ s.firm.removals → yes (.restore f) .restore { s with firm := { s.firm with restores := r :: s.firm.restores } } []))
      ∧ yes (.heartbeat f) .heartbeat s []
      ∧ no (.image f) .image 0)
  ∧ (∀ (s : State) (f : Frame) (n : Nat), f.accepted = true → f.kind = some .heartbeat → s.firm.service = .failed n →
      exec (.heartbeat f) s = .next (s.respond f 1 [BitVec.ofNat 64 n]))
  ∧ (∀ (s : State) (f : Frame), f.accepted = true → f.kind = some .image → s.firm.service = .boot → s.firm.accepted = false →
      let at' := (f.word 0).toNat % 2 ^ 56
      let bytes := f.payload.tail.flatMap fun w => leBytes 8 w.toNat
      let chunks := (at', bytes) :: s.firm.imageBytes.filter fun c => c.1 ≠ at'
      let kept (z : State) : Prop := z = { s with firm := { s.firm with imageBytes := chunks } }
      (at' % 4088 ≠ 0 → exec (.image f) s = .next (s.respond f 1 [0]))
      ∧ (∀ len, imageLen chunks = some len →
        (len ≤ at' + bytes.length ∨ ∃ bs, assemble chunks (chunks.length + 1) [] = some bs ∧ len ≤ bs.length) →
        lastChunk chunks at' bytes.length = true)
      ∧ (at' % 4088 = 0 → lastChunk chunks at' bytes.length = false →
        ∃ z : State, kept z ∧ exec (.image f) s = .next (z.respond f 0 []))
      ∧ (∀ len bs d v m, at' % 4088 = 0 → lastChunk chunks at' bytes.length = true → imageLen chunks = some len →
        assemble chunks (chunks.length + 1) [] = some bs → s.firm.checkImage bs len = some (d, v, m) →
        ∃ z : State, exec (.image f) s = .next (z.respond f 0 []) ∧ z.firm.accepted = true ∧ z.firm.step = 2 ∧ z.firm.fwDigest = d
          ∧ z.firm.version = v ∧ z.firm.minvNext = m)
      ∧ (∀ len bs, at' % 4088 = 0 → lastChunk chunks at' bytes.length = true → imageLen chunks = some len →
        assemble chunks (chunks.length + 1) [] = some bs → s.firm.checkImage bs len = none →
        ∃ z : State, exec (.image f) s = .next (z.respond f 1 [0]) ∧ z.firm.imageBytes = [] ∧ z.firm.accepted = false))

/-! ## Frames and invariants -/

/-- What every instruction of a bundle slot leaves, when it takes no trap: each register that it does not name as a destination (and,
for LOOP, the stage predicate); the special registers, but for MTC, LSET, LOOP, SEGSET and ERET; FPCTL, but for MTC, AFADD and the V and
M slots, which only set flags; the threads of the other slots, but the vacant one that a SPAWN takes; the shared registers, with the writes of them that an
MTS adds, and the watchpoints, with those that an MTC adds, but for CFIRE and TRIG, whose
write of a header they may match; the instruction store, the dies and the other cores' registers; and, for a form that stores nothing, every byte of the own scratchpad, of the
others and of physical memory (R29, R54, R59, R202, R219, R251). A store may make bytes undefined that an engine has copied from
what it overwrites (R96): those stand outside this claim (log 6). RAOP raises its class when its result comes. -/
def Obligations.RegisterFrame : Prop :=
  ∀ (i : Instr) (s t : State), (slotInfo i).slot < 5 → s.cur.trap = none → exec i s = .next t → t.cur.trap = none →
    (∀ g d a e u, i = .spawn g d a e u → s.thread.phase ≠ .vacant) →
    let far (z : State) : List (CoreKey × Vector Thread 8 × Vector Word 16) :=
      (z.others.filter fun c => c.key ≠ s.core.key).map fun c => (c.key, c.slots, c.c)
    let pads (z : State) : List (CoreKey × Memory) := (z.others.filter fun c => c.key ≠ s.core.key).map fun c => (c.key, c.sp)
    (∀ r : Ref, (∀ q ∈ writesOf i, r ≠ q.phys s.cur.pre.rrb) → (∀ l, t.cur.loopPred = some l → r ≠ .p l) →
      keeps s.thread t.thread r = true)
    ∧ (writesSpecial i = false → SameSpecial s.thread t.thread)
    ∧ (mayRaise i = false → t.thread.fpctl = s.thread.fpctl)
    ∧ ((∀ g n a, i ≠ .mtc g n a) → ∃ c : BitVec 5, t.thread.fpctl = s.thread.fpctl ||| c.zeroExtend 64)
    ∧ (∀ v : Fin 8, v ≠ s.cur.slot → (s.core.slots[v.val].phase ≠ .vacant ∨ ∀ g d a e u, i ≠ .spawn g d a e u) →
      t.core.slots[v.val] = s.core.slots[v.val])
    ∧ ((∀ g c a, i ≠ .mts g c a) → t.core.cPend = s.core.cPend)
    ∧ ((∀ g n a, i ≠ .mtc g n a) → (∀ g a b, i ≠ .cfire g a b) → (∀ g a n, i ≠ .trig g a n) →
      t.core.watchPend = s.core.watchPend ∧ t.core.watch = s.core.watch)
    ∧ SamePackage s t ∧ t.core.istore = s.core.istore ∧ t.core.c = s.core.c ∧ t.cur.pre = s.cur.pre ∧ t.cur.pc = s.cur.pc
    ∧ far t = far s
    ∧ (mayStore i = false → pads t = pads s ∧ t.mem = s.mem ∧ ∀ a, memGet t.core.sp a = memGet s.core.sp a)
    ∧ (s.copiesFrom (spaceOf s.core.key) 0 = [] → t.mem = s.mem)
    ∧ ((∀ k ∈ s.others.map (·.key), k ≠ s.core.key → s.copiesFrom (spaceOf s.core.key) (spaceOf k) = []) → pads t = pads s)

/-- What a storing instruction leaves, when it takes no trap: every byte of the own scratchpad outside the bytes of its lanes that lie
there (and those that an engine has copied from them, which the store makes undefined, R96), at the places that its segment register and offset give; for DEPDEC, outside its record and the queue's header and entry; for CFIRE
and TRIG, outside the headers of the core's timetables (R75, R87, R300, R301, R306 to R320, R323 to R325, R329, R348). -/
def Obligations.StoreFrame : Prop :=
  ∀ (g : Guard) (a b d x : SReg) (v xv : VReg) (tr : TReg) (m : MemOp) (k : KReg) (sz lw : Fin 4) (n : GroupSize) (scl hi nidx w64 : Bool)
    (op : AtomicOp) (num : Byte) (s : State), s.cur.trap = none →
    let only (i : Instr) (r : List (Nat × Nat)) : Prop :=
      ∀ t, exec i s = .next t → t.cur.trap = none →
        sameOutside s.core.sp t.core.sp (r ++ s.spoiltBy (spaceOf s.core.key) r (spaceOf s.core.key))
    only (.st g d m x sz scl) (s.ownRanges m (scalarLanes m x sz scl s))
    ∧ only (.rst g d m x sz scl) (s.ownRanges m (scalarLanes m x sz scl s))
    ∧ only (.stnb g d m x hi nidx) (s.ownRanges m (nibbleLanes m x hi nidx s))
    ∧ only (.rstnb g d m x hi nidx) (s.ownRanges m (nibbleLanes m x hi nidx s))
    ∧ only (.stv g v m x k lw n scl) (s.ownRanges m (vectorLanes m x k lw n scl s))
    ∧ only (.stvs g v m xv k lw scl) (s.ownRanges m (gatherLanes m xv k lw scl s))
    ∧ only (.stt g tr m x scl) (s.ownRanges m (tileLanes m x scl s))
    ∧ (∀ i ∈ [Instr.aadd g d m x w64, .amin g d m x w64, .amax g d m x w64, .aminn g d m x w64, .amaxn g d m x w64, .aand g d m x w64,
        .aor g d m x w64, .axor g d m x w64, .aswap g d m x w64, .afadd g d m x w64, .acas g d m x w64, .raop g op d m x w64],
      only i (s.ownRanges m (atomicLanes m w64 s)))
    ∧ (∀ i ∈ [Instr.qrsv g d m, .qpub g d m, .qtake g d m, .boinit g d m x, .boexp g d m x, .boarr g m],
      only i (s.ownRanges m (objLanes m s)))
    ∧ only (.depdec g d m) (let loc := s.placeOf' m.seg (s.offset0 m)
        let q := memRead s.core.sp loc 16 / 2 ^ 64 % 2 ^ 20
        let h := memRead s.core.sp q 16
        [(loc, 16), (q, 16), (q + 16 + 8 * (qRsv h % qCap h), 8)])
    ∧ only (.acsnap g m x) (s.ownRanges m (acsnapLanes m x s))
    ∧ only (.cfire g a b) [((s.rs a).toNat, 16)]
    ∧ only (.trig g a num) (s.core.tables.map fun t => (t.hdr, 16))

/-- What reset leaves: no context, so every slot is vacant, every register at the value of its Reset column, no result, window, word or
request anywhere; each die's TICK and DTICK at 0; SKEWB 255 with PLOCK clear; the error thresholds 3, 16 and 64; every slice without
dies; and global memory in its canonical form. And every step keeps s0, p0 and k0 of every thread of every core at the constants that
they read as (R55). The registers and the memory for which the spec gives no reset value are 0: the model's choice (log 2, log 3); that
full service has begun is log 1; what a loaded image holds for them is not taken over (log 66). -/
def Obligations.ResetState : Prop :=
  let wired (s : State) : Prop := ∀ c ∈ s.cores, ∀ t : Fin 8, c.slots[t.val].wired = true
  (∀ s t : State, wired s → step s = .next t → wired t)
  ∧ (∀ t : Thread, t.wired = true ↔ t.s[0] = 0 ∧ t.p[0] = true ∧ t.k[0] = BitVec.allOnes 64)
  ∧ let s := State.reset
  s.contexts = [] ∧ s.others = [] ∧ s.agenda = [] ∧ s.inputs = [] ∧ s.flights = [] ∧ s.windows = [] ∧ s.handles = [] ∧ s.sessions = []
  ∧ s.mem = [] ∧ s.memCanonical ∧ s.memPoison = []
  ∧ (∀ t : Fin 8, let th := s.core.slots[t.val]
    th.phase = .vacant ∧ th.wired = true ∧ th.windows = [] ∧ th.pending = [] ∧ th.deferred = [] ∧ th.trapped = false
    ∧ th.rrb = 0 ∧ th.lc = 0 ∧ th.ec = 0 ∧ th.deadm = 0 ∧ th.fpctl = 0 ∧ th.sdead = 0 ∧ th.vdead = 0 ∧ th.acct = Vector.replicate 16 0
    ∧ (∀ n : Fin 32, th.s[n.val] = 0 ∧ th.v[n.val] = 0) ∧ (∀ n : Fin 16, th.t[n.val].valid = false))
  ∧ s.core.mailbox = [] ∧ s.core.landing = [] ∧ s.core.fifo = [] ∧ s.core.c = Vector.replicate 16 0 ∧ s.core.q = Vector.replicate 8 0
  ∧ (∀ d : Fin 10, (s.die d).tick = 0 ∧ (s.die d).dtick = 0 ∧ (s.die d).removedCores = [] ∧ (s.die d).faults = [])
  ∧ (∀ n : Fin 8, (s.slice n).dieMask = 0 ∧ (s.slice n).stopped = false ∧ (s.slice n).queue = [])
  ∧ s.firm.plock = false ∧ s.firm.skewb = 255 ∧ s.firm.thresholds = #v[3, 16, 64]

/-- Global memory keeps its canonical form: whatever state a step starts from, what it answers has memory with addresses strictly rising
and no byte listed that an unlisted address reads as. The form is the model's own (log 2). -/
def Obligations.MemoryCanonical : Prop :=
  ∀ s t : State, s.memCanonical → step s = .next t → t.memCanonical
end

