-- ==== Sys2Proof/Laws/State.lean ====
section
/-!
SUPPORT. What each update of the state leaves alone: one lemma for each field and each update, true by unfolding, so that no later
proof opens a record update.
-/
namespace Sys2Proof.Machine

open Sys2Proof


/-! ### State.modThread -/

@[simp] theorem State.modThread_others (s : State) (f : Thread → Thread) : (s.modThread f).others = s.others := rfl
@[simp] theorem State.modThread_cur (s : State) (f : Thread → Thread) : (s.modThread f).cur = s.cur := rfl
@[simp] theorem State.modThread_agenda (s : State) (f : Thread → Thread) : (s.modThread f).agenda = s.agenda := rfl
@[simp] theorem State.modThread_inputs (s : State) (f : Thread → Thread) : (s.modThread f).inputs = s.inputs := rfl
@[simp] theorem State.modThread_out (s : State) (f : Thread → Thread) : (s.modThread f).out = s.out := rfl
@[simp] theorem State.modThread_fabricOut (s : State) (f : Thread → Thread) : (s.modThread f).fabricOut = s.fabricOut := rfl
@[simp] theorem State.modThread_free (s : State) (f : Thread → Thread) : (s.modThread f).free = s.free := rfl
@[simp] theorem State.modThread_fresh (s : State) (f : Thread → Thread) : (s.modThread f).fresh = s.fresh := rfl
@[simp] theorem State.modThread_nextCtx (s : State) (f : Thread → Thread) : (s.modThread f).nextCtx = s.nextCtx := rfl
@[simp] theorem State.modThread_arrivals (s : State) (f : Thread → Thread) : (s.modThread f).arrivals = s.arrivals := rfl
@[simp] theorem State.modThread_dies (s : State) (f : Thread → Thread) : (s.modThread f).dies = s.dies := rfl
@[simp] theorem State.modThread_mem (s : State) (f : Thread → Thread) : (s.modThread f).mem = s.mem := rfl
@[simp] theorem State.modThread_memPoison (s : State) (f : Thread → Thread) : (s.modThread f).memPoison = s.memPoison := rfl
@[simp] theorem State.modThread_flights (s : State) (f : Thread → Thread) : (s.modThread f).flights = s.flights := rfl
@[simp] theorem State.modThread_windows (s : State) (f : Thread → Thread) : (s.modThread f).windows = s.windows := rfl
@[simp] theorem State.modThread_messages (s : State) (f : Thread → Thread) : (s.modThread f).messages = s.messages := rfl
@[simp] theorem State.modThread_submitted (s : State) (f : Thread → Thread) : (s.modThread f).submitted = s.submitted := rfl
@[simp] theorem State.modThread_episodes (s : State) (f : Thread → Thread) : (s.modThread f).episodes = s.episodes := rfl
@[simp] theorem State.modThread_contexts (s : State) (f : Thread → Thread) : (s.modThread f).contexts = s.contexts := rfl
@[simp] theorem State.modThread_slices (s : State) (f : Thread → Thread) : (s.modThread f).slices = s.slices := rfl
@[simp] theorem State.modThread_handles (s : State) (f : Thread → Thread) : (s.modThread f).handles = s.handles := rfl
@[simp] theorem State.modThread_sessions (s : State) (f : Thread → Thread) : (s.modThread f).sessions = s.sessions := rfl
@[simp] theorem State.modThread_images (s : State) (f : Thread → Thread) : (s.modThread f).images = s.images := rfl
@[simp] theorem State.modThread_firm (s : State) (f : Thread → Thread) : (s.modThread f).firm = s.firm := rfl
@[simp] theorem State.modThread_seqOut (s : State) (f : Thread → Thread) : (s.modThread f).seqOut = s.seqOut := rfl
@[simp] theorem State.modThread_seqIn (s : State) (f : Thread → Thread) : (s.modThread f).seqIn = s.seqIn := rfl

/-! ### State.modSlot -/

@[simp] theorem State.modSlot_others (s : State) (t : Fin 8) (f : Thread → Thread) : (s.modSlot t f).others = s.others := rfl
@[simp] theorem State.modSlot_cur (s : State) (t : Fin 8) (f : Thread → Thread) : (s.modSlot t f).cur = s.cur := rfl
@[simp] theorem State.modSlot_agenda (s : State) (t : Fin 8) (f : Thread → Thread) : (s.modSlot t f).agenda = s.agenda := rfl
@[simp] theorem State.modSlot_inputs (s : State) (t : Fin 8) (f : Thread → Thread) : (s.modSlot t f).inputs = s.inputs := rfl
@[simp] theorem State.modSlot_out (s : State) (t : Fin 8) (f : Thread → Thread) : (s.modSlot t f).out = s.out := rfl
@[simp] theorem State.modSlot_fabricOut (s : State) (t : Fin 8) (f : Thread → Thread) : (s.modSlot t f).fabricOut = s.fabricOut := rfl
@[simp] theorem State.modSlot_free (s : State) (t : Fin 8) (f : Thread → Thread) : (s.modSlot t f).free = s.free := rfl
@[simp] theorem State.modSlot_fresh (s : State) (t : Fin 8) (f : Thread → Thread) : (s.modSlot t f).fresh = s.fresh := rfl
@[simp] theorem State.modSlot_nextCtx (s : State) (t : Fin 8) (f : Thread → Thread) : (s.modSlot t f).nextCtx = s.nextCtx := rfl
@[simp] theorem State.modSlot_arrivals (s : State) (t : Fin 8) (f : Thread → Thread) : (s.modSlot t f).arrivals = s.arrivals := rfl
@[simp] theorem State.modSlot_dies (s : State) (t : Fin 8) (f : Thread → Thread) : (s.modSlot t f).dies = s.dies := rfl
@[simp] theorem State.modSlot_mem (s : State) (t : Fin 8) (f : Thread → Thread) : (s.modSlot t f).mem = s.mem := rfl
@[simp] theorem State.modSlot_memPoison (s : State) (t : Fin 8) (f : Thread → Thread) : (s.modSlot t f).memPoison = s.memPoison := rfl
@[simp] theorem State.modSlot_flights (s : State) (t : Fin 8) (f : Thread → Thread) : (s.modSlot t f).flights = s.flights := rfl
@[simp] theorem State.modSlot_windows (s : State) (t : Fin 8) (f : Thread → Thread) : (s.modSlot t f).windows = s.windows := rfl
@[simp] theorem State.modSlot_messages (s : State) (t : Fin 8) (f : Thread → Thread) : (s.modSlot t f).messages = s.messages := rfl
@[simp] theorem State.modSlot_submitted (s : State) (t : Fin 8) (f : Thread → Thread) : (s.modSlot t f).submitted = s.submitted := rfl
@[simp] theorem State.modSlot_episodes (s : State) (t : Fin 8) (f : Thread → Thread) : (s.modSlot t f).episodes = s.episodes := rfl
@[simp] theorem State.modSlot_contexts (s : State) (t : Fin 8) (f : Thread → Thread) : (s.modSlot t f).contexts = s.contexts := rfl
@[simp] theorem State.modSlot_slices (s : State) (t : Fin 8) (f : Thread → Thread) : (s.modSlot t f).slices = s.slices := rfl
@[simp] theorem State.modSlot_handles (s : State) (t : Fin 8) (f : Thread → Thread) : (s.modSlot t f).handles = s.handles := rfl
@[simp] theorem State.modSlot_sessions (s : State) (t : Fin 8) (f : Thread → Thread) : (s.modSlot t f).sessions = s.sessions := rfl
@[simp] theorem State.modSlot_images (s : State) (t : Fin 8) (f : Thread → Thread) : (s.modSlot t f).images = s.images := rfl
@[simp] theorem State.modSlot_firm (s : State) (t : Fin 8) (f : Thread → Thread) : (s.modSlot t f).firm = s.firm := rfl
@[simp] theorem State.modSlot_seqOut (s : State) (t : Fin 8) (f : Thread → Thread) : (s.modSlot t f).seqOut = s.seqOut := rfl
@[simp] theorem State.modSlot_seqIn (s : State) (t : Fin 8) (f : Thread → Thread) : (s.modSlot t f).seqIn = s.seqIn := rfl

/-! ### State.modCore -/

@[simp] theorem State.modCore_cur (s : State) (k : CoreKey) (f : Core → Core) : (s.modCore k f).cur = s.cur := rfl
@[simp] theorem State.modCore_agenda (s : State) (k : CoreKey) (f : Core → Core) : (s.modCore k f).agenda = s.agenda := rfl
@[simp] theorem State.modCore_inputs (s : State) (k : CoreKey) (f : Core → Core) : (s.modCore k f).inputs = s.inputs := rfl
@[simp] theorem State.modCore_out (s : State) (k : CoreKey) (f : Core → Core) : (s.modCore k f).out = s.out := rfl
@[simp] theorem State.modCore_fabricOut (s : State) (k : CoreKey) (f : Core → Core) : (s.modCore k f).fabricOut = s.fabricOut := rfl
@[simp] theorem State.modCore_free (s : State) (k : CoreKey) (f : Core → Core) : (s.modCore k f).free = s.free := rfl
@[simp] theorem State.modCore_fresh (s : State) (k : CoreKey) (f : Core → Core) : (s.modCore k f).fresh = s.fresh := rfl
@[simp] theorem State.modCore_nextCtx (s : State) (k : CoreKey) (f : Core → Core) : (s.modCore k f).nextCtx = s.nextCtx := rfl
@[simp] theorem State.modCore_arrivals (s : State) (k : CoreKey) (f : Core → Core) : (s.modCore k f).arrivals = s.arrivals := rfl
@[simp] theorem State.modCore_dies (s : State) (k : CoreKey) (f : Core → Core) : (s.modCore k f).dies = s.dies := rfl
@[simp] theorem State.modCore_mem (s : State) (k : CoreKey) (f : Core → Core) : (s.modCore k f).mem = s.mem := rfl
@[simp] theorem State.modCore_memPoison (s : State) (k : CoreKey) (f : Core → Core) : (s.modCore k f).memPoison = s.memPoison := rfl
@[simp] theorem State.modCore_flights (s : State) (k : CoreKey) (f : Core → Core) : (s.modCore k f).flights = s.flights := rfl
@[simp] theorem State.modCore_windows (s : State) (k : CoreKey) (f : Core → Core) : (s.modCore k f).windows = s.windows := rfl
@[simp] theorem State.modCore_messages (s : State) (k : CoreKey) (f : Core → Core) : (s.modCore k f).messages = s.messages := rfl
@[simp] theorem State.modCore_submitted (s : State) (k : CoreKey) (f : Core → Core) : (s.modCore k f).submitted = s.submitted := rfl
@[simp] theorem State.modCore_episodes (s : State) (k : CoreKey) (f : Core → Core) : (s.modCore k f).episodes = s.episodes := rfl
@[simp] theorem State.modCore_contexts (s : State) (k : CoreKey) (f : Core → Core) : (s.modCore k f).contexts = s.contexts := rfl
@[simp] theorem State.modCore_slices (s : State) (k : CoreKey) (f : Core → Core) : (s.modCore k f).slices = s.slices := rfl
@[simp] theorem State.modCore_handles (s : State) (k : CoreKey) (f : Core → Core) : (s.modCore k f).handles = s.handles := rfl
@[simp] theorem State.modCore_sessions (s : State) (k : CoreKey) (f : Core → Core) : (s.modCore k f).sessions = s.sessions := rfl
@[simp] theorem State.modCore_images (s : State) (k : CoreKey) (f : Core → Core) : (s.modCore k f).images = s.images := rfl
@[simp] theorem State.modCore_firm (s : State) (k : CoreKey) (f : Core → Core) : (s.modCore k f).firm = s.firm := rfl
@[simp] theorem State.modCore_seqOut (s : State) (k : CoreKey) (f : Core → Core) : (s.modCore k f).seqOut = s.seqOut := rfl
@[simp] theorem State.modCore_seqIn (s : State) (k : CoreKey) (f : Core → Core) : (s.modCore k f).seqIn = s.seqIn := rfl

/-! ### State.modCores -/

@[simp] theorem State.modCores_cur (s : State) (p : Core → Bool) (f : Core → Core) : (s.modCores p f).cur = s.cur := rfl
@[simp] theorem State.modCores_agenda (s : State) (p : Core → Bool) (f : Core → Core) : (s.modCores p f).agenda = s.agenda := rfl
@[simp] theorem State.modCores_inputs (s : State) (p : Core → Bool) (f : Core → Core) : (s.modCores p f).inputs = s.inputs := rfl
@[simp] theorem State.modCores_out (s : State) (p : Core → Bool) (f : Core → Core) : (s.modCores p f).out = s.out := rfl
@[simp] theorem State.modCores_fabricOut (s : State) (p : Core → Bool) (f : Core → Core) : (s.modCores p f).fabricOut = s.fabricOut := rfl
@[simp] theorem State.modCores_free (s : State) (p : Core → Bool) (f : Core → Core) : (s.modCores p f).free = s.free := rfl
@[simp] theorem State.modCores_fresh (s : State) (p : Core → Bool) (f : Core → Core) : (s.modCores p f).fresh = s.fresh := rfl
@[simp] theorem State.modCores_nextCtx (s : State) (p : Core → Bool) (f : Core → Core) : (s.modCores p f).nextCtx = s.nextCtx := rfl
@[simp] theorem State.modCores_arrivals (s : State) (p : Core → Bool) (f : Core → Core) : (s.modCores p f).arrivals = s.arrivals := rfl
@[simp] theorem State.modCores_dies (s : State) (p : Core → Bool) (f : Core → Core) : (s.modCores p f).dies = s.dies := rfl
@[simp] theorem State.modCores_mem (s : State) (p : Core → Bool) (f : Core → Core) : (s.modCores p f).mem = s.mem := rfl
@[simp] theorem State.modCores_memPoison (s : State) (p : Core → Bool) (f : Core → Core) : (s.modCores p f).memPoison = s.memPoison := rfl
@[simp] theorem State.modCores_flights (s : State) (p : Core → Bool) (f : Core → Core) : (s.modCores p f).flights = s.flights := rfl
@[simp] theorem State.modCores_windows (s : State) (p : Core → Bool) (f : Core → Core) : (s.modCores p f).windows = s.windows := rfl
@[simp] theorem State.modCores_messages (s : State) (p : Core → Bool) (f : Core → Core) : (s.modCores p f).messages = s.messages := rfl
@[simp] theorem State.modCores_submitted (s : State) (p : Core → Bool) (f : Core → Core) : (s.modCores p f).submitted = s.submitted := rfl
@[simp] theorem State.modCores_episodes (s : State) (p : Core → Bool) (f : Core → Core) : (s.modCores p f).episodes = s.episodes := rfl
@[simp] theorem State.modCores_contexts (s : State) (p : Core → Bool) (f : Core → Core) : (s.modCores p f).contexts = s.contexts := rfl
@[simp] theorem State.modCores_slices (s : State) (p : Core → Bool) (f : Core → Core) : (s.modCores p f).slices = s.slices := rfl
@[simp] theorem State.modCores_handles (s : State) (p : Core → Bool) (f : Core → Core) : (s.modCores p f).handles = s.handles := rfl
@[simp] theorem State.modCores_sessions (s : State) (p : Core → Bool) (f : Core → Core) : (s.modCores p f).sessions = s.sessions := rfl
@[simp] theorem State.modCores_images (s : State) (p : Core → Bool) (f : Core → Core) : (s.modCores p f).images = s.images := rfl
@[simp] theorem State.modCores_firm (s : State) (p : Core → Bool) (f : Core → Core) : (s.modCores p f).firm = s.firm := rfl
@[simp] theorem State.modCores_seqOut (s : State) (p : Core → Bool) (f : Core → Core) : (s.modCores p f).seqOut = s.seqOut := rfl
@[simp] theorem State.modCores_seqIn (s : State) (p : Core → Bool) (f : Core → Core) : (s.modCores p f).seqIn = s.seqIn := rfl

/-! ### State.modDie -/

@[simp] theorem State.modDie_core (s : State) (d : Fin 10) (f : Die → Die) : (s.modDie d f).core = s.core := rfl
@[simp] theorem State.modDie_others (s : State) (d : Fin 10) (f : Die → Die) : (s.modDie d f).others = s.others := rfl
@[simp] theorem State.modDie_cur (s : State) (d : Fin 10) (f : Die → Die) : (s.modDie d f).cur = s.cur := rfl
@[simp] theorem State.modDie_agenda (s : State) (d : Fin 10) (f : Die → Die) : (s.modDie d f).agenda = s.agenda := rfl
@[simp] theorem State.modDie_inputs (s : State) (d : Fin 10) (f : Die → Die) : (s.modDie d f).inputs = s.inputs := rfl
@[simp] theorem State.modDie_out (s : State) (d : Fin 10) (f : Die → Die) : (s.modDie d f).out = s.out := rfl
@[simp] theorem State.modDie_fabricOut (s : State) (d : Fin 10) (f : Die → Die) : (s.modDie d f).fabricOut = s.fabricOut := rfl
@[simp] theorem State.modDie_free (s : State) (d : Fin 10) (f : Die → Die) : (s.modDie d f).free = s.free := rfl
@[simp] theorem State.modDie_fresh (s : State) (d : Fin 10) (f : Die → Die) : (s.modDie d f).fresh = s.fresh := rfl
@[simp] theorem State.modDie_nextCtx (s : State) (d : Fin 10) (f : Die → Die) : (s.modDie d f).nextCtx = s.nextCtx := rfl
@[simp] theorem State.modDie_arrivals (s : State) (d : Fin 10) (f : Die → Die) : (s.modDie d f).arrivals = s.arrivals := rfl
@[simp] theorem State.modDie_mem (s : State) (d : Fin 10) (f : Die → Die) : (s.modDie d f).mem = s.mem := rfl
@[simp] theorem State.modDie_memPoison (s : State) (d : Fin 10) (f : Die → Die) : (s.modDie d f).memPoison = s.memPoison := rfl
@[simp] theorem State.modDie_flights (s : State) (d : Fin 10) (f : Die → Die) : (s.modDie d f).flights = s.flights := rfl
@[simp] theorem State.modDie_windows (s : State) (d : Fin 10) (f : Die → Die) : (s.modDie d f).windows = s.windows := rfl
@[simp] theorem State.modDie_messages (s : State) (d : Fin 10) (f : Die → Die) : (s.modDie d f).messages = s.messages := rfl
@[simp] theorem State.modDie_submitted (s : State) (d : Fin 10) (f : Die → Die) : (s.modDie d f).submitted = s.submitted := rfl
@[simp] theorem State.modDie_episodes (s : State) (d : Fin 10) (f : Die → Die) : (s.modDie d f).episodes = s.episodes := rfl
@[simp] theorem State.modDie_contexts (s : State) (d : Fin 10) (f : Die → Die) : (s.modDie d f).contexts = s.contexts := rfl
@[simp] theorem State.modDie_slices (s : State) (d : Fin 10) (f : Die → Die) : (s.modDie d f).slices = s.slices := rfl
@[simp] theorem State.modDie_handles (s : State) (d : Fin 10) (f : Die → Die) : (s.modDie d f).handles = s.handles := rfl
@[simp] theorem State.modDie_sessions (s : State) (d : Fin 10) (f : Die → Die) : (s.modDie d f).sessions = s.sessions := rfl
@[simp] theorem State.modDie_images (s : State) (d : Fin 10) (f : Die → Die) : (s.modDie d f).images = s.images := rfl
@[simp] theorem State.modDie_firm (s : State) (d : Fin 10) (f : Die → Die) : (s.modDie d f).firm = s.firm := rfl
@[simp] theorem State.modDie_seqOut (s : State) (d : Fin 10) (f : Die → Die) : (s.modDie d f).seqOut = s.seqOut := rfl
@[simp] theorem State.modDie_seqIn (s : State) (d : Fin 10) (f : Die → Die) : (s.modDie d f).seqIn = s.seqIn := rfl

/-! ### State.modSlice -/

@[simp] theorem State.modSlice_core (s : State) (n : Fin 8) (f : Slice → Slice) : (s.modSlice n f).core = s.core := rfl
@[simp] theorem State.modSlice_others (s : State) (n : Fin 8) (f : Slice → Slice) : (s.modSlice n f).others = s.others := rfl
@[simp] theorem State.modSlice_cur (s : State) (n : Fin 8) (f : Slice → Slice) : (s.modSlice n f).cur = s.cur := rfl
@[simp] theorem State.modSlice_agenda (s : State) (n : Fin 8) (f : Slice → Slice) : (s.modSlice n f).agenda = s.agenda := rfl
@[simp] theorem State.modSlice_inputs (s : State) (n : Fin 8) (f : Slice → Slice) : (s.modSlice n f).inputs = s.inputs := rfl
@[simp] theorem State.modSlice_out (s : State) (n : Fin 8) (f : Slice → Slice) : (s.modSlice n f).out = s.out := rfl
@[simp] theorem State.modSlice_fabricOut (s : State) (n : Fin 8) (f : Slice → Slice) : (s.modSlice n f).fabricOut = s.fabricOut := rfl
@[simp] theorem State.modSlice_free (s : State) (n : Fin 8) (f : Slice → Slice) : (s.modSlice n f).free = s.free := rfl
@[simp] theorem State.modSlice_fresh (s : State) (n : Fin 8) (f : Slice → Slice) : (s.modSlice n f).fresh = s.fresh := rfl
@[simp] theorem State.modSlice_nextCtx (s : State) (n : Fin 8) (f : Slice → Slice) : (s.modSlice n f).nextCtx = s.nextCtx := rfl
@[simp] theorem State.modSlice_arrivals (s : State) (n : Fin 8) (f : Slice → Slice) : (s.modSlice n f).arrivals = s.arrivals := rfl
@[simp] theorem State.modSlice_dies (s : State) (n : Fin 8) (f : Slice → Slice) : (s.modSlice n f).dies = s.dies := rfl
@[simp] theorem State.modSlice_mem (s : State) (n : Fin 8) (f : Slice → Slice) : (s.modSlice n f).mem = s.mem := rfl
@[simp] theorem State.modSlice_memPoison (s : State) (n : Fin 8) (f : Slice → Slice) : (s.modSlice n f).memPoison = s.memPoison := rfl
@[simp] theorem State.modSlice_flights (s : State) (n : Fin 8) (f : Slice → Slice) : (s.modSlice n f).flights = s.flights := rfl
@[simp] theorem State.modSlice_windows (s : State) (n : Fin 8) (f : Slice → Slice) : (s.modSlice n f).windows = s.windows := rfl
@[simp] theorem State.modSlice_messages (s : State) (n : Fin 8) (f : Slice → Slice) : (s.modSlice n f).messages = s.messages := rfl
@[simp] theorem State.modSlice_submitted (s : State) (n : Fin 8) (f : Slice → Slice) : (s.modSlice n f).submitted = s.submitted := rfl
@[simp] theorem State.modSlice_episodes (s : State) (n : Fin 8) (f : Slice → Slice) : (s.modSlice n f).episodes = s.episodes := rfl
@[simp] theorem State.modSlice_contexts (s : State) (n : Fin 8) (f : Slice → Slice) : (s.modSlice n f).contexts = s.contexts := rfl
@[simp] theorem State.modSlice_handles (s : State) (n : Fin 8) (f : Slice → Slice) : (s.modSlice n f).handles = s.handles := rfl
@[simp] theorem State.modSlice_sessions (s : State) (n : Fin 8) (f : Slice → Slice) : (s.modSlice n f).sessions = s.sessions := rfl
@[simp] theorem State.modSlice_images (s : State) (n : Fin 8) (f : Slice → Slice) : (s.modSlice n f).images = s.images := rfl
@[simp] theorem State.modSlice_firm (s : State) (n : Fin 8) (f : Slice → Slice) : (s.modSlice n f).firm = s.firm := rfl
@[simp] theorem State.modSlice_seqOut (s : State) (n : Fin 8) (f : Slice → Slice) : (s.modSlice n f).seqOut = s.seqOut := rfl
@[simp] theorem State.modSlice_seqIn (s : State) (n : Fin 8) (f : Slice → Slice) : (s.modSlice n f).seqIn = s.seqIn := rfl

/-! ### State.modCtx -/

@[simp] theorem State.modCtx_core (s : State) (n : Nat) (f : Context → Context) : (s.modCtx n f).core = s.core := rfl
@[simp] theorem State.modCtx_others (s : State) (n : Nat) (f : Context → Context) : (s.modCtx n f).others = s.others := rfl
@[simp] theorem State.modCtx_cur (s : State) (n : Nat) (f : Context → Context) : (s.modCtx n f).cur = s.cur := rfl
@[simp] theorem State.modCtx_agenda (s : State) (n : Nat) (f : Context → Context) : (s.modCtx n f).agenda = s.agenda := rfl
@[simp] theorem State.modCtx_inputs (s : State) (n : Nat) (f : Context → Context) : (s.modCtx n f).inputs = s.inputs := rfl
@[simp] theorem State.modCtx_out (s : State) (n : Nat) (f : Context → Context) : (s.modCtx n f).out = s.out := rfl
@[simp] theorem State.modCtx_fabricOut (s : State) (n : Nat) (f : Context → Context) : (s.modCtx n f).fabricOut = s.fabricOut := rfl
@[simp] theorem State.modCtx_free (s : State) (n : Nat) (f : Context → Context) : (s.modCtx n f).free = s.free := rfl
@[simp] theorem State.modCtx_fresh (s : State) (n : Nat) (f : Context → Context) : (s.modCtx n f).fresh = s.fresh := rfl
@[simp] theorem State.modCtx_nextCtx (s : State) (n : Nat) (f : Context → Context) : (s.modCtx n f).nextCtx = s.nextCtx := rfl
@[simp] theorem State.modCtx_arrivals (s : State) (n : Nat) (f : Context → Context) : (s.modCtx n f).arrivals = s.arrivals := rfl
@[simp] theorem State.modCtx_dies (s : State) (n : Nat) (f : Context → Context) : (s.modCtx n f).dies = s.dies := rfl
@[simp] theorem State.modCtx_mem (s : State) (n : Nat) (f : Context → Context) : (s.modCtx n f).mem = s.mem := rfl
@[simp] theorem State.modCtx_memPoison (s : State) (n : Nat) (f : Context → Context) : (s.modCtx n f).memPoison = s.memPoison := rfl
@[simp] theorem State.modCtx_flights (s : State) (n : Nat) (f : Context → Context) : (s.modCtx n f).flights = s.flights := rfl
@[simp] theorem State.modCtx_windows (s : State) (n : Nat) (f : Context → Context) : (s.modCtx n f).windows = s.windows := rfl
@[simp] theorem State.modCtx_messages (s : State) (n : Nat) (f : Context → Context) : (s.modCtx n f).messages = s.messages := rfl
@[simp] theorem State.modCtx_submitted (s : State) (n : Nat) (f : Context → Context) : (s.modCtx n f).submitted = s.submitted := rfl
@[simp] theorem State.modCtx_episodes (s : State) (n : Nat) (f : Context → Context) : (s.modCtx n f).episodes = s.episodes := rfl
@[simp] theorem State.modCtx_slices (s : State) (n : Nat) (f : Context → Context) : (s.modCtx n f).slices = s.slices := rfl
@[simp] theorem State.modCtx_handles (s : State) (n : Nat) (f : Context → Context) : (s.modCtx n f).handles = s.handles := rfl
@[simp] theorem State.modCtx_sessions (s : State) (n : Nat) (f : Context → Context) : (s.modCtx n f).sessions = s.sessions := rfl
@[simp] theorem State.modCtx_images (s : State) (n : Nat) (f : Context → Context) : (s.modCtx n f).images = s.images := rfl
@[simp] theorem State.modCtx_firm (s : State) (n : Nat) (f : Context → Context) : (s.modCtx n f).firm = s.firm := rfl
@[simp] theorem State.modCtx_seqOut (s : State) (n : Nat) (f : Context → Context) : (s.modCtx n f).seqOut = s.seqOut := rfl
@[simp] theorem State.modCtx_seqIn (s : State) (n : Nat) (f : Context → Context) : (s.modCtx n f).seqIn = s.seqIn := rfl

/-! ### State.modFirm -/

@[simp] theorem State.modFirm_core (s : State) (f : Firm → Firm) : (s.modFirm f).core = s.core := rfl
@[simp] theorem State.modFirm_others (s : State) (f : Firm → Firm) : (s.modFirm f).others = s.others := rfl
@[simp] theorem State.modFirm_cur (s : State) (f : Firm → Firm) : (s.modFirm f).cur = s.cur := rfl
@[simp] theorem State.modFirm_agenda (s : State) (f : Firm → Firm) : (s.modFirm f).agenda = s.agenda := rfl
@[simp] theorem State.modFirm_inputs (s : State) (f : Firm → Firm) : (s.modFirm f).inputs = s.inputs := rfl
@[simp] theorem State.modFirm_out (s : State) (f : Firm → Firm) : (s.modFirm f).out = s.out := rfl
@[simp] theorem State.modFirm_fabricOut (s : State) (f : Firm → Firm) : (s.modFirm f).fabricOut = s.fabricOut := rfl
@[simp] theorem State.modFirm_free (s : State) (f : Firm → Firm) : (s.modFirm f).free = s.free := rfl
@[simp] theorem State.modFirm_fresh (s : State) (f : Firm → Firm) : (s.modFirm f).fresh = s.fresh := rfl
@[simp] theorem State.modFirm_nextCtx (s : State) (f : Firm → Firm) : (s.modFirm f).nextCtx = s.nextCtx := rfl
@[simp] theorem State.modFirm_arrivals (s : State) (f : Firm → Firm) : (s.modFirm f).arrivals = s.arrivals := rfl
@[simp] theorem State.modFirm_dies (s : State) (f : Firm → Firm) : (s.modFirm f).dies = s.dies := rfl
@[simp] theorem State.modFirm_mem (s : State) (f : Firm → Firm) : (s.modFirm f).mem = s.mem := rfl
@[simp] theorem State.modFirm_memPoison (s : State) (f : Firm → Firm) : (s.modFirm f).memPoison = s.memPoison := rfl
@[simp] theorem State.modFirm_flights (s : State) (f : Firm → Firm) : (s.modFirm f).flights = s.flights := rfl
@[simp] theorem State.modFirm_windows (s : State) (f : Firm → Firm) : (s.modFirm f).windows = s.windows := rfl
@[simp] theorem State.modFirm_messages (s : State) (f : Firm → Firm) : (s.modFirm f).messages = s.messages := rfl
@[simp] theorem State.modFirm_submitted (s : State) (f : Firm → Firm) : (s.modFirm f).submitted = s.submitted := rfl
@[simp] theorem State.modFirm_episodes (s : State) (f : Firm → Firm) : (s.modFirm f).episodes = s.episodes := rfl
@[simp] theorem State.modFirm_contexts (s : State) (f : Firm → Firm) : (s.modFirm f).contexts = s.contexts := rfl
@[simp] theorem State.modFirm_slices (s : State) (f : Firm → Firm) : (s.modFirm f).slices = s.slices := rfl
@[simp] theorem State.modFirm_handles (s : State) (f : Firm → Firm) : (s.modFirm f).handles = s.handles := rfl
@[simp] theorem State.modFirm_sessions (s : State) (f : Firm → Firm) : (s.modFirm f).sessions = s.sessions := rfl
@[simp] theorem State.modFirm_images (s : State) (f : Firm → Firm) : (s.modFirm f).images = s.images := rfl
@[simp] theorem State.modFirm_seqOut (s : State) (f : Firm → Firm) : (s.modFirm f).seqOut = s.seqOut := rfl
@[simp] theorem State.modFirm_seqIn (s : State) (f : Firm → Firm) : (s.modFirm f).seqIn = s.seqIn := rfl

/-! ### State.goto -/

@[simp] theorem State.goto_core (s : State) (pc : Pc) : (s.goto pc).core = s.core := rfl
@[simp] theorem State.goto_others (s : State) (pc : Pc) : (s.goto pc).others = s.others := rfl
@[simp] theorem State.goto_agenda (s : State) (pc : Pc) : (s.goto pc).agenda = s.agenda := rfl
@[simp] theorem State.goto_inputs (s : State) (pc : Pc) : (s.goto pc).inputs = s.inputs := rfl
@[simp] theorem State.goto_out (s : State) (pc : Pc) : (s.goto pc).out = s.out := rfl
@[simp] theorem State.goto_fabricOut (s : State) (pc : Pc) : (s.goto pc).fabricOut = s.fabricOut := rfl
@[simp] theorem State.goto_free (s : State) (pc : Pc) : (s.goto pc).free = s.free := rfl
@[simp] theorem State.goto_fresh (s : State) (pc : Pc) : (s.goto pc).fresh = s.fresh := rfl
@[simp] theorem State.goto_nextCtx (s : State) (pc : Pc) : (s.goto pc).nextCtx = s.nextCtx := rfl
@[simp] theorem State.goto_arrivals (s : State) (pc : Pc) : (s.goto pc).arrivals = s.arrivals := rfl
@[simp] theorem State.goto_dies (s : State) (pc : Pc) : (s.goto pc).dies = s.dies := rfl
@[simp] theorem State.goto_mem (s : State) (pc : Pc) : (s.goto pc).mem = s.mem := rfl
@[simp] theorem State.goto_memPoison (s : State) (pc : Pc) : (s.goto pc).memPoison = s.memPoison := rfl
@[simp] theorem State.goto_flights (s : State) (pc : Pc) : (s.goto pc).flights = s.flights := rfl
@[simp] theorem State.goto_windows (s : State) (pc : Pc) : (s.goto pc).windows = s.windows := rfl
@[simp] theorem State.goto_messages (s : State) (pc : Pc) : (s.goto pc).messages = s.messages := rfl
@[simp] theorem State.goto_submitted (s : State) (pc : Pc) : (s.goto pc).submitted = s.submitted := rfl
@[simp] theorem State.goto_episodes (s : State) (pc : Pc) : (s.goto pc).episodes = s.episodes := rfl
@[simp] theorem State.goto_contexts (s : State) (pc : Pc) : (s.goto pc).contexts = s.contexts := rfl
@[simp] theorem State.goto_slices (s : State) (pc : Pc) : (s.goto pc).slices = s.slices := rfl
@[simp] theorem State.goto_handles (s : State) (pc : Pc) : (s.goto pc).handles = s.handles := rfl
@[simp] theorem State.goto_sessions (s : State) (pc : Pc) : (s.goto pc).sessions = s.sessions := rfl
@[simp] theorem State.goto_images (s : State) (pc : Pc) : (s.goto pc).images = s.images := rfl
@[simp] theorem State.goto_firm (s : State) (pc : Pc) : (s.goto pc).firm = s.firm := rfl
@[simp] theorem State.goto_seqOut (s : State) (pc : Pc) : (s.goto pc).seqOut = s.seqOut := rfl
@[simp] theorem State.goto_seqIn (s : State) (pc : Pc) : (s.goto pc).seqIn = s.seqIn := rfl

/-! ### State.begun -/

@[simp] theorem State.begun_others (s : State) (i : Instr) : (s.begun i).others = s.others := rfl
@[simp] theorem State.begun_agenda (s : State) (i : Instr) : (s.begun i).agenda = s.agenda := rfl
@[simp] theorem State.begun_inputs (s : State) (i : Instr) : (s.begun i).inputs = s.inputs := rfl
@[simp] theorem State.begun_out (s : State) (i : Instr) : (s.begun i).out = s.out := rfl
@[simp] theorem State.begun_fabricOut (s : State) (i : Instr) : (s.begun i).fabricOut = s.fabricOut := rfl
@[simp] theorem State.begun_free (s : State) (i : Instr) : (s.begun i).free = s.free := rfl
@[simp] theorem State.begun_fresh (s : State) (i : Instr) : (s.begun i).fresh = s.fresh := rfl
@[simp] theorem State.begun_nextCtx (s : State) (i : Instr) : (s.begun i).nextCtx = s.nextCtx := rfl
@[simp] theorem State.begun_arrivals (s : State) (i : Instr) : (s.begun i).arrivals = s.arrivals := rfl
@[simp] theorem State.begun_dies (s : State) (i : Instr) : (s.begun i).dies = s.dies := rfl
@[simp] theorem State.begun_mem (s : State) (i : Instr) : (s.begun i).mem = s.mem := rfl
@[simp] theorem State.begun_memPoison (s : State) (i : Instr) : (s.begun i).memPoison = s.memPoison := rfl
@[simp] theorem State.begun_flights (s : State) (i : Instr) : (s.begun i).flights = s.flights := rfl
@[simp] theorem State.begun_windows (s : State) (i : Instr) : (s.begun i).windows = s.windows := rfl
@[simp] theorem State.begun_messages (s : State) (i : Instr) : (s.begun i).messages = s.messages := rfl
@[simp] theorem State.begun_submitted (s : State) (i : Instr) : (s.begun i).submitted = s.submitted := rfl
@[simp] theorem State.begun_episodes (s : State) (i : Instr) : (s.begun i).episodes = s.episodes := rfl
@[simp] theorem State.begun_contexts (s : State) (i : Instr) : (s.begun i).contexts = s.contexts := rfl
@[simp] theorem State.begun_slices (s : State) (i : Instr) : (s.begun i).slices = s.slices := rfl
@[simp] theorem State.begun_handles (s : State) (i : Instr) : (s.begun i).handles = s.handles := rfl
@[simp] theorem State.begun_sessions (s : State) (i : Instr) : (s.begun i).sessions = s.sessions := rfl
@[simp] theorem State.begun_images (s : State) (i : Instr) : (s.begun i).images = s.images := rfl
@[simp] theorem State.begun_firm (s : State) (i : Instr) : (s.begun i).firm = s.firm := rfl
@[simp] theorem State.begun_seqOut (s : State) (i : Instr) : (s.begun i).seqOut = s.seqOut := rfl
@[simp] theorem State.begun_seqIn (s : State) (i : Instr) : (s.begun i).seqIn = s.seqIn := rfl

/-! ### State.dropFlight -/

@[simp] theorem State.dropFlight_core (s : State) (id : Nat) : (s.dropFlight id).core = s.core := rfl
@[simp] theorem State.dropFlight_others (s : State) (id : Nat) : (s.dropFlight id).others = s.others := rfl
@[simp] theorem State.dropFlight_cur (s : State) (id : Nat) : (s.dropFlight id).cur = s.cur := rfl
@[simp] theorem State.dropFlight_agenda (s : State) (id : Nat) : (s.dropFlight id).agenda = s.agenda := rfl
@[simp] theorem State.dropFlight_inputs (s : State) (id : Nat) : (s.dropFlight id).inputs = s.inputs := rfl
@[simp] theorem State.dropFlight_out (s : State) (id : Nat) : (s.dropFlight id).out = s.out := rfl
@[simp] theorem State.dropFlight_fabricOut (s : State) (id : Nat) : (s.dropFlight id).fabricOut = s.fabricOut := rfl
@[simp] theorem State.dropFlight_free (s : State) (id : Nat) : (s.dropFlight id).free = s.free := rfl
@[simp] theorem State.dropFlight_fresh (s : State) (id : Nat) : (s.dropFlight id).fresh = s.fresh := rfl
@[simp] theorem State.dropFlight_nextCtx (s : State) (id : Nat) : (s.dropFlight id).nextCtx = s.nextCtx := rfl
@[simp] theorem State.dropFlight_arrivals (s : State) (id : Nat) : (s.dropFlight id).arrivals = s.arrivals := rfl
@[simp] theorem State.dropFlight_dies (s : State) (id : Nat) : (s.dropFlight id).dies = s.dies := rfl
@[simp] theorem State.dropFlight_mem (s : State) (id : Nat) : (s.dropFlight id).mem = s.mem := rfl
@[simp] theorem State.dropFlight_memPoison (s : State) (id : Nat) : (s.dropFlight id).memPoison = s.memPoison := rfl
@[simp] theorem State.dropFlight_windows (s : State) (id : Nat) : (s.dropFlight id).windows = s.windows := rfl
@[simp] theorem State.dropFlight_messages (s : State) (id : Nat) : (s.dropFlight id).messages = s.messages := rfl
@[simp] theorem State.dropFlight_submitted (s : State) (id : Nat) : (s.dropFlight id).submitted = s.submitted := rfl
@[simp] theorem State.dropFlight_episodes (s : State) (id : Nat) : (s.dropFlight id).episodes = s.episodes := rfl
@[simp] theorem State.dropFlight_contexts (s : State) (id : Nat) : (s.dropFlight id).contexts = s.contexts := rfl
@[simp] theorem State.dropFlight_slices (s : State) (id : Nat) : (s.dropFlight id).slices = s.slices := rfl
@[simp] theorem State.dropFlight_handles (s : State) (id : Nat) : (s.dropFlight id).handles = s.handles := rfl
@[simp] theorem State.dropFlight_sessions (s : State) (id : Nat) : (s.dropFlight id).sessions = s.sessions := rfl
@[simp] theorem State.dropFlight_images (s : State) (id : Nat) : (s.dropFlight id).images = s.images := rfl
@[simp] theorem State.dropFlight_firm (s : State) (id : Nat) : (s.dropFlight id).firm = s.firm := rfl
@[simp] theorem State.dropFlight_seqOut (s : State) (id : Nat) : (s.dropFlight id).seqOut = s.seqOut := rfl
@[simp] theorem State.dropFlight_seqIn (s : State) (id : Nat) : (s.dropFlight id).seqIn = s.seqIn := rfl

/-! ### State.dropWindow -/

@[simp] theorem State.dropWindow_core (s : State) (id : Nat) : (s.dropWindow id).core = s.core := rfl
@[simp] theorem State.dropWindow_others (s : State) (id : Nat) : (s.dropWindow id).others = s.others := rfl
@[simp] theorem State.dropWindow_cur (s : State) (id : Nat) : (s.dropWindow id).cur = s.cur := rfl
@[simp] theorem State.dropWindow_agenda (s : State) (id : Nat) : (s.dropWindow id).agenda = s.agenda := rfl
@[simp] theorem State.dropWindow_inputs (s : State) (id : Nat) : (s.dropWindow id).inputs = s.inputs := rfl
@[simp] theorem State.dropWindow_out (s : State) (id : Nat) : (s.dropWindow id).out = s.out := rfl
@[simp] theorem State.dropWindow_fabricOut (s : State) (id : Nat) : (s.dropWindow id).fabricOut = s.fabricOut := rfl
@[simp] theorem State.dropWindow_free (s : State) (id : Nat) : (s.dropWindow id).free = s.free := rfl
@[simp] theorem State.dropWindow_fresh (s : State) (id : Nat) : (s.dropWindow id).fresh = s.fresh := rfl
@[simp] theorem State.dropWindow_nextCtx (s : State) (id : Nat) : (s.dropWindow id).nextCtx = s.nextCtx := rfl
@[simp] theorem State.dropWindow_arrivals (s : State) (id : Nat) : (s.dropWindow id).arrivals = s.arrivals := rfl
@[simp] theorem State.dropWindow_dies (s : State) (id : Nat) : (s.dropWindow id).dies = s.dies := rfl
@[simp] theorem State.dropWindow_mem (s : State) (id : Nat) : (s.dropWindow id).mem = s.mem := rfl
@[simp] theorem State.dropWindow_memPoison (s : State) (id : Nat) : (s.dropWindow id).memPoison = s.memPoison := rfl
@[simp] theorem State.dropWindow_flights (s : State) (id : Nat) : (s.dropWindow id).flights = s.flights := rfl
@[simp] theorem State.dropWindow_messages (s : State) (id : Nat) : (s.dropWindow id).messages = s.messages := rfl
@[simp] theorem State.dropWindow_submitted (s : State) (id : Nat) : (s.dropWindow id).submitted = s.submitted := rfl
@[simp] theorem State.dropWindow_episodes (s : State) (id : Nat) : (s.dropWindow id).episodes = s.episodes := rfl
@[simp] theorem State.dropWindow_contexts (s : State) (id : Nat) : (s.dropWindow id).contexts = s.contexts := rfl
@[simp] theorem State.dropWindow_slices (s : State) (id : Nat) : (s.dropWindow id).slices = s.slices := rfl
@[simp] theorem State.dropWindow_handles (s : State) (id : Nat) : (s.dropWindow id).handles = s.handles := rfl
@[simp] theorem State.dropWindow_sessions (s : State) (id : Nat) : (s.dropWindow id).sessions = s.sessions := rfl
@[simp] theorem State.dropWindow_images (s : State) (id : Nat) : (s.dropWindow id).images = s.images := rfl
@[simp] theorem State.dropWindow_firm (s : State) (id : Nat) : (s.dropWindow id).firm = s.firm := rfl
@[simp] theorem State.dropWindow_seqOut (s : State) (id : Nat) : (s.dropWindow id).seqOut = s.seqOut := rfl
@[simp] theorem State.dropWindow_seqIn (s : State) (id : Nat) : (s.dropWindow id).seqIn = s.seqIn := rfl

/-! ### State.holdFlight -/

@[simp] theorem State.holdFlight_core (s : State) (id : Nat) : (s.holdFlight id).core = s.core := rfl
@[simp] theorem State.holdFlight_others (s : State) (id : Nat) : (s.holdFlight id).others = s.others := rfl
@[simp] theorem State.holdFlight_cur (s : State) (id : Nat) : (s.holdFlight id).cur = s.cur := rfl
@[simp] theorem State.holdFlight_agenda (s : State) (id : Nat) : (s.holdFlight id).agenda = s.agenda := rfl
@[simp] theorem State.holdFlight_inputs (s : State) (id : Nat) : (s.holdFlight id).inputs = s.inputs := rfl
@[simp] theorem State.holdFlight_out (s : State) (id : Nat) : (s.holdFlight id).out = s.out := rfl
@[simp] theorem State.holdFlight_fabricOut (s : State) (id : Nat) : (s.holdFlight id).fabricOut = s.fabricOut := rfl
@[simp] theorem State.holdFlight_free (s : State) (id : Nat) : (s.holdFlight id).free = s.free := rfl
@[simp] theorem State.holdFlight_fresh (s : State) (id : Nat) : (s.holdFlight id).fresh = s.fresh := rfl
@[simp] theorem State.holdFlight_nextCtx (s : State) (id : Nat) : (s.holdFlight id).nextCtx = s.nextCtx := rfl
@[simp] theorem State.holdFlight_arrivals (s : State) (id : Nat) : (s.holdFlight id).arrivals = s.arrivals := rfl
@[simp] theorem State.holdFlight_dies (s : State) (id : Nat) : (s.holdFlight id).dies = s.dies := rfl
@[simp] theorem State.holdFlight_mem (s : State) (id : Nat) : (s.holdFlight id).mem = s.mem := rfl
@[simp] theorem State.holdFlight_memPoison (s : State) (id : Nat) : (s.holdFlight id).memPoison = s.memPoison := rfl
@[simp] theorem State.holdFlight_windows (s : State) (id : Nat) : (s.holdFlight id).windows = s.windows := rfl
@[simp] theorem State.holdFlight_messages (s : State) (id : Nat) : (s.holdFlight id).messages = s.messages := rfl
@[simp] theorem State.holdFlight_submitted (s : State) (id : Nat) : (s.holdFlight id).submitted = s.submitted := rfl
@[simp] theorem State.holdFlight_episodes (s : State) (id : Nat) : (s.holdFlight id).episodes = s.episodes := rfl
@[simp] theorem State.holdFlight_contexts (s : State) (id : Nat) : (s.holdFlight id).contexts = s.contexts := rfl
@[simp] theorem State.holdFlight_slices (s : State) (id : Nat) : (s.holdFlight id).slices = s.slices := rfl
@[simp] theorem State.holdFlight_handles (s : State) (id : Nat) : (s.holdFlight id).handles = s.handles := rfl
@[simp] theorem State.holdFlight_sessions (s : State) (id : Nat) : (s.holdFlight id).sessions = s.sessions := rfl
@[simp] theorem State.holdFlight_images (s : State) (id : Nat) : (s.holdFlight id).images = s.images := rfl
@[simp] theorem State.holdFlight_firm (s : State) (id : Nat) : (s.holdFlight id).firm = s.firm := rfl
@[simp] theorem State.holdFlight_seqOut (s : State) (id : Nat) : (s.holdFlight id).seqOut = s.seqOut := rfl
@[simp] theorem State.holdFlight_seqIn (s : State) (id : Nat) : (s.holdFlight id).seqIn = s.seqIn := rfl

/-! ### State.countFrame -/

@[simp] theorem State.countFrame_core (s : State) (f : Frame) : (s.countFrame f).core = s.core := rfl
@[simp] theorem State.countFrame_others (s : State) (f : Frame) : (s.countFrame f).others = s.others := rfl
@[simp] theorem State.countFrame_cur (s : State) (f : Frame) : (s.countFrame f).cur = s.cur := rfl
@[simp] theorem State.countFrame_agenda (s : State) (f : Frame) : (s.countFrame f).agenda = s.agenda := rfl
@[simp] theorem State.countFrame_inputs (s : State) (f : Frame) : (s.countFrame f).inputs = s.inputs := rfl
@[simp] theorem State.countFrame_out (s : State) (f : Frame) : (s.countFrame f).out = s.out := rfl
@[simp] theorem State.countFrame_fabricOut (s : State) (f : Frame) : (s.countFrame f).fabricOut = s.fabricOut := rfl
@[simp] theorem State.countFrame_free (s : State) (f : Frame) : (s.countFrame f).free = s.free := rfl
@[simp] theorem State.countFrame_fresh (s : State) (f : Frame) : (s.countFrame f).fresh = s.fresh := rfl
@[simp] theorem State.countFrame_nextCtx (s : State) (f : Frame) : (s.countFrame f).nextCtx = s.nextCtx := rfl
@[simp] theorem State.countFrame_arrivals (s : State) (f : Frame) : (s.countFrame f).arrivals = s.arrivals := rfl
@[simp] theorem State.countFrame_dies (s : State) (f : Frame) : (s.countFrame f).dies = s.dies := rfl
@[simp] theorem State.countFrame_mem (s : State) (f : Frame) : (s.countFrame f).mem = s.mem := rfl
@[simp] theorem State.countFrame_memPoison (s : State) (f : Frame) : (s.countFrame f).memPoison = s.memPoison := rfl
@[simp] theorem State.countFrame_flights (s : State) (f : Frame) : (s.countFrame f).flights = s.flights := rfl
@[simp] theorem State.countFrame_windows (s : State) (f : Frame) : (s.countFrame f).windows = s.windows := rfl
@[simp] theorem State.countFrame_messages (s : State) (f : Frame) : (s.countFrame f).messages = s.messages := rfl
@[simp] theorem State.countFrame_submitted (s : State) (f : Frame) : (s.countFrame f).submitted = s.submitted := rfl
@[simp] theorem State.countFrame_episodes (s : State) (f : Frame) : (s.countFrame f).episodes = s.episodes := rfl
@[simp] theorem State.countFrame_contexts (s : State) (f : Frame) : (s.countFrame f).contexts = s.contexts := rfl
@[simp] theorem State.countFrame_slices (s : State) (f : Frame) : (s.countFrame f).slices = s.slices := rfl
@[simp] theorem State.countFrame_handles (s : State) (f : Frame) : (s.countFrame f).handles = s.handles := rfl
@[simp] theorem State.countFrame_sessions (s : State) (f : Frame) : (s.countFrame f).sessions = s.sessions := rfl
@[simp] theorem State.countFrame_images (s : State) (f : Frame) : (s.countFrame f).images = s.images := rfl
@[simp] theorem State.countFrame_firm (s : State) (f : Frame) : (s.countFrame f).firm = s.firm := rfl
@[simp] theorem State.countFrame_seqOut (s : State) (f : Frame) : (s.countFrame f).seqOut = s.seqOut := rfl

/-! ### State.modTable -/

@[simp] theorem State.modTable_cur (s : State) (k : CoreKey) (h : Nat) (f : Timetable → Timetable) : (s.modTable k h f).cur = s.cur := rfl
@[simp] theorem State.modTable_agenda (s : State) (k : CoreKey) (h : Nat) (f : Timetable → Timetable) : (s.modTable k h f).agenda = s.agenda := rfl
@[simp] theorem State.modTable_inputs (s : State) (k : CoreKey) (h : Nat) (f : Timetable → Timetable) : (s.modTable k h f).inputs = s.inputs := rfl
@[simp] theorem State.modTable_out (s : State) (k : CoreKey) (h : Nat) (f : Timetable → Timetable) : (s.modTable k h f).out = s.out := rfl
@[simp] theorem State.modTable_fabricOut (s : State) (k : CoreKey) (h : Nat) (f : Timetable → Timetable) : (s.modTable k h f).fabricOut = s.fabricOut := rfl
@[simp] theorem State.modTable_free (s : State) (k : CoreKey) (h : Nat) (f : Timetable → Timetable) : (s.modTable k h f).free = s.free := rfl
@[simp] theorem State.modTable_fresh (s : State) (k : CoreKey) (h : Nat) (f : Timetable → Timetable) : (s.modTable k h f).fresh = s.fresh := rfl
@[simp] theorem State.modTable_nextCtx (s : State) (k : CoreKey) (h : Nat) (f : Timetable → Timetable) : (s.modTable k h f).nextCtx = s.nextCtx := rfl
@[simp] theorem State.modTable_arrivals (s : State) (k : CoreKey) (h : Nat) (f : Timetable → Timetable) : (s.modTable k h f).arrivals = s.arrivals := rfl
@[simp] theorem State.modTable_dies (s : State) (k : CoreKey) (h : Nat) (f : Timetable → Timetable) : (s.modTable k h f).dies = s.dies := rfl
@[simp] theorem State.modTable_mem (s : State) (k : CoreKey) (h : Nat) (f : Timetable → Timetable) : (s.modTable k h f).mem = s.mem := rfl
@[simp] theorem State.modTable_memPoison (s : State) (k : CoreKey) (h : Nat) (f : Timetable → Timetable) : (s.modTable k h f).memPoison = s.memPoison := rfl
@[simp] theorem State.modTable_flights (s : State) (k : CoreKey) (h : Nat) (f : Timetable → Timetable) : (s.modTable k h f).flights = s.flights := rfl
@[simp] theorem State.modTable_windows (s : State) (k : CoreKey) (h : Nat) (f : Timetable → Timetable) : (s.modTable k h f).windows = s.windows := rfl
@[simp] theorem State.modTable_messages (s : State) (k : CoreKey) (h : Nat) (f : Timetable → Timetable) : (s.modTable k h f).messages = s.messages := rfl
@[simp] theorem State.modTable_submitted (s : State) (k : CoreKey) (h : Nat) (f : Timetable → Timetable) : (s.modTable k h f).submitted = s.submitted := rfl
@[simp] theorem State.modTable_episodes (s : State) (k : CoreKey) (h : Nat) (f : Timetable → Timetable) : (s.modTable k h f).episodes = s.episodes := rfl
@[simp] theorem State.modTable_contexts (s : State) (k : CoreKey) (h : Nat) (f : Timetable → Timetable) : (s.modTable k h f).contexts = s.contexts := rfl
@[simp] theorem State.modTable_slices (s : State) (k : CoreKey) (h : Nat) (f : Timetable → Timetable) : (s.modTable k h f).slices = s.slices := rfl
@[simp] theorem State.modTable_handles (s : State) (k : CoreKey) (h : Nat) (f : Timetable → Timetable) : (s.modTable k h f).handles = s.handles := rfl
@[simp] theorem State.modTable_sessions (s : State) (k : CoreKey) (h : Nat) (f : Timetable → Timetable) : (s.modTable k h f).sessions = s.sessions := rfl
@[simp] theorem State.modTable_images (s : State) (k : CoreKey) (h : Nat) (f : Timetable → Timetable) : (s.modTable k h f).images = s.images := rfl
@[simp] theorem State.modTable_firm (s : State) (k : CoreKey) (h : Nat) (f : Timetable → Timetable) : (s.modTable k h f).firm = s.firm := rfl
@[simp] theorem State.modTable_seqOut (s : State) (k : CoreKey) (h : Nat) (f : Timetable → Timetable) : (s.modTable k h f).seqOut = s.seqOut := rfl
@[simp] theorem State.modTable_seqIn (s : State) (k : CoreKey) (h : Nat) (f : Timetable → Timetable) : (s.modTable k h f).seqIn = s.seqIn := rfl

/-! ### State.modReq -/

@[simp] theorem State.modReq_cur (s : State) (k : CoreKey) (i : Nat) (f : Request → Request) : (s.modReq k i f).cur = s.cur := rfl
@[simp] theorem State.modReq_agenda (s : State) (k : CoreKey) (i : Nat) (f : Request → Request) : (s.modReq k i f).agenda = s.agenda := rfl
@[simp] theorem State.modReq_inputs (s : State) (k : CoreKey) (i : Nat) (f : Request → Request) : (s.modReq k i f).inputs = s.inputs := rfl
@[simp] theorem State.modReq_out (s : State) (k : CoreKey) (i : Nat) (f : Request → Request) : (s.modReq k i f).out = s.out := rfl
@[simp] theorem State.modReq_fabricOut (s : State) (k : CoreKey) (i : Nat) (f : Request → Request) : (s.modReq k i f).fabricOut = s.fabricOut := rfl
@[simp] theorem State.modReq_free (s : State) (k : CoreKey) (i : Nat) (f : Request → Request) : (s.modReq k i f).free = s.free := rfl
@[simp] theorem State.modReq_fresh (s : State) (k : CoreKey) (i : Nat) (f : Request → Request) : (s.modReq k i f).fresh = s.fresh := rfl
@[simp] theorem State.modReq_nextCtx (s : State) (k : CoreKey) (i : Nat) (f : Request → Request) : (s.modReq k i f).nextCtx = s.nextCtx := rfl
@[simp] theorem State.modReq_arrivals (s : State) (k : CoreKey) (i : Nat) (f : Request → Request) : (s.modReq k i f).arrivals = s.arrivals := rfl
@[simp] theorem State.modReq_dies (s : State) (k : CoreKey) (i : Nat) (f : Request → Request) : (s.modReq k i f).dies = s.dies := rfl
@[simp] theorem State.modReq_mem (s : State) (k : CoreKey) (i : Nat) (f : Request → Request) : (s.modReq k i f).mem = s.mem := rfl
@[simp] theorem State.modReq_memPoison (s : State) (k : CoreKey) (i : Nat) (f : Request → Request) : (s.modReq k i f).memPoison = s.memPoison := rfl
@[simp] theorem State.modReq_flights (s : State) (k : CoreKey) (i : Nat) (f : Request → Request) : (s.modReq k i f).flights = s.flights := rfl
@[simp] theorem State.modReq_windows (s : State) (k : CoreKey) (i : Nat) (f : Request → Request) : (s.modReq k i f).windows = s.windows := rfl
@[simp] theorem State.modReq_messages (s : State) (k : CoreKey) (i : Nat) (f : Request → Request) : (s.modReq k i f).messages = s.messages := rfl
@[simp] theorem State.modReq_submitted (s : State) (k : CoreKey) (i : Nat) (f : Request → Request) : (s.modReq k i f).submitted = s.submitted := rfl
@[simp] theorem State.modReq_episodes (s : State) (k : CoreKey) (i : Nat) (f : Request → Request) : (s.modReq k i f).episodes = s.episodes := rfl
@[simp] theorem State.modReq_contexts (s : State) (k : CoreKey) (i : Nat) (f : Request → Request) : (s.modReq k i f).contexts = s.contexts := rfl
@[simp] theorem State.modReq_slices (s : State) (k : CoreKey) (i : Nat) (f : Request → Request) : (s.modReq k i f).slices = s.slices := rfl
@[simp] theorem State.modReq_handles (s : State) (k : CoreKey) (i : Nat) (f : Request → Request) : (s.modReq k i f).handles = s.handles := rfl
@[simp] theorem State.modReq_sessions (s : State) (k : CoreKey) (i : Nat) (f : Request → Request) : (s.modReq k i f).sessions = s.sessions := rfl
@[simp] theorem State.modReq_images (s : State) (k : CoreKey) (i : Nat) (f : Request → Request) : (s.modReq k i f).images = s.images := rfl
@[simp] theorem State.modReq_firm (s : State) (k : CoreKey) (i : Nat) (f : Request → Request) : (s.modReq k i f).firm = s.firm := rfl
@[simp] theorem State.modReq_seqOut (s : State) (k : CoreKey) (i : Nat) (f : Request → Request) : (s.modReq k i f).seqOut = s.seqOut := rfl
@[simp] theorem State.modReq_seqIn (s : State) (k : CoreKey) (i : Nat) (f : Request → Request) : (s.modReq k i f).seqIn = s.seqIn := rfl

/-! ### State.learn -/

@[simp] theorem State.learn_cur (s : State) (k : CoreKey) (t : Fin 8) (l : List Known) : (s.learn k t l).cur = s.cur := by
  unfold State.learn; split <;> rfl
@[simp] theorem State.learn_agenda (s : State) (k : CoreKey) (t : Fin 8) (l : List Known) : (s.learn k t l).agenda = s.agenda := by
  unfold State.learn; split <;> rfl
@[simp] theorem State.learn_inputs (s : State) (k : CoreKey) (t : Fin 8) (l : List Known) : (s.learn k t l).inputs = s.inputs := by
  unfold State.learn; split <;> rfl
@[simp] theorem State.learn_out (s : State) (k : CoreKey) (t : Fin 8) (l : List Known) : (s.learn k t l).out = s.out := by
  unfold State.learn; split <;> rfl
@[simp] theorem State.learn_fabricOut (s : State) (k : CoreKey) (t : Fin 8) (l : List Known) : (s.learn k t l).fabricOut = s.fabricOut := by
  unfold State.learn; split <;> rfl
@[simp] theorem State.learn_free (s : State) (k : CoreKey) (t : Fin 8) (l : List Known) : (s.learn k t l).free = s.free := by
  unfold State.learn; split <;> rfl
@[simp] theorem State.learn_fresh (s : State) (k : CoreKey) (t : Fin 8) (l : List Known) : (s.learn k t l).fresh = s.fresh := by
  unfold State.learn; split <;> rfl
@[simp] theorem State.learn_nextCtx (s : State) (k : CoreKey) (t : Fin 8) (l : List Known) : (s.learn k t l).nextCtx = s.nextCtx := by
  unfold State.learn; split <;> rfl
@[simp] theorem State.learn_arrivals (s : State) (k : CoreKey) (t : Fin 8) (l : List Known) : (s.learn k t l).arrivals = s.arrivals := by
  unfold State.learn; split <;> rfl
@[simp] theorem State.learn_dies (s : State) (k : CoreKey) (t : Fin 8) (l : List Known) : (s.learn k t l).dies = s.dies := by
  unfold State.learn; split <;> rfl
@[simp] theorem State.learn_mem (s : State) (k : CoreKey) (t : Fin 8) (l : List Known) : (s.learn k t l).mem = s.mem := by
  unfold State.learn; split <;> rfl
@[simp] theorem State.learn_memPoison (s : State) (k : CoreKey) (t : Fin 8) (l : List Known) : (s.learn k t l).memPoison = s.memPoison := by
  unfold State.learn; split <;> rfl
@[simp] theorem State.learn_flights (s : State) (k : CoreKey) (t : Fin 8) (l : List Known) : (s.learn k t l).flights = s.flights := by
  unfold State.learn; split <;> rfl
@[simp] theorem State.learn_windows (s : State) (k : CoreKey) (t : Fin 8) (l : List Known) : (s.learn k t l).windows = s.windows := by
  unfold State.learn; split <;> rfl
@[simp] theorem State.learn_messages (s : State) (k : CoreKey) (t : Fin 8) (l : List Known) : (s.learn k t l).messages = s.messages := by
  unfold State.learn; split <;> rfl
@[simp] theorem State.learn_submitted (s : State) (k : CoreKey) (t : Fin 8) (l : List Known) : (s.learn k t l).submitted = s.submitted := by
  unfold State.learn; split <;> rfl
@[simp] theorem State.learn_episodes (s : State) (k : CoreKey) (t : Fin 8) (l : List Known) : (s.learn k t l).episodes = s.episodes := by
  unfold State.learn; split <;> rfl
@[simp] theorem State.learn_contexts (s : State) (k : CoreKey) (t : Fin 8) (l : List Known) : (s.learn k t l).contexts = s.contexts := by
  unfold State.learn; split <;> rfl
@[simp] theorem State.learn_slices (s : State) (k : CoreKey) (t : Fin 8) (l : List Known) : (s.learn k t l).slices = s.slices := by
  unfold State.learn; split <;> rfl
@[simp] theorem State.learn_handles (s : State) (k : CoreKey) (t : Fin 8) (l : List Known) : (s.learn k t l).handles = s.handles := by
  unfold State.learn; split <;> rfl
@[simp] theorem State.learn_sessions (s : State) (k : CoreKey) (t : Fin 8) (l : List Known) : (s.learn k t l).sessions = s.sessions := by
  unfold State.learn; split <;> rfl
@[simp] theorem State.learn_images (s : State) (k : CoreKey) (t : Fin 8) (l : List Known) : (s.learn k t l).images = s.images := by
  unfold State.learn; split <;> rfl
@[simp] theorem State.learn_firm (s : State) (k : CoreKey) (t : Fin 8) (l : List Known) : (s.learn k t l).firm = s.firm := by
  unfold State.learn; split <;> rfl
@[simp] theorem State.learn_seqOut (s : State) (k : CoreKey) (t : Fin 8) (l : List Known) : (s.learn k t l).seqOut = s.seqOut := by
  unfold State.learn; split <;> rfl
@[simp] theorem State.learn_seqIn (s : State) (k : CoreKey) (t : Fin 8) (l : List Known) : (s.learn k t l).seqIn = s.seqIn := by
  unfold State.learn; split <;> rfl

/-! ### State.acquire -/

@[simp] theorem State.acquire_cur (s : State) (k : CoreKey) (t : Fin 8) (l p : Nat) : (s.acquire k t l p).cur = s.cur := State.learn_cur s k t _
@[simp] theorem State.acquire_agenda (s : State) (k : CoreKey) (t : Fin 8) (l p : Nat) : (s.acquire k t l p).agenda = s.agenda := State.learn_agenda s k t _
@[simp] theorem State.acquire_inputs (s : State) (k : CoreKey) (t : Fin 8) (l p : Nat) : (s.acquire k t l p).inputs = s.inputs := State.learn_inputs s k t _
@[simp] theorem State.acquire_out (s : State) (k : CoreKey) (t : Fin 8) (l p : Nat) : (s.acquire k t l p).out = s.out := State.learn_out s k t _
@[simp] theorem State.acquire_fabricOut (s : State) (k : CoreKey) (t : Fin 8) (l p : Nat) : (s.acquire k t l p).fabricOut = s.fabricOut := State.learn_fabricOut s k t _
@[simp] theorem State.acquire_free (s : State) (k : CoreKey) (t : Fin 8) (l p : Nat) : (s.acquire k t l p).free = s.free := State.learn_free s k t _
@[simp] theorem State.acquire_fresh (s : State) (k : CoreKey) (t : Fin 8) (l p : Nat) : (s.acquire k t l p).fresh = s.fresh := State.learn_fresh s k t _
@[simp] theorem State.acquire_nextCtx (s : State) (k : CoreKey) (t : Fin 8) (l p : Nat) : (s.acquire k t l p).nextCtx = s.nextCtx := State.learn_nextCtx s k t _
@[simp] theorem State.acquire_arrivals (s : State) (k : CoreKey) (t : Fin 8) (l p : Nat) : (s.acquire k t l p).arrivals = s.arrivals := State.learn_arrivals s k t _
@[simp] theorem State.acquire_dies (s : State) (k : CoreKey) (t : Fin 8) (l p : Nat) : (s.acquire k t l p).dies = s.dies := State.learn_dies s k t _
@[simp] theorem State.acquire_mem (s : State) (k : CoreKey) (t : Fin 8) (l p : Nat) : (s.acquire k t l p).mem = s.mem := State.learn_mem s k t _
@[simp] theorem State.acquire_memPoison (s : State) (k : CoreKey) (t : Fin 8) (l p : Nat) : (s.acquire k t l p).memPoison = s.memPoison := State.learn_memPoison s k t _
@[simp] theorem State.acquire_flights (s : State) (k : CoreKey) (t : Fin 8) (l p : Nat) : (s.acquire k t l p).flights = s.flights := State.learn_flights s k t _
@[simp] theorem State.acquire_windows (s : State) (k : CoreKey) (t : Fin 8) (l p : Nat) : (s.acquire k t l p).windows = s.windows := State.learn_windows s k t _
@[simp] theorem State.acquire_messages (s : State) (k : CoreKey) (t : Fin 8) (l p : Nat) : (s.acquire k t l p).messages = s.messages := State.learn_messages s k t _
@[simp] theorem State.acquire_submitted (s : State) (k : CoreKey) (t : Fin 8) (l p : Nat) : (s.acquire k t l p).submitted = s.submitted := State.learn_submitted s k t _
@[simp] theorem State.acquire_episodes (s : State) (k : CoreKey) (t : Fin 8) (l p : Nat) : (s.acquire k t l p).episodes = s.episodes := State.learn_episodes s k t _
@[simp] theorem State.acquire_contexts (s : State) (k : CoreKey) (t : Fin 8) (l p : Nat) : (s.acquire k t l p).contexts = s.contexts := State.learn_contexts s k t _
@[simp] theorem State.acquire_slices (s : State) (k : CoreKey) (t : Fin 8) (l p : Nat) : (s.acquire k t l p).slices = s.slices := State.learn_slices s k t _
@[simp] theorem State.acquire_handles (s : State) (k : CoreKey) (t : Fin 8) (l p : Nat) : (s.acquire k t l p).handles = s.handles := State.learn_handles s k t _
@[simp] theorem State.acquire_sessions (s : State) (k : CoreKey) (t : Fin 8) (l p : Nat) : (s.acquire k t l p).sessions = s.sessions := State.learn_sessions s k t _
@[simp] theorem State.acquire_images (s : State) (k : CoreKey) (t : Fin 8) (l p : Nat) : (s.acquire k t l p).images = s.images := State.learn_images s k t _
@[simp] theorem State.acquire_firm (s : State) (k : CoreKey) (t : Fin 8) (l p : Nat) : (s.acquire k t l p).firm = s.firm := State.learn_firm s k t _
@[simp] theorem State.acquire_seqOut (s : State) (k : CoreKey) (t : Fin 8) (l p : Nat) : (s.acquire k t l p).seqOut = s.seqOut := State.learn_seqOut s k t _
@[simp] theorem State.acquire_seqIn (s : State) (k : CoreKey) (t : Fin 8) (l p : Nat) : (s.acquire k t l p).seqIn = s.seqIn := State.learn_seqIn s k t _

/-! ### State.noteRead -/

@[simp] theorem State.noteRead_cur (s : State) (x a n : Nat) : (s.noteRead x a n).cur = s.cur := rfl
@[simp] theorem State.noteRead_agenda (s : State) (x a n : Nat) : (s.noteRead x a n).agenda = s.agenda := rfl
@[simp] theorem State.noteRead_inputs (s : State) (x a n : Nat) : (s.noteRead x a n).inputs = s.inputs := rfl
@[simp] theorem State.noteRead_out (s : State) (x a n : Nat) : (s.noteRead x a n).out = s.out := rfl
@[simp] theorem State.noteRead_fabricOut (s : State) (x a n : Nat) : (s.noteRead x a n).fabricOut = s.fabricOut := rfl
@[simp] theorem State.noteRead_free (s : State) (x a n : Nat) : (s.noteRead x a n).free = s.free := rfl
@[simp] theorem State.noteRead_fresh (s : State) (x a n : Nat) : (s.noteRead x a n).fresh = s.fresh := rfl
@[simp] theorem State.noteRead_nextCtx (s : State) (x a n : Nat) : (s.noteRead x a n).nextCtx = s.nextCtx := rfl
@[simp] theorem State.noteRead_arrivals (s : State) (x a n : Nat) : (s.noteRead x a n).arrivals = s.arrivals := rfl
@[simp] theorem State.noteRead_dies (s : State) (x a n : Nat) : (s.noteRead x a n).dies = s.dies := rfl
@[simp] theorem State.noteRead_mem (s : State) (x a n : Nat) : (s.noteRead x a n).mem = s.mem := rfl
@[simp] theorem State.noteRead_memPoison (s : State) (x a n : Nat) : (s.noteRead x a n).memPoison = s.memPoison := rfl
@[simp] theorem State.noteRead_flights (s : State) (x a n : Nat) : (s.noteRead x a n).flights = s.flights := rfl
@[simp] theorem State.noteRead_windows (s : State) (x a n : Nat) : (s.noteRead x a n).windows = s.windows := rfl
@[simp] theorem State.noteRead_messages (s : State) (x a n : Nat) : (s.noteRead x a n).messages = s.messages := rfl
@[simp] theorem State.noteRead_submitted (s : State) (x a n : Nat) : (s.noteRead x a n).submitted = s.submitted := rfl
@[simp] theorem State.noteRead_episodes (s : State) (x a n : Nat) : (s.noteRead x a n).episodes = s.episodes := rfl
@[simp] theorem State.noteRead_contexts (s : State) (x a n : Nat) : (s.noteRead x a n).contexts = s.contexts := rfl
@[simp] theorem State.noteRead_slices (s : State) (x a n : Nat) : (s.noteRead x a n).slices = s.slices := rfl
@[simp] theorem State.noteRead_handles (s : State) (x a n : Nat) : (s.noteRead x a n).handles = s.handles := rfl
@[simp] theorem State.noteRead_sessions (s : State) (x a n : Nat) : (s.noteRead x a n).sessions = s.sessions := rfl
@[simp] theorem State.noteRead_images (s : State) (x a n : Nat) : (s.noteRead x a n).images = s.images := rfl
@[simp] theorem State.noteRead_firm (s : State) (x a n : Nat) : (s.noteRead x a n).firm = s.firm := rfl
@[simp] theorem State.noteRead_seqOut (s : State) (x a n : Nat) : (s.noteRead x a n).seqOut = s.seqOut := rfl
@[simp] theorem State.noteRead_seqIn (s : State) (x a n : Nat) : (s.noteRead x a n).seqIn = s.seqIn := rfl

/-! ### State.share -/

@[simp] theorem State.share_cur (s : State) (k : CoreKey) (t : Fin 8) : (s.share k t).cur = s.cur := rfl
@[simp] theorem State.share_agenda (s : State) (k : CoreKey) (t : Fin 8) : (s.share k t).agenda = s.agenda := rfl
@[simp] theorem State.share_inputs (s : State) (k : CoreKey) (t : Fin 8) : (s.share k t).inputs = s.inputs := rfl
@[simp] theorem State.share_out (s : State) (k : CoreKey) (t : Fin 8) : (s.share k t).out = s.out := rfl
@[simp] theorem State.share_fabricOut (s : State) (k : CoreKey) (t : Fin 8) : (s.share k t).fabricOut = s.fabricOut := rfl
@[simp] theorem State.share_free (s : State) (k : CoreKey) (t : Fin 8) : (s.share k t).free = s.free := rfl
@[simp] theorem State.share_fresh (s : State) (k : CoreKey) (t : Fin 8) : (s.share k t).fresh = s.fresh := rfl
@[simp] theorem State.share_nextCtx (s : State) (k : CoreKey) (t : Fin 8) : (s.share k t).nextCtx = s.nextCtx := rfl
@[simp] theorem State.share_arrivals (s : State) (k : CoreKey) (t : Fin 8) : (s.share k t).arrivals = s.arrivals := rfl
@[simp] theorem State.share_dies (s : State) (k : CoreKey) (t : Fin 8) : (s.share k t).dies = s.dies := rfl
@[simp] theorem State.share_mem (s : State) (k : CoreKey) (t : Fin 8) : (s.share k t).mem = s.mem := rfl
@[simp] theorem State.share_memPoison (s : State) (k : CoreKey) (t : Fin 8) : (s.share k t).memPoison = s.memPoison := rfl
@[simp] theorem State.share_flights (s : State) (k : CoreKey) (t : Fin 8) : (s.share k t).flights = s.flights := rfl
@[simp] theorem State.share_windows (s : State) (k : CoreKey) (t : Fin 8) : (s.share k t).windows = s.windows := rfl
@[simp] theorem State.share_messages (s : State) (k : CoreKey) (t : Fin 8) : (s.share k t).messages = s.messages := rfl
@[simp] theorem State.share_submitted (s : State) (k : CoreKey) (t : Fin 8) : (s.share k t).submitted = s.submitted := rfl
@[simp] theorem State.share_episodes (s : State) (k : CoreKey) (t : Fin 8) : (s.share k t).episodes = s.episodes := rfl
@[simp] theorem State.share_contexts (s : State) (k : CoreKey) (t : Fin 8) : (s.share k t).contexts = s.contexts := rfl
@[simp] theorem State.share_slices (s : State) (k : CoreKey) (t : Fin 8) : (s.share k t).slices = s.slices := rfl
@[simp] theorem State.share_handles (s : State) (k : CoreKey) (t : Fin 8) : (s.share k t).handles = s.handles := rfl
@[simp] theorem State.share_sessions (s : State) (k : CoreKey) (t : Fin 8) : (s.share k t).sessions = s.sessions := rfl
@[simp] theorem State.share_images (s : State) (k : CoreKey) (t : Fin 8) : (s.share k t).images = s.images := rfl
@[simp] theorem State.share_firm (s : State) (k : CoreKey) (t : Fin 8) : (s.share k t).firm = s.firm := rfl
@[simp] theorem State.share_seqOut (s : State) (k : CoreKey) (t : Fin 8) : (s.share k t).seqOut = s.seqOut := rfl
@[simp] theorem State.share_seqIn (s : State) (k : CoreKey) (t : Fin 8) : (s.share k t).seqIn = s.seqIn := rfl

/-! ### State.setSession -/

@[simp] theorem State.setSession_core (s : State) (x : Session) : (s.setSession x).core = s.core := rfl
@[simp] theorem State.setSession_others (s : State) (x : Session) : (s.setSession x).others = s.others := rfl
@[simp] theorem State.setSession_cur (s : State) (x : Session) : (s.setSession x).cur = s.cur := rfl
@[simp] theorem State.setSession_agenda (s : State) (x : Session) : (s.setSession x).agenda = s.agenda := rfl
@[simp] theorem State.setSession_inputs (s : State) (x : Session) : (s.setSession x).inputs = s.inputs := rfl
@[simp] theorem State.setSession_out (s : State) (x : Session) : (s.setSession x).out = s.out := rfl
@[simp] theorem State.setSession_fabricOut (s : State) (x : Session) : (s.setSession x).fabricOut = s.fabricOut := rfl
@[simp] theorem State.setSession_free (s : State) (x : Session) : (s.setSession x).free = s.free := rfl
@[simp] theorem State.setSession_fresh (s : State) (x : Session) : (s.setSession x).fresh = s.fresh := rfl
@[simp] theorem State.setSession_nextCtx (s : State) (x : Session) : (s.setSession x).nextCtx = s.nextCtx := rfl
@[simp] theorem State.setSession_arrivals (s : State) (x : Session) : (s.setSession x).arrivals = s.arrivals := rfl
@[simp] theorem State.setSession_dies (s : State) (x : Session) : (s.setSession x).dies = s.dies := rfl
@[simp] theorem State.setSession_mem (s : State) (x : Session) : (s.setSession x).mem = s.mem := rfl
@[simp] theorem State.setSession_memPoison (s : State) (x : Session) : (s.setSession x).memPoison = s.memPoison := rfl
@[simp] theorem State.setSession_flights (s : State) (x : Session) : (s.setSession x).flights = s.flights := rfl
@[simp] theorem State.setSession_windows (s : State) (x : Session) : (s.setSession x).windows = s.windows := rfl
@[simp] theorem State.setSession_messages (s : State) (x : Session) : (s.setSession x).messages = s.messages := rfl
@[simp] theorem State.setSession_submitted (s : State) (x : Session) : (s.setSession x).submitted = s.submitted := rfl
@[simp] theorem State.setSession_episodes (s : State) (x : Session) : (s.setSession x).episodes = s.episodes := rfl
@[simp] theorem State.setSession_contexts (s : State) (x : Session) : (s.setSession x).contexts = s.contexts := rfl
@[simp] theorem State.setSession_slices (s : State) (x : Session) : (s.setSession x).slices = s.slices := rfl
@[simp] theorem State.setSession_handles (s : State) (x : Session) : (s.setSession x).handles = s.handles := rfl
@[simp] theorem State.setSession_images (s : State) (x : Session) : (s.setSession x).images = s.images := rfl
@[simp] theorem State.setSession_firm (s : State) (x : Session) : (s.setSession x).firm = s.firm := rfl
@[simp] theorem State.setSession_seqOut (s : State) (x : Session) : (s.setSession x).seqOut = s.seqOut := rfl
@[simp] theorem State.setSession_seqIn (s : State) (x : Session) : (s.setSession x).seqIn = s.seqIn := rfl

/-! ### State.firmWrite -/

@[simp] theorem State.firmWrite_core (s : State) (a n v : Nat) : (s.firmWrite a n v).core = s.core := rfl
@[simp] theorem State.firmWrite_others (s : State) (a n v : Nat) : (s.firmWrite a n v).others = s.others := rfl
@[simp] theorem State.firmWrite_cur (s : State) (a n v : Nat) : (s.firmWrite a n v).cur = s.cur := rfl
@[simp] theorem State.firmWrite_agenda (s : State) (a n v : Nat) : (s.firmWrite a n v).agenda = s.agenda := rfl
@[simp] theorem State.firmWrite_inputs (s : State) (a n v : Nat) : (s.firmWrite a n v).inputs = s.inputs := rfl
@[simp] theorem State.firmWrite_out (s : State) (a n v : Nat) : (s.firmWrite a n v).out = s.out := rfl
@[simp] theorem State.firmWrite_fabricOut (s : State) (a n v : Nat) : (s.firmWrite a n v).fabricOut = s.fabricOut := rfl
@[simp] theorem State.firmWrite_free (s : State) (a n v : Nat) : (s.firmWrite a n v).free = s.free := rfl
@[simp] theorem State.firmWrite_fresh (s : State) (a n v : Nat) : (s.firmWrite a n v).fresh = s.fresh := rfl
@[simp] theorem State.firmWrite_nextCtx (s : State) (a n v : Nat) : (s.firmWrite a n v).nextCtx = s.nextCtx := rfl
@[simp] theorem State.firmWrite_arrivals (s : State) (a n v : Nat) : (s.firmWrite a n v).arrivals = s.arrivals := rfl
@[simp] theorem State.firmWrite_dies (s : State) (a n v : Nat) : (s.firmWrite a n v).dies = s.dies := rfl
@[simp] theorem State.firmWrite_memPoison (s : State) (a n v : Nat) : (s.firmWrite a n v).memPoison = s.memPoison := rfl
@[simp] theorem State.firmWrite_flights (s : State) (a n v : Nat) : (s.firmWrite a n v).flights = s.flights := rfl
@[simp] theorem State.firmWrite_windows (s : State) (a n v : Nat) : (s.firmWrite a n v).windows = s.windows := rfl
@[simp] theorem State.firmWrite_messages (s : State) (a n v : Nat) : (s.firmWrite a n v).messages = s.messages := rfl
@[simp] theorem State.firmWrite_submitted (s : State) (a n v : Nat) : (s.firmWrite a n v).submitted = s.submitted := rfl
@[simp] theorem State.firmWrite_episodes (s : State) (a n v : Nat) : (s.firmWrite a n v).episodes = s.episodes := rfl
@[simp] theorem State.firmWrite_contexts (s : State) (a n v : Nat) : (s.firmWrite a n v).contexts = s.contexts := rfl
@[simp] theorem State.firmWrite_slices (s : State) (a n v : Nat) : (s.firmWrite a n v).slices = s.slices := rfl
@[simp] theorem State.firmWrite_handles (s : State) (a n v : Nat) : (s.firmWrite a n v).handles = s.handles := rfl
@[simp] theorem State.firmWrite_sessions (s : State) (a n v : Nat) : (s.firmWrite a n v).sessions = s.sessions := rfl
@[simp] theorem State.firmWrite_images (s : State) (a n v : Nat) : (s.firmWrite a n v).images = s.images := rfl
@[simp] theorem State.firmWrite_firm (s : State) (a n v : Nat) : (s.firmWrite a n v).firm = s.firm := rfl
@[simp] theorem State.firmWrite_seqOut (s : State) (a n v : Nat) : (s.firmWrite a n v).seqOut = s.seqOut := rfl
@[simp] theorem State.firmWrite_seqIn (s : State) (a n v : Nat) : (s.firmWrite a n v).seqIn = s.seqIn := rfl

/-! ### State.setTcb -/

@[simp] theorem State.setTcb_core (s : State) (sl : Fin 8) (o v : Nat) : (s.setTcb sl o v).core = s.core := rfl
@[simp] theorem State.setTcb_others (s : State) (sl : Fin 8) (o v : Nat) : (s.setTcb sl o v).others = s.others := rfl
@[simp] theorem State.setTcb_cur (s : State) (sl : Fin 8) (o v : Nat) : (s.setTcb sl o v).cur = s.cur := rfl
@[simp] theorem State.setTcb_agenda (s : State) (sl : Fin 8) (o v : Nat) : (s.setTcb sl o v).agenda = s.agenda := rfl
@[simp] theorem State.setTcb_inputs (s : State) (sl : Fin 8) (o v : Nat) : (s.setTcb sl o v).inputs = s.inputs := rfl
@[simp] theorem State.setTcb_out (s : State) (sl : Fin 8) (o v : Nat) : (s.setTcb sl o v).out = s.out := rfl
@[simp] theorem State.setTcb_fabricOut (s : State) (sl : Fin 8) (o v : Nat) : (s.setTcb sl o v).fabricOut = s.fabricOut := rfl
@[simp] theorem State.setTcb_free (s : State) (sl : Fin 8) (o v : Nat) : (s.setTcb sl o v).free = s.free := rfl
@[simp] theorem State.setTcb_fresh (s : State) (sl : Fin 8) (o v : Nat) : (s.setTcb sl o v).fresh = s.fresh := rfl
@[simp] theorem State.setTcb_nextCtx (s : State) (sl : Fin 8) (o v : Nat) : (s.setTcb sl o v).nextCtx = s.nextCtx := rfl
@[simp] theorem State.setTcb_arrivals (s : State) (sl : Fin 8) (o v : Nat) : (s.setTcb sl o v).arrivals = s.arrivals := rfl
@[simp] theorem State.setTcb_dies (s : State) (sl : Fin 8) (o v : Nat) : (s.setTcb sl o v).dies = s.dies := rfl
@[simp] theorem State.setTcb_memPoison (s : State) (sl : Fin 8) (o v : Nat) : (s.setTcb sl o v).memPoison = s.memPoison := rfl
@[simp] theorem State.setTcb_flights (s : State) (sl : Fin 8) (o v : Nat) : (s.setTcb sl o v).flights = s.flights := rfl
@[simp] theorem State.setTcb_windows (s : State) (sl : Fin 8) (o v : Nat) : (s.setTcb sl o v).windows = s.windows := rfl
@[simp] theorem State.setTcb_messages (s : State) (sl : Fin 8) (o v : Nat) : (s.setTcb sl o v).messages = s.messages := rfl
@[simp] theorem State.setTcb_submitted (s : State) (sl : Fin 8) (o v : Nat) : (s.setTcb sl o v).submitted = s.submitted := rfl
@[simp] theorem State.setTcb_episodes (s : State) (sl : Fin 8) (o v : Nat) : (s.setTcb sl o v).episodes = s.episodes := rfl
@[simp] theorem State.setTcb_contexts (s : State) (sl : Fin 8) (o v : Nat) : (s.setTcb sl o v).contexts = s.contexts := rfl
@[simp] theorem State.setTcb_slices (s : State) (sl : Fin 8) (o v : Nat) : (s.setTcb sl o v).slices = s.slices := rfl
@[simp] theorem State.setTcb_handles (s : State) (sl : Fin 8) (o v : Nat) : (s.setTcb sl o v).handles = s.handles := rfl
@[simp] theorem State.setTcb_sessions (s : State) (sl : Fin 8) (o v : Nat) : (s.setTcb sl o v).sessions = s.sessions := rfl
@[simp] theorem State.setTcb_images (s : State) (sl : Fin 8) (o v : Nat) : (s.setTcb sl o v).images = s.images := rfl
@[simp] theorem State.setTcb_firm (s : State) (sl : Fin 8) (o v : Nat) : (s.setTcb sl o v).firm = s.firm := rfl
@[simp] theorem State.setTcb_seqOut (s : State) (sl : Fin 8) (o v : Nat) : (s.setTcb sl o v).seqOut = s.seqOut := rfl
@[simp] theorem State.setTcb_seqIn (s : State) (sl : Fin 8) (o v : Nat) : (s.setTcb sl o v).seqIn = s.seqIn := rfl

/-! ### State.setS -/

@[simp] theorem State.setS_others (s : State) (d : SReg) (v : Word) : (s.setS d v).others = s.others := rfl
@[simp] theorem State.setS_cur (s : State) (d : SReg) (v : Word) : (s.setS d v).cur = s.cur := rfl
@[simp] theorem State.setS_agenda (s : State) (d : SReg) (v : Word) : (s.setS d v).agenda = s.agenda := rfl
@[simp] theorem State.setS_inputs (s : State) (d : SReg) (v : Word) : (s.setS d v).inputs = s.inputs := rfl
@[simp] theorem State.setS_out (s : State) (d : SReg) (v : Word) : (s.setS d v).out = s.out := rfl
@[simp] theorem State.setS_fabricOut (s : State) (d : SReg) (v : Word) : (s.setS d v).fabricOut = s.fabricOut := rfl
@[simp] theorem State.setS_free (s : State) (d : SReg) (v : Word) : (s.setS d v).free = s.free := rfl
@[simp] theorem State.setS_fresh (s : State) (d : SReg) (v : Word) : (s.setS d v).fresh = s.fresh := rfl
@[simp] theorem State.setS_nextCtx (s : State) (d : SReg) (v : Word) : (s.setS d v).nextCtx = s.nextCtx := rfl
@[simp] theorem State.setS_arrivals (s : State) (d : SReg) (v : Word) : (s.setS d v).arrivals = s.arrivals := rfl
@[simp] theorem State.setS_dies (s : State) (d : SReg) (v : Word) : (s.setS d v).dies = s.dies := rfl
@[simp] theorem State.setS_mem (s : State) (d : SReg) (v : Word) : (s.setS d v).mem = s.mem := rfl
@[simp] theorem State.setS_memPoison (s : State) (d : SReg) (v : Word) : (s.setS d v).memPoison = s.memPoison := rfl
@[simp] theorem State.setS_flights (s : State) (d : SReg) (v : Word) : (s.setS d v).flights = s.flights := rfl
@[simp] theorem State.setS_windows (s : State) (d : SReg) (v : Word) : (s.setS d v).windows = s.windows := rfl
@[simp] theorem State.setS_messages (s : State) (d : SReg) (v : Word) : (s.setS d v).messages = s.messages := rfl
@[simp] theorem State.setS_submitted (s : State) (d : SReg) (v : Word) : (s.setS d v).submitted = s.submitted := rfl
@[simp] theorem State.setS_episodes (s : State) (d : SReg) (v : Word) : (s.setS d v).episodes = s.episodes := rfl
@[simp] theorem State.setS_contexts (s : State) (d : SReg) (v : Word) : (s.setS d v).contexts = s.contexts := rfl
@[simp] theorem State.setS_slices (s : State) (d : SReg) (v : Word) : (s.setS d v).slices = s.slices := rfl
@[simp] theorem State.setS_handles (s : State) (d : SReg) (v : Word) : (s.setS d v).handles = s.handles := rfl
@[simp] theorem State.setS_sessions (s : State) (d : SReg) (v : Word) : (s.setS d v).sessions = s.sessions := rfl
@[simp] theorem State.setS_images (s : State) (d : SReg) (v : Word) : (s.setS d v).images = s.images := rfl
@[simp] theorem State.setS_firm (s : State) (d : SReg) (v : Word) : (s.setS d v).firm = s.firm := rfl
@[simp] theorem State.setS_seqOut (s : State) (d : SReg) (v : Word) : (s.setS d v).seqOut = s.seqOut := rfl
@[simp] theorem State.setS_seqIn (s : State) (d : SReg) (v : Word) : (s.setS d v).seqIn = s.seqIn := rfl

/-! ### State.setK -/

@[simp] theorem State.setK_others (s : State) (d : KReg) (v : Word) : (s.setK d v).others = s.others := rfl
@[simp] theorem State.setK_cur (s : State) (d : KReg) (v : Word) : (s.setK d v).cur = s.cur := rfl
@[simp] theorem State.setK_agenda (s : State) (d : KReg) (v : Word) : (s.setK d v).agenda = s.agenda := rfl
@[simp] theorem State.setK_inputs (s : State) (d : KReg) (v : Word) : (s.setK d v).inputs = s.inputs := rfl
@[simp] theorem State.setK_out (s : State) (d : KReg) (v : Word) : (s.setK d v).out = s.out := rfl
@[simp] theorem State.setK_fabricOut (s : State) (d : KReg) (v : Word) : (s.setK d v).fabricOut = s.fabricOut := rfl
@[simp] theorem State.setK_free (s : State) (d : KReg) (v : Word) : (s.setK d v).free = s.free := rfl
@[simp] theorem State.setK_fresh (s : State) (d : KReg) (v : Word) : (s.setK d v).fresh = s.fresh := rfl
@[simp] theorem State.setK_nextCtx (s : State) (d : KReg) (v : Word) : (s.setK d v).nextCtx = s.nextCtx := rfl
@[simp] theorem State.setK_arrivals (s : State) (d : KReg) (v : Word) : (s.setK d v).arrivals = s.arrivals := rfl
@[simp] theorem State.setK_dies (s : State) (d : KReg) (v : Word) : (s.setK d v).dies = s.dies := rfl
@[simp] theorem State.setK_mem (s : State) (d : KReg) (v : Word) : (s.setK d v).mem = s.mem := rfl
@[simp] theorem State.setK_memPoison (s : State) (d : KReg) (v : Word) : (s.setK d v).memPoison = s.memPoison := rfl
@[simp] theorem State.setK_flights (s : State) (d : KReg) (v : Word) : (s.setK d v).flights = s.flights := rfl
@[simp] theorem State.setK_windows (s : State) (d : KReg) (v : Word) : (s.setK d v).windows = s.windows := rfl
@[simp] theorem State.setK_messages (s : State) (d : KReg) (v : Word) : (s.setK d v).messages = s.messages := rfl
@[simp] theorem State.setK_submitted (s : State) (d : KReg) (v : Word) : (s.setK d v).submitted = s.submitted := rfl
@[simp] theorem State.setK_episodes (s : State) (d : KReg) (v : Word) : (s.setK d v).episodes = s.episodes := rfl
@[simp] theorem State.setK_contexts (s : State) (d : KReg) (v : Word) : (s.setK d v).contexts = s.contexts := rfl
@[simp] theorem State.setK_slices (s : State) (d : KReg) (v : Word) : (s.setK d v).slices = s.slices := rfl
@[simp] theorem State.setK_handles (s : State) (d : KReg) (v : Word) : (s.setK d v).handles = s.handles := rfl
@[simp] theorem State.setK_sessions (s : State) (d : KReg) (v : Word) : (s.setK d v).sessions = s.sessions := rfl
@[simp] theorem State.setK_images (s : State) (d : KReg) (v : Word) : (s.setK d v).images = s.images := rfl
@[simp] theorem State.setK_firm (s : State) (d : KReg) (v : Word) : (s.setK d v).firm = s.firm := rfl
@[simp] theorem State.setK_seqOut (s : State) (d : KReg) (v : Word) : (s.setK d v).seqOut = s.seqOut := rfl
@[simp] theorem State.setK_seqIn (s : State) (d : KReg) (v : Word) : (s.setK d v).seqIn = s.seqIn := rfl

/-! ### State.setVm -/

@[simp] theorem State.setVm_others (s : State) (d : VReg) (v m : VWord) : (s.setVm d v m).others = s.others := rfl
@[simp] theorem State.setVm_cur (s : State) (d : VReg) (v m : VWord) : (s.setVm d v m).cur = s.cur := rfl
@[simp] theorem State.setVm_agenda (s : State) (d : VReg) (v m : VWord) : (s.setVm d v m).agenda = s.agenda := rfl
@[simp] theorem State.setVm_inputs (s : State) (d : VReg) (v m : VWord) : (s.setVm d v m).inputs = s.inputs := rfl
@[simp] theorem State.setVm_out (s : State) (d : VReg) (v m : VWord) : (s.setVm d v m).out = s.out := rfl
@[simp] theorem State.setVm_fabricOut (s : State) (d : VReg) (v m : VWord) : (s.setVm d v m).fabricOut = s.fabricOut := rfl
@[simp] theorem State.setVm_free (s : State) (d : VReg) (v m : VWord) : (s.setVm d v m).free = s.free := rfl
@[simp] theorem State.setVm_fresh (s : State) (d : VReg) (v m : VWord) : (s.setVm d v m).fresh = s.fresh := rfl
@[simp] theorem State.setVm_nextCtx (s : State) (d : VReg) (v m : VWord) : (s.setVm d v m).nextCtx = s.nextCtx := rfl
@[simp] theorem State.setVm_arrivals (s : State) (d : VReg) (v m : VWord) : (s.setVm d v m).arrivals = s.arrivals := rfl
@[simp] theorem State.setVm_dies (s : State) (d : VReg) (v m : VWord) : (s.setVm d v m).dies = s.dies := rfl
@[simp] theorem State.setVm_mem (s : State) (d : VReg) (v m : VWord) : (s.setVm d v m).mem = s.mem := rfl
@[simp] theorem State.setVm_memPoison (s : State) (d : VReg) (v m : VWord) : (s.setVm d v m).memPoison = s.memPoison := rfl
@[simp] theorem State.setVm_flights (s : State) (d : VReg) (v m : VWord) : (s.setVm d v m).flights = s.flights := rfl
@[simp] theorem State.setVm_windows (s : State) (d : VReg) (v m : VWord) : (s.setVm d v m).windows = s.windows := rfl
@[simp] theorem State.setVm_messages (s : State) (d : VReg) (v m : VWord) : (s.setVm d v m).messages = s.messages := rfl
@[simp] theorem State.setVm_submitted (s : State) (d : VReg) (v m : VWord) : (s.setVm d v m).submitted = s.submitted := rfl
@[simp] theorem State.setVm_episodes (s : State) (d : VReg) (v m : VWord) : (s.setVm d v m).episodes = s.episodes := rfl
@[simp] theorem State.setVm_contexts (s : State) (d : VReg) (v m : VWord) : (s.setVm d v m).contexts = s.contexts := rfl
@[simp] theorem State.setVm_slices (s : State) (d : VReg) (v m : VWord) : (s.setVm d v m).slices = s.slices := rfl
@[simp] theorem State.setVm_handles (s : State) (d : VReg) (v m : VWord) : (s.setVm d v m).handles = s.handles := rfl
@[simp] theorem State.setVm_sessions (s : State) (d : VReg) (v m : VWord) : (s.setVm d v m).sessions = s.sessions := rfl
@[simp] theorem State.setVm_images (s : State) (d : VReg) (v m : VWord) : (s.setVm d v m).images = s.images := rfl
@[simp] theorem State.setVm_firm (s : State) (d : VReg) (v m : VWord) : (s.setVm d v m).firm = s.firm := rfl
@[simp] theorem State.setVm_seqOut (s : State) (d : VReg) (v m : VWord) : (s.setVm d v m).seqOut = s.seqOut := rfl
@[simp] theorem State.setVm_seqIn (s : State) (d : VReg) (v m : VWord) : (s.setVm d v m).seqIn = s.seqIn := rfl

/-! ### State.setV -/

@[simp] theorem State.setV_others (s : State) (d : VReg) (v : VWord) : (s.setV d v).others = s.others := rfl
@[simp] theorem State.setV_cur (s : State) (d : VReg) (v : VWord) : (s.setV d v).cur = s.cur := rfl
@[simp] theorem State.setV_agenda (s : State) (d : VReg) (v : VWord) : (s.setV d v).agenda = s.agenda := rfl
@[simp] theorem State.setV_inputs (s : State) (d : VReg) (v : VWord) : (s.setV d v).inputs = s.inputs := rfl
@[simp] theorem State.setV_out (s : State) (d : VReg) (v : VWord) : (s.setV d v).out = s.out := rfl
@[simp] theorem State.setV_fabricOut (s : State) (d : VReg) (v : VWord) : (s.setV d v).fabricOut = s.fabricOut := rfl
@[simp] theorem State.setV_free (s : State) (d : VReg) (v : VWord) : (s.setV d v).free = s.free := rfl
@[simp] theorem State.setV_fresh (s : State) (d : VReg) (v : VWord) : (s.setV d v).fresh = s.fresh := rfl
@[simp] theorem State.setV_nextCtx (s : State) (d : VReg) (v : VWord) : (s.setV d v).nextCtx = s.nextCtx := rfl
@[simp] theorem State.setV_arrivals (s : State) (d : VReg) (v : VWord) : (s.setV d v).arrivals = s.arrivals := rfl
@[simp] theorem State.setV_dies (s : State) (d : VReg) (v : VWord) : (s.setV d v).dies = s.dies := rfl
@[simp] theorem State.setV_mem (s : State) (d : VReg) (v : VWord) : (s.setV d v).mem = s.mem := rfl
@[simp] theorem State.setV_memPoison (s : State) (d : VReg) (v : VWord) : (s.setV d v).memPoison = s.memPoison := rfl
@[simp] theorem State.setV_flights (s : State) (d : VReg) (v : VWord) : (s.setV d v).flights = s.flights := rfl
@[simp] theorem State.setV_windows (s : State) (d : VReg) (v : VWord) : (s.setV d v).windows = s.windows := rfl
@[simp] theorem State.setV_messages (s : State) (d : VReg) (v : VWord) : (s.setV d v).messages = s.messages := rfl
@[simp] theorem State.setV_submitted (s : State) (d : VReg) (v : VWord) : (s.setV d v).submitted = s.submitted := rfl
@[simp] theorem State.setV_episodes (s : State) (d : VReg) (v : VWord) : (s.setV d v).episodes = s.episodes := rfl
@[simp] theorem State.setV_contexts (s : State) (d : VReg) (v : VWord) : (s.setV d v).contexts = s.contexts := rfl
@[simp] theorem State.setV_slices (s : State) (d : VReg) (v : VWord) : (s.setV d v).slices = s.slices := rfl
@[simp] theorem State.setV_handles (s : State) (d : VReg) (v : VWord) : (s.setV d v).handles = s.handles := rfl
@[simp] theorem State.setV_sessions (s : State) (d : VReg) (v : VWord) : (s.setV d v).sessions = s.sessions := rfl
@[simp] theorem State.setV_images (s : State) (d : VReg) (v : VWord) : (s.setV d v).images = s.images := rfl
@[simp] theorem State.setV_firm (s : State) (d : VReg) (v : VWord) : (s.setV d v).firm = s.firm := rfl
@[simp] theorem State.setV_seqOut (s : State) (d : VReg) (v : VWord) : (s.setV d v).seqOut = s.seqOut := rfl
@[simp] theorem State.setV_seqIn (s : State) (d : VReg) (v : VWord) : (s.setV d v).seqIn = s.seqIn := rfl

/-! ### State.setT -/

@[simp] theorem State.setT_others (s : State) (d : TReg) (x : Tile) (b : Bool) : (s.setT d x b).others = s.others := rfl
@[simp] theorem State.setT_cur (s : State) (d : TReg) (x : Tile) (b : Bool) : (s.setT d x b).cur = s.cur := rfl
@[simp] theorem State.setT_agenda (s : State) (d : TReg) (x : Tile) (b : Bool) : (s.setT d x b).agenda = s.agenda := rfl
@[simp] theorem State.setT_inputs (s : State) (d : TReg) (x : Tile) (b : Bool) : (s.setT d x b).inputs = s.inputs := rfl
@[simp] theorem State.setT_out (s : State) (d : TReg) (x : Tile) (b : Bool) : (s.setT d x b).out = s.out := rfl
@[simp] theorem State.setT_fabricOut (s : State) (d : TReg) (x : Tile) (b : Bool) : (s.setT d x b).fabricOut = s.fabricOut := rfl
@[simp] theorem State.setT_free (s : State) (d : TReg) (x : Tile) (b : Bool) : (s.setT d x b).free = s.free := rfl
@[simp] theorem State.setT_fresh (s : State) (d : TReg) (x : Tile) (b : Bool) : (s.setT d x b).fresh = s.fresh := rfl
@[simp] theorem State.setT_nextCtx (s : State) (d : TReg) (x : Tile) (b : Bool) : (s.setT d x b).nextCtx = s.nextCtx := rfl
@[simp] theorem State.setT_arrivals (s : State) (d : TReg) (x : Tile) (b : Bool) : (s.setT d x b).arrivals = s.arrivals := rfl
@[simp] theorem State.setT_dies (s : State) (d : TReg) (x : Tile) (b : Bool) : (s.setT d x b).dies = s.dies := rfl
@[simp] theorem State.setT_mem (s : State) (d : TReg) (x : Tile) (b : Bool) : (s.setT d x b).mem = s.mem := rfl
@[simp] theorem State.setT_memPoison (s : State) (d : TReg) (x : Tile) (b : Bool) : (s.setT d x b).memPoison = s.memPoison := rfl
@[simp] theorem State.setT_flights (s : State) (d : TReg) (x : Tile) (b : Bool) : (s.setT d x b).flights = s.flights := rfl
@[simp] theorem State.setT_windows (s : State) (d : TReg) (x : Tile) (b : Bool) : (s.setT d x b).windows = s.windows := rfl
@[simp] theorem State.setT_messages (s : State) (d : TReg) (x : Tile) (b : Bool) : (s.setT d x b).messages = s.messages := rfl
@[simp] theorem State.setT_submitted (s : State) (d : TReg) (x : Tile) (b : Bool) : (s.setT d x b).submitted = s.submitted := rfl
@[simp] theorem State.setT_episodes (s : State) (d : TReg) (x : Tile) (b : Bool) : (s.setT d x b).episodes = s.episodes := rfl
@[simp] theorem State.setT_contexts (s : State) (d : TReg) (x : Tile) (b : Bool) : (s.setT d x b).contexts = s.contexts := rfl
@[simp] theorem State.setT_slices (s : State) (d : TReg) (x : Tile) (b : Bool) : (s.setT d x b).slices = s.slices := rfl
@[simp] theorem State.setT_handles (s : State) (d : TReg) (x : Tile) (b : Bool) : (s.setT d x b).handles = s.handles := rfl
@[simp] theorem State.setT_sessions (s : State) (d : TReg) (x : Tile) (b : Bool) : (s.setT d x b).sessions = s.sessions := rfl
@[simp] theorem State.setT_images (s : State) (d : TReg) (x : Tile) (b : Bool) : (s.setT d x b).images = s.images := rfl
@[simp] theorem State.setT_firm (s : State) (d : TReg) (x : Tile) (b : Bool) : (s.setT d x b).firm = s.firm := rfl
@[simp] theorem State.setT_seqOut (s : State) (d : TReg) (x : Tile) (b : Bool) : (s.setT d x b).seqOut = s.seqOut := rfl
@[simp] theorem State.setT_seqIn (s : State) (d : TReg) (x : Tile) (b : Bool) : (s.setT d x b).seqIn = s.seqIn := rfl

/-! ### State.orFlags -/

@[simp] theorem State.orFlags_others (s : State) (c : Classes) : (s.orFlags c).others = s.others := rfl
@[simp] theorem State.orFlags_cur (s : State) (c : Classes) : (s.orFlags c).cur = s.cur := rfl
@[simp] theorem State.orFlags_agenda (s : State) (c : Classes) : (s.orFlags c).agenda = s.agenda := rfl
@[simp] theorem State.orFlags_inputs (s : State) (c : Classes) : (s.orFlags c).inputs = s.inputs := rfl
@[simp] theorem State.orFlags_out (s : State) (c : Classes) : (s.orFlags c).out = s.out := rfl
@[simp] theorem State.orFlags_fabricOut (s : State) (c : Classes) : (s.orFlags c).fabricOut = s.fabricOut := rfl
@[simp] theorem State.orFlags_free (s : State) (c : Classes) : (s.orFlags c).free = s.free := rfl
@[simp] theorem State.orFlags_fresh (s : State) (c : Classes) : (s.orFlags c).fresh = s.fresh := rfl
@[simp] theorem State.orFlags_nextCtx (s : State) (c : Classes) : (s.orFlags c).nextCtx = s.nextCtx := rfl
@[simp] theorem State.orFlags_arrivals (s : State) (c : Classes) : (s.orFlags c).arrivals = s.arrivals := rfl
@[simp] theorem State.orFlags_dies (s : State) (c : Classes) : (s.orFlags c).dies = s.dies := rfl
@[simp] theorem State.orFlags_mem (s : State) (c : Classes) : (s.orFlags c).mem = s.mem := rfl
@[simp] theorem State.orFlags_memPoison (s : State) (c : Classes) : (s.orFlags c).memPoison = s.memPoison := rfl
@[simp] theorem State.orFlags_flights (s : State) (c : Classes) : (s.orFlags c).flights = s.flights := rfl
@[simp] theorem State.orFlags_windows (s : State) (c : Classes) : (s.orFlags c).windows = s.windows := rfl
@[simp] theorem State.orFlags_messages (s : State) (c : Classes) : (s.orFlags c).messages = s.messages := rfl
@[simp] theorem State.orFlags_submitted (s : State) (c : Classes) : (s.orFlags c).submitted = s.submitted := rfl
@[simp] theorem State.orFlags_episodes (s : State) (c : Classes) : (s.orFlags c).episodes = s.episodes := rfl
@[simp] theorem State.orFlags_contexts (s : State) (c : Classes) : (s.orFlags c).contexts = s.contexts := rfl
@[simp] theorem State.orFlags_slices (s : State) (c : Classes) : (s.orFlags c).slices = s.slices := rfl
@[simp] theorem State.orFlags_handles (s : State) (c : Classes) : (s.orFlags c).handles = s.handles := rfl
@[simp] theorem State.orFlags_sessions (s : State) (c : Classes) : (s.orFlags c).sessions = s.sessions := rfl
@[simp] theorem State.orFlags_images (s : State) (c : Classes) : (s.orFlags c).images = s.images := rfl
@[simp] theorem State.orFlags_firm (s : State) (c : Classes) : (s.orFlags c).firm = s.firm := rfl
@[simp] theorem State.orFlags_seqOut (s : State) (c : Classes) : (s.orFlags c).seqOut = s.seqOut := rfl
@[simp] theorem State.orFlags_seqIn (s : State) (c : Classes) : (s.orFlags c).seqIn = s.seqIn := rfl

/-! ### State.markDead -/

@[simp] theorem State.markDead_others (s : State) : (s.markDead).others = s.others := rfl
@[simp] theorem State.markDead_cur (s : State) : (s.markDead).cur = s.cur := rfl
@[simp] theorem State.markDead_agenda (s : State) : (s.markDead).agenda = s.agenda := rfl
@[simp] theorem State.markDead_inputs (s : State) : (s.markDead).inputs = s.inputs := rfl
@[simp] theorem State.markDead_out (s : State) : (s.markDead).out = s.out := rfl
@[simp] theorem State.markDead_fabricOut (s : State) : (s.markDead).fabricOut = s.fabricOut := rfl
@[simp] theorem State.markDead_free (s : State) : (s.markDead).free = s.free := rfl
@[simp] theorem State.markDead_fresh (s : State) : (s.markDead).fresh = s.fresh := rfl
@[simp] theorem State.markDead_nextCtx (s : State) : (s.markDead).nextCtx = s.nextCtx := rfl
@[simp] theorem State.markDead_arrivals (s : State) : (s.markDead).arrivals = s.arrivals := rfl
@[simp] theorem State.markDead_dies (s : State) : (s.markDead).dies = s.dies := rfl
@[simp] theorem State.markDead_mem (s : State) : (s.markDead).mem = s.mem := rfl
@[simp] theorem State.markDead_memPoison (s : State) : (s.markDead).memPoison = s.memPoison := rfl
@[simp] theorem State.markDead_flights (s : State) : (s.markDead).flights = s.flights := rfl
@[simp] theorem State.markDead_windows (s : State) : (s.markDead).windows = s.windows := rfl
@[simp] theorem State.markDead_messages (s : State) : (s.markDead).messages = s.messages := rfl
@[simp] theorem State.markDead_submitted (s : State) : (s.markDead).submitted = s.submitted := rfl
@[simp] theorem State.markDead_episodes (s : State) : (s.markDead).episodes = s.episodes := rfl
@[simp] theorem State.markDead_contexts (s : State) : (s.markDead).contexts = s.contexts := rfl
@[simp] theorem State.markDead_slices (s : State) : (s.markDead).slices = s.slices := rfl
@[simp] theorem State.markDead_handles (s : State) : (s.markDead).handles = s.handles := rfl
@[simp] theorem State.markDead_sessions (s : State) : (s.markDead).sessions = s.sessions := rfl
@[simp] theorem State.markDead_images (s : State) : (s.markDead).images = s.images := rfl
@[simp] theorem State.markDead_firm (s : State) : (s.markDead).firm = s.firm := rfl
@[simp] theorem State.markDead_seqOut (s : State) : (s.markDead).seqOut = s.seqOut := rfl
@[simp] theorem State.markDead_seqIn (s : State) : (s.markDead).seqIn = s.seqIn := rfl

/-! ### State.sendFrame -/

@[simp] theorem State.sendFrame_core (s : State) (l : Fin 2) (ty : Nat) (rs : Bool) (sl as st : Nat) (q : Option Nat) (ad : Nat) (p : List Word) : (s.sendFrame l ty rs sl as st q ad p).core = s.core := rfl
@[simp] theorem State.sendFrame_others (s : State) (l : Fin 2) (ty : Nat) (rs : Bool) (sl as st : Nat) (q : Option Nat) (ad : Nat) (p : List Word) : (s.sendFrame l ty rs sl as st q ad p).others = s.others := rfl
@[simp] theorem State.sendFrame_cur (s : State) (l : Fin 2) (ty : Nat) (rs : Bool) (sl as st : Nat) (q : Option Nat) (ad : Nat) (p : List Word) : (s.sendFrame l ty rs sl as st q ad p).cur = s.cur := rfl
@[simp] theorem State.sendFrame_agenda (s : State) (l : Fin 2) (ty : Nat) (rs : Bool) (sl as st : Nat) (q : Option Nat) (ad : Nat) (p : List Word) : (s.sendFrame l ty rs sl as st q ad p).agenda = s.agenda := rfl
@[simp] theorem State.sendFrame_inputs (s : State) (l : Fin 2) (ty : Nat) (rs : Bool) (sl as st : Nat) (q : Option Nat) (ad : Nat) (p : List Word) : (s.sendFrame l ty rs sl as st q ad p).inputs = s.inputs := rfl
@[simp] theorem State.sendFrame_fabricOut (s : State) (l : Fin 2) (ty : Nat) (rs : Bool) (sl as st : Nat) (q : Option Nat) (ad : Nat) (p : List Word) : (s.sendFrame l ty rs sl as st q ad p).fabricOut = s.fabricOut := rfl
@[simp] theorem State.sendFrame_free (s : State) (l : Fin 2) (ty : Nat) (rs : Bool) (sl as st : Nat) (q : Option Nat) (ad : Nat) (p : List Word) : (s.sendFrame l ty rs sl as st q ad p).free = s.free := rfl
@[simp] theorem State.sendFrame_fresh (s : State) (l : Fin 2) (ty : Nat) (rs : Bool) (sl as st : Nat) (q : Option Nat) (ad : Nat) (p : List Word) : (s.sendFrame l ty rs sl as st q ad p).fresh = s.fresh := rfl
@[simp] theorem State.sendFrame_nextCtx (s : State) (l : Fin 2) (ty : Nat) (rs : Bool) (sl as st : Nat) (q : Option Nat) (ad : Nat) (p : List Word) : (s.sendFrame l ty rs sl as st q ad p).nextCtx = s.nextCtx := rfl
@[simp] theorem State.sendFrame_arrivals (s : State) (l : Fin 2) (ty : Nat) (rs : Bool) (sl as st : Nat) (q : Option Nat) (ad : Nat) (p : List Word) : (s.sendFrame l ty rs sl as st q ad p).arrivals = s.arrivals := rfl
@[simp] theorem State.sendFrame_dies (s : State) (l : Fin 2) (ty : Nat) (rs : Bool) (sl as st : Nat) (q : Option Nat) (ad : Nat) (p : List Word) : (s.sendFrame l ty rs sl as st q ad p).dies = s.dies := rfl
@[simp] theorem State.sendFrame_mem (s : State) (l : Fin 2) (ty : Nat) (rs : Bool) (sl as st : Nat) (q : Option Nat) (ad : Nat) (p : List Word) : (s.sendFrame l ty rs sl as st q ad p).mem = s.mem := rfl
@[simp] theorem State.sendFrame_memPoison (s : State) (l : Fin 2) (ty : Nat) (rs : Bool) (sl as st : Nat) (q : Option Nat) (ad : Nat) (p : List Word) : (s.sendFrame l ty rs sl as st q ad p).memPoison = s.memPoison := rfl
@[simp] theorem State.sendFrame_flights (s : State) (l : Fin 2) (ty : Nat) (rs : Bool) (sl as st : Nat) (q : Option Nat) (ad : Nat) (p : List Word) : (s.sendFrame l ty rs sl as st q ad p).flights = s.flights := rfl
@[simp] theorem State.sendFrame_windows (s : State) (l : Fin 2) (ty : Nat) (rs : Bool) (sl as st : Nat) (q : Option Nat) (ad : Nat) (p : List Word) : (s.sendFrame l ty rs sl as st q ad p).windows = s.windows := rfl
@[simp] theorem State.sendFrame_messages (s : State) (l : Fin 2) (ty : Nat) (rs : Bool) (sl as st : Nat) (q : Option Nat) (ad : Nat) (p : List Word) : (s.sendFrame l ty rs sl as st q ad p).messages = s.messages := rfl
@[simp] theorem State.sendFrame_submitted (s : State) (l : Fin 2) (ty : Nat) (rs : Bool) (sl as st : Nat) (q : Option Nat) (ad : Nat) (p : List Word) : (s.sendFrame l ty rs sl as st q ad p).submitted = s.submitted := rfl
@[simp] theorem State.sendFrame_episodes (s : State) (l : Fin 2) (ty : Nat) (rs : Bool) (sl as st : Nat) (q : Option Nat) (ad : Nat) (p : List Word) : (s.sendFrame l ty rs sl as st q ad p).episodes = s.episodes := rfl
@[simp] theorem State.sendFrame_contexts (s : State) (l : Fin 2) (ty : Nat) (rs : Bool) (sl as st : Nat) (q : Option Nat) (ad : Nat) (p : List Word) : (s.sendFrame l ty rs sl as st q ad p).contexts = s.contexts := rfl
@[simp] theorem State.sendFrame_slices (s : State) (l : Fin 2) (ty : Nat) (rs : Bool) (sl as st : Nat) (q : Option Nat) (ad : Nat) (p : List Word) : (s.sendFrame l ty rs sl as st q ad p).slices = s.slices := rfl
@[simp] theorem State.sendFrame_handles (s : State) (l : Fin 2) (ty : Nat) (rs : Bool) (sl as st : Nat) (q : Option Nat) (ad : Nat) (p : List Word) : (s.sendFrame l ty rs sl as st q ad p).handles = s.handles := rfl
@[simp] theorem State.sendFrame_sessions (s : State) (l : Fin 2) (ty : Nat) (rs : Bool) (sl as st : Nat) (q : Option Nat) (ad : Nat) (p : List Word) : (s.sendFrame l ty rs sl as st q ad p).sessions = s.sessions := rfl
@[simp] theorem State.sendFrame_images (s : State) (l : Fin 2) (ty : Nat) (rs : Bool) (sl as st : Nat) (q : Option Nat) (ad : Nat) (p : List Word) : (s.sendFrame l ty rs sl as st q ad p).images = s.images := rfl
@[simp] theorem State.sendFrame_firm (s : State) (l : Fin 2) (ty : Nat) (rs : Bool) (sl as st : Nat) (q : Option Nat) (ad : Nat) (p : List Word) : (s.sendFrame l ty rs sl as st q ad p).firm = s.firm := rfl
@[simp] theorem State.sendFrame_seqIn (s : State) (l : Fin 2) (ty : Nat) (rs : Bool) (sl as st : Nat) (q : Option Nat) (ad : Nat) (p : List Word) : (s.sendFrame l ty rs sl as st q ad p).seqIn = s.seqIn := rfl

/-! ### State.sendEvent -/

@[simp] theorem State.sendEvent_core (s : State) (c x m : Nat) (w : List Word) : (s.sendEvent c x m w).core = s.core := rfl
@[simp] theorem State.sendEvent_others (s : State) (c x m : Nat) (w : List Word) : (s.sendEvent c x m w).others = s.others := rfl
@[simp] theorem State.sendEvent_cur (s : State) (c x m : Nat) (w : List Word) : (s.sendEvent c x m w).cur = s.cur := rfl
@[simp] theorem State.sendEvent_agenda (s : State) (c x m : Nat) (w : List Word) : (s.sendEvent c x m w).agenda = s.agenda := rfl
@[simp] theorem State.sendEvent_inputs (s : State) (c x m : Nat) (w : List Word) : (s.sendEvent c x m w).inputs = s.inputs := rfl
@[simp] theorem State.sendEvent_fabricOut (s : State) (c x m : Nat) (w : List Word) : (s.sendEvent c x m w).fabricOut = s.fabricOut := rfl
@[simp] theorem State.sendEvent_free (s : State) (c x m : Nat) (w : List Word) : (s.sendEvent c x m w).free = s.free := rfl
@[simp] theorem State.sendEvent_fresh (s : State) (c x m : Nat) (w : List Word) : (s.sendEvent c x m w).fresh = s.fresh := rfl
@[simp] theorem State.sendEvent_nextCtx (s : State) (c x m : Nat) (w : List Word) : (s.sendEvent c x m w).nextCtx = s.nextCtx := rfl
@[simp] theorem State.sendEvent_arrivals (s : State) (c x m : Nat) (w : List Word) : (s.sendEvent c x m w).arrivals = s.arrivals := rfl
@[simp] theorem State.sendEvent_dies (s : State) (c x m : Nat) (w : List Word) : (s.sendEvent c x m w).dies = s.dies := rfl
@[simp] theorem State.sendEvent_mem (s : State) (c x m : Nat) (w : List Word) : (s.sendEvent c x m w).mem = s.mem := rfl
@[simp] theorem State.sendEvent_memPoison (s : State) (c x m : Nat) (w : List Word) : (s.sendEvent c x m w).memPoison = s.memPoison := rfl
@[simp] theorem State.sendEvent_flights (s : State) (c x m : Nat) (w : List Word) : (s.sendEvent c x m w).flights = s.flights := rfl
@[simp] theorem State.sendEvent_windows (s : State) (c x m : Nat) (w : List Word) : (s.sendEvent c x m w).windows = s.windows := rfl
@[simp] theorem State.sendEvent_messages (s : State) (c x m : Nat) (w : List Word) : (s.sendEvent c x m w).messages = s.messages := rfl
@[simp] theorem State.sendEvent_submitted (s : State) (c x m : Nat) (w : List Word) : (s.sendEvent c x m w).submitted = s.submitted := rfl
@[simp] theorem State.sendEvent_episodes (s : State) (c x m : Nat) (w : List Word) : (s.sendEvent c x m w).episodes = s.episodes := rfl
@[simp] theorem State.sendEvent_contexts (s : State) (c x m : Nat) (w : List Word) : (s.sendEvent c x m w).contexts = s.contexts := rfl
@[simp] theorem State.sendEvent_slices (s : State) (c x m : Nat) (w : List Word) : (s.sendEvent c x m w).slices = s.slices := rfl
@[simp] theorem State.sendEvent_handles (s : State) (c x m : Nat) (w : List Word) : (s.sendEvent c x m w).handles = s.handles := rfl
@[simp] theorem State.sendEvent_sessions (s : State) (c x m : Nat) (w : List Word) : (s.sendEvent c x m w).sessions = s.sessions := rfl
@[simp] theorem State.sendEvent_images (s : State) (c x m : Nat) (w : List Word) : (s.sendEvent c x m w).images = s.images := rfl
@[simp] theorem State.sendEvent_firm (s : State) (c x m : Nat) (w : List Word) : (s.sendEvent c x m w).firm = s.firm := rfl
@[simp] theorem State.sendEvent_seqIn (s : State) (c x m : Nat) (w : List Word) : (s.sendEvent c x m w).seqIn = s.seqIn := rfl

/-! ### State.respond -/

@[simp] theorem State.respond_core (s : State) (f : Frame) (st : Nat) (p : List Word) : (s.respond f st p).core = s.core := rfl
@[simp] theorem State.respond_others (s : State) (f : Frame) (st : Nat) (p : List Word) : (s.respond f st p).others = s.others := rfl
@[simp] theorem State.respond_cur (s : State) (f : Frame) (st : Nat) (p : List Word) : (s.respond f st p).cur = s.cur := rfl
@[simp] theorem State.respond_agenda (s : State) (f : Frame) (st : Nat) (p : List Word) : (s.respond f st p).agenda = s.agenda := rfl
@[simp] theorem State.respond_inputs (s : State) (f : Frame) (st : Nat) (p : List Word) : (s.respond f st p).inputs = s.inputs := rfl
@[simp] theorem State.respond_fabricOut (s : State) (f : Frame) (st : Nat) (p : List Word) : (s.respond f st p).fabricOut = s.fabricOut := rfl
@[simp] theorem State.respond_free (s : State) (f : Frame) (st : Nat) (p : List Word) : (s.respond f st p).free = s.free := rfl
@[simp] theorem State.respond_fresh (s : State) (f : Frame) (st : Nat) (p : List Word) : (s.respond f st p).fresh = s.fresh := rfl
@[simp] theorem State.respond_nextCtx (s : State) (f : Frame) (st : Nat) (p : List Word) : (s.respond f st p).nextCtx = s.nextCtx := rfl
@[simp] theorem State.respond_arrivals (s : State) (f : Frame) (st : Nat) (p : List Word) : (s.respond f st p).arrivals = s.arrivals := rfl
@[simp] theorem State.respond_dies (s : State) (f : Frame) (st : Nat) (p : List Word) : (s.respond f st p).dies = s.dies := rfl
@[simp] theorem State.respond_mem (s : State) (f : Frame) (st : Nat) (p : List Word) : (s.respond f st p).mem = s.mem := rfl
@[simp] theorem State.respond_memPoison (s : State) (f : Frame) (st : Nat) (p : List Word) : (s.respond f st p).memPoison = s.memPoison := rfl
@[simp] theorem State.respond_flights (s : State) (f : Frame) (st : Nat) (p : List Word) : (s.respond f st p).flights = s.flights := rfl
@[simp] theorem State.respond_windows (s : State) (f : Frame) (st : Nat) (p : List Word) : (s.respond f st p).windows = s.windows := rfl
@[simp] theorem State.respond_messages (s : State) (f : Frame) (st : Nat) (p : List Word) : (s.respond f st p).messages = s.messages := rfl
@[simp] theorem State.respond_submitted (s : State) (f : Frame) (st : Nat) (p : List Word) : (s.respond f st p).submitted = s.submitted := rfl
@[simp] theorem State.respond_episodes (s : State) (f : Frame) (st : Nat) (p : List Word) : (s.respond f st p).episodes = s.episodes := rfl
@[simp] theorem State.respond_contexts (s : State) (f : Frame) (st : Nat) (p : List Word) : (s.respond f st p).contexts = s.contexts := rfl
@[simp] theorem State.respond_slices (s : State) (f : Frame) (st : Nat) (p : List Word) : (s.respond f st p).slices = s.slices := rfl
@[simp] theorem State.respond_handles (s : State) (f : Frame) (st : Nat) (p : List Word) : (s.respond f st p).handles = s.handles := rfl
@[simp] theorem State.respond_sessions (s : State) (f : Frame) (st : Nat) (p : List Word) : (s.respond f st p).sessions = s.sessions := rfl
@[simp] theorem State.respond_images (s : State) (f : Frame) (st : Nat) (p : List Word) : (s.respond f st p).images = s.images := rfl
@[simp] theorem State.respond_firm (s : State) (f : Frame) (st : Nat) (p : List Word) : (s.respond f st p).firm = s.firm := rfl
@[simp] theorem State.respond_seqIn (s : State) (f : Frame) (st : Nat) (p : List Word) : (s.respond f st p).seqIn = s.seqIn := rfl

/-! ### State.putVector -/

@[simp] theorem State.putVector_others (s : State) (t : Fin 8) (q : VReg) (v m : VWord) : (s.putVector t q v m).others = s.others := rfl
@[simp] theorem State.putVector_cur (s : State) (t : Fin 8) (q : VReg) (v m : VWord) : (s.putVector t q v m).cur = s.cur := rfl
@[simp] theorem State.putVector_agenda (s : State) (t : Fin 8) (q : VReg) (v m : VWord) : (s.putVector t q v m).agenda = s.agenda := rfl
@[simp] theorem State.putVector_inputs (s : State) (t : Fin 8) (q : VReg) (v m : VWord) : (s.putVector t q v m).inputs = s.inputs := rfl
@[simp] theorem State.putVector_out (s : State) (t : Fin 8) (q : VReg) (v m : VWord) : (s.putVector t q v m).out = s.out := rfl
@[simp] theorem State.putVector_fabricOut (s : State) (t : Fin 8) (q : VReg) (v m : VWord) : (s.putVector t q v m).fabricOut = s.fabricOut := rfl
@[simp] theorem State.putVector_free (s : State) (t : Fin 8) (q : VReg) (v m : VWord) : (s.putVector t q v m).free = s.free := rfl
@[simp] theorem State.putVector_fresh (s : State) (t : Fin 8) (q : VReg) (v m : VWord) : (s.putVector t q v m).fresh = s.fresh := rfl
@[simp] theorem State.putVector_nextCtx (s : State) (t : Fin 8) (q : VReg) (v m : VWord) : (s.putVector t q v m).nextCtx = s.nextCtx := rfl
@[simp] theorem State.putVector_arrivals (s : State) (t : Fin 8) (q : VReg) (v m : VWord) : (s.putVector t q v m).arrivals = s.arrivals := rfl
@[simp] theorem State.putVector_dies (s : State) (t : Fin 8) (q : VReg) (v m : VWord) : (s.putVector t q v m).dies = s.dies := rfl
@[simp] theorem State.putVector_mem (s : State) (t : Fin 8) (q : VReg) (v m : VWord) : (s.putVector t q v m).mem = s.mem := rfl
@[simp] theorem State.putVector_memPoison (s : State) (t : Fin 8) (q : VReg) (v m : VWord) : (s.putVector t q v m).memPoison = s.memPoison := rfl
@[simp] theorem State.putVector_flights (s : State) (t : Fin 8) (q : VReg) (v m : VWord) : (s.putVector t q v m).flights = s.flights := rfl
@[simp] theorem State.putVector_windows (s : State) (t : Fin 8) (q : VReg) (v m : VWord) : (s.putVector t q v m).windows = s.windows := rfl
@[simp] theorem State.putVector_messages (s : State) (t : Fin 8) (q : VReg) (v m : VWord) : (s.putVector t q v m).messages = s.messages := rfl
@[simp] theorem State.putVector_submitted (s : State) (t : Fin 8) (q : VReg) (v m : VWord) : (s.putVector t q v m).submitted = s.submitted := rfl
@[simp] theorem State.putVector_episodes (s : State) (t : Fin 8) (q : VReg) (v m : VWord) : (s.putVector t q v m).episodes = s.episodes := rfl
@[simp] theorem State.putVector_contexts (s : State) (t : Fin 8) (q : VReg) (v m : VWord) : (s.putVector t q v m).contexts = s.contexts := rfl
@[simp] theorem State.putVector_slices (s : State) (t : Fin 8) (q : VReg) (v m : VWord) : (s.putVector t q v m).slices = s.slices := rfl
@[simp] theorem State.putVector_handles (s : State) (t : Fin 8) (q : VReg) (v m : VWord) : (s.putVector t q v m).handles = s.handles := rfl
@[simp] theorem State.putVector_sessions (s : State) (t : Fin 8) (q : VReg) (v m : VWord) : (s.putVector t q v m).sessions = s.sessions := rfl
@[simp] theorem State.putVector_images (s : State) (t : Fin 8) (q : VReg) (v m : VWord) : (s.putVector t q v m).images = s.images := rfl
@[simp] theorem State.putVector_firm (s : State) (t : Fin 8) (q : VReg) (v m : VWord) : (s.putVector t q v m).firm = s.firm := rfl
@[simp] theorem State.putVector_seqOut (s : State) (t : Fin 8) (q : VReg) (v m : VWord) : (s.putVector t q v m).seqOut = s.seqOut := rfl
@[simp] theorem State.putVector_seqIn (s : State) (t : Fin 8) (q : VReg) (v m : VWord) : (s.putVector t q v m).seqIn = s.seqIn := rfl

/-! ### State.clearCovered -/

@[simp] theorem State.clearCovered_others (s : State) (r : List (Nat × Nat)) : (s.clearCovered r).others = s.others := rfl
@[simp] theorem State.clearCovered_cur (s : State) (r : List (Nat × Nat)) : (s.clearCovered r).cur = s.cur := rfl
@[simp] theorem State.clearCovered_agenda (s : State) (r : List (Nat × Nat)) : (s.clearCovered r).agenda = s.agenda := rfl
@[simp] theorem State.clearCovered_inputs (s : State) (r : List (Nat × Nat)) : (s.clearCovered r).inputs = s.inputs := rfl
@[simp] theorem State.clearCovered_out (s : State) (r : List (Nat × Nat)) : (s.clearCovered r).out = s.out := rfl
@[simp] theorem State.clearCovered_fabricOut (s : State) (r : List (Nat × Nat)) : (s.clearCovered r).fabricOut = s.fabricOut := rfl
@[simp] theorem State.clearCovered_free (s : State) (r : List (Nat × Nat)) : (s.clearCovered r).free = s.free := rfl
@[simp] theorem State.clearCovered_fresh (s : State) (r : List (Nat × Nat)) : (s.clearCovered r).fresh = s.fresh := rfl
@[simp] theorem State.clearCovered_nextCtx (s : State) (r : List (Nat × Nat)) : (s.clearCovered r).nextCtx = s.nextCtx := rfl
@[simp] theorem State.clearCovered_arrivals (s : State) (r : List (Nat × Nat)) : (s.clearCovered r).arrivals = s.arrivals := rfl
@[simp] theorem State.clearCovered_dies (s : State) (r : List (Nat × Nat)) : (s.clearCovered r).dies = s.dies := rfl
@[simp] theorem State.clearCovered_mem (s : State) (r : List (Nat × Nat)) : (s.clearCovered r).mem = s.mem := rfl
@[simp] theorem State.clearCovered_memPoison (s : State) (r : List (Nat × Nat)) : (s.clearCovered r).memPoison = s.memPoison := rfl
@[simp] theorem State.clearCovered_flights (s : State) (r : List (Nat × Nat)) : (s.clearCovered r).flights = s.flights := rfl
@[simp] theorem State.clearCovered_windows (s : State) (r : List (Nat × Nat)) : (s.clearCovered r).windows = s.windows := rfl
@[simp] theorem State.clearCovered_messages (s : State) (r : List (Nat × Nat)) : (s.clearCovered r).messages = s.messages := rfl
@[simp] theorem State.clearCovered_submitted (s : State) (r : List (Nat × Nat)) : (s.clearCovered r).submitted = s.submitted := rfl
@[simp] theorem State.clearCovered_episodes (s : State) (r : List (Nat × Nat)) : (s.clearCovered r).episodes = s.episodes := rfl
@[simp] theorem State.clearCovered_contexts (s : State) (r : List (Nat × Nat)) : (s.clearCovered r).contexts = s.contexts := rfl
@[simp] theorem State.clearCovered_slices (s : State) (r : List (Nat × Nat)) : (s.clearCovered r).slices = s.slices := rfl
@[simp] theorem State.clearCovered_handles (s : State) (r : List (Nat × Nat)) : (s.clearCovered r).handles = s.handles := rfl
@[simp] theorem State.clearCovered_sessions (s : State) (r : List (Nat × Nat)) : (s.clearCovered r).sessions = s.sessions := rfl
@[simp] theorem State.clearCovered_images (s : State) (r : List (Nat × Nat)) : (s.clearCovered r).images = s.images := rfl
@[simp] theorem State.clearCovered_firm (s : State) (r : List (Nat × Nat)) : (s.clearCovered r).firm = s.firm := rfl
@[simp] theorem State.clearCovered_seqOut (s : State) (r : List (Nat × Nat)) : (s.clearCovered r).seqOut = s.seqOut := rfl
@[simp] theorem State.clearCovered_seqIn (s : State) (r : List (Nat × Nat)) : (s.clearCovered r).seqIn = s.seqIn := rfl

/-! ### State.chargeSlot -/

@[simp] theorem State.chargeSlot_others (s : State) (t : Fin 8) (c : Cause) (pc : Option Pc) : (s.chargeSlot t c pc).others = s.others := rfl
@[simp] theorem State.chargeSlot_cur (s : State) (t : Fin 8) (c : Cause) (pc : Option Pc) : (s.chargeSlot t c pc).cur = s.cur := rfl
@[simp] theorem State.chargeSlot_agenda (s : State) (t : Fin 8) (c : Cause) (pc : Option Pc) : (s.chargeSlot t c pc).agenda = s.agenda := rfl
@[simp] theorem State.chargeSlot_inputs (s : State) (t : Fin 8) (c : Cause) (pc : Option Pc) : (s.chargeSlot t c pc).inputs = s.inputs := rfl
@[simp] theorem State.chargeSlot_out (s : State) (t : Fin 8) (c : Cause) (pc : Option Pc) : (s.chargeSlot t c pc).out = s.out := rfl
@[simp] theorem State.chargeSlot_fabricOut (s : State) (t : Fin 8) (c : Cause) (pc : Option Pc) : (s.chargeSlot t c pc).fabricOut = s.fabricOut := rfl
@[simp] theorem State.chargeSlot_free (s : State) (t : Fin 8) (c : Cause) (pc : Option Pc) : (s.chargeSlot t c pc).free = s.free := rfl
@[simp] theorem State.chargeSlot_fresh (s : State) (t : Fin 8) (c : Cause) (pc : Option Pc) : (s.chargeSlot t c pc).fresh = s.fresh := rfl
@[simp] theorem State.chargeSlot_nextCtx (s : State) (t : Fin 8) (c : Cause) (pc : Option Pc) : (s.chargeSlot t c pc).nextCtx = s.nextCtx := rfl
@[simp] theorem State.chargeSlot_arrivals (s : State) (t : Fin 8) (c : Cause) (pc : Option Pc) : (s.chargeSlot t c pc).arrivals = s.arrivals := rfl
@[simp] theorem State.chargeSlot_dies (s : State) (t : Fin 8) (c : Cause) (pc : Option Pc) : (s.chargeSlot t c pc).dies = s.dies := rfl
@[simp] theorem State.chargeSlot_mem (s : State) (t : Fin 8) (c : Cause) (pc : Option Pc) : (s.chargeSlot t c pc).mem = s.mem := rfl
@[simp] theorem State.chargeSlot_memPoison (s : State) (t : Fin 8) (c : Cause) (pc : Option Pc) : (s.chargeSlot t c pc).memPoison = s.memPoison := rfl
@[simp] theorem State.chargeSlot_flights (s : State) (t : Fin 8) (c : Cause) (pc : Option Pc) : (s.chargeSlot t c pc).flights = s.flights := rfl
@[simp] theorem State.chargeSlot_windows (s : State) (t : Fin 8) (c : Cause) (pc : Option Pc) : (s.chargeSlot t c pc).windows = s.windows := rfl
@[simp] theorem State.chargeSlot_messages (s : State) (t : Fin 8) (c : Cause) (pc : Option Pc) : (s.chargeSlot t c pc).messages = s.messages := rfl
@[simp] theorem State.chargeSlot_submitted (s : State) (t : Fin 8) (c : Cause) (pc : Option Pc) : (s.chargeSlot t c pc).submitted = s.submitted := rfl
@[simp] theorem State.chargeSlot_episodes (s : State) (t : Fin 8) (c : Cause) (pc : Option Pc) : (s.chargeSlot t c pc).episodes = s.episodes := rfl
@[simp] theorem State.chargeSlot_contexts (s : State) (t : Fin 8) (c : Cause) (pc : Option Pc) : (s.chargeSlot t c pc).contexts = s.contexts := rfl
@[simp] theorem State.chargeSlot_slices (s : State) (t : Fin 8) (c : Cause) (pc : Option Pc) : (s.chargeSlot t c pc).slices = s.slices := rfl
@[simp] theorem State.chargeSlot_handles (s : State) (t : Fin 8) (c : Cause) (pc : Option Pc) : (s.chargeSlot t c pc).handles = s.handles := rfl
@[simp] theorem State.chargeSlot_sessions (s : State) (t : Fin 8) (c : Cause) (pc : Option Pc) : (s.chargeSlot t c pc).sessions = s.sessions := rfl
@[simp] theorem State.chargeSlot_images (s : State) (t : Fin 8) (c : Cause) (pc : Option Pc) : (s.chargeSlot t c pc).images = s.images := rfl
@[simp] theorem State.chargeSlot_firm (s : State) (t : Fin 8) (c : Cause) (pc : Option Pc) : (s.chargeSlot t c pc).firm = s.firm := rfl
@[simp] theorem State.chargeSlot_seqOut (s : State) (t : Fin 8) (c : Cause) (pc : Option Pc) : (s.chargeSlot t c pc).seqOut = s.seqOut := rfl
@[simp] theorem State.chargeSlot_seqIn (s : State) (t : Fin 8) (c : Cause) (pc : Option Pc) : (s.chargeSlot t c pc).seqIn = s.seqIn := rfl

/-! ### State.newId -/

@[simp] theorem State.newId_core (s : State) : (s.newId).2.core = s.core := rfl
@[simp] theorem State.newId_others (s : State) : (s.newId).2.others = s.others := rfl
@[simp] theorem State.newId_cur (s : State) : (s.newId).2.cur = s.cur := rfl
@[simp] theorem State.newId_agenda (s : State) : (s.newId).2.agenda = s.agenda := rfl
@[simp] theorem State.newId_inputs (s : State) : (s.newId).2.inputs = s.inputs := rfl
@[simp] theorem State.newId_out (s : State) : (s.newId).2.out = s.out := rfl
@[simp] theorem State.newId_fabricOut (s : State) : (s.newId).2.fabricOut = s.fabricOut := rfl
@[simp] theorem State.newId_free (s : State) : (s.newId).2.free = s.free := rfl
@[simp] theorem State.newId_nextCtx (s : State) : (s.newId).2.nextCtx = s.nextCtx := rfl
@[simp] theorem State.newId_arrivals (s : State) : (s.newId).2.arrivals = s.arrivals := rfl
@[simp] theorem State.newId_dies (s : State) : (s.newId).2.dies = s.dies := rfl
@[simp] theorem State.newId_mem (s : State) : (s.newId).2.mem = s.mem := rfl
@[simp] theorem State.newId_memPoison (s : State) : (s.newId).2.memPoison = s.memPoison := rfl
@[simp] theorem State.newId_flights (s : State) : (s.newId).2.flights = s.flights := rfl
@[simp] theorem State.newId_windows (s : State) : (s.newId).2.windows = s.windows := rfl
@[simp] theorem State.newId_messages (s : State) : (s.newId).2.messages = s.messages := rfl
@[simp] theorem State.newId_submitted (s : State) : (s.newId).2.submitted = s.submitted := rfl
@[simp] theorem State.newId_episodes (s : State) : (s.newId).2.episodes = s.episodes := rfl
@[simp] theorem State.newId_contexts (s : State) : (s.newId).2.contexts = s.contexts := rfl
@[simp] theorem State.newId_slices (s : State) : (s.newId).2.slices = s.slices := rfl
@[simp] theorem State.newId_handles (s : State) : (s.newId).2.handles = s.handles := rfl
@[simp] theorem State.newId_sessions (s : State) : (s.newId).2.sessions = s.sessions := rfl
@[simp] theorem State.newId_images (s : State) : (s.newId).2.images = s.images := rfl
@[simp] theorem State.newId_firm (s : State) : (s.newId).2.firm = s.firm := rfl
@[simp] theorem State.newId_seqOut (s : State) : (s.newId).2.seqOut = s.seqOut := rfl
@[simp] theorem State.newId_seqIn (s : State) : (s.newId).2.seqIn = s.seqIn := rfl

/-! ### State.pick -/

@[simp] theorem State.pick_core (s : State) (n : Nat) : (s.pick n).2.core = s.core := rfl
@[simp] theorem State.pick_others (s : State) (n : Nat) : (s.pick n).2.others = s.others := rfl
@[simp] theorem State.pick_cur (s : State) (n : Nat) : (s.pick n).2.cur = s.cur := rfl
@[simp] theorem State.pick_agenda (s : State) (n : Nat) : (s.pick n).2.agenda = s.agenda := rfl
@[simp] theorem State.pick_inputs (s : State) (n : Nat) : (s.pick n).2.inputs = s.inputs := rfl
@[simp] theorem State.pick_out (s : State) (n : Nat) : (s.pick n).2.out = s.out := rfl
@[simp] theorem State.pick_fabricOut (s : State) (n : Nat) : (s.pick n).2.fabricOut = s.fabricOut := rfl
@[simp] theorem State.pick_fresh (s : State) (n : Nat) : (s.pick n).2.fresh = s.fresh := rfl
@[simp] theorem State.pick_nextCtx (s : State) (n : Nat) : (s.pick n).2.nextCtx = s.nextCtx := rfl
@[simp] theorem State.pick_arrivals (s : State) (n : Nat) : (s.pick n).2.arrivals = s.arrivals := rfl
@[simp] theorem State.pick_dies (s : State) (n : Nat) : (s.pick n).2.dies = s.dies := rfl
@[simp] theorem State.pick_mem (s : State) (n : Nat) : (s.pick n).2.mem = s.mem := rfl
@[simp] theorem State.pick_memPoison (s : State) (n : Nat) : (s.pick n).2.memPoison = s.memPoison := rfl
@[simp] theorem State.pick_flights (s : State) (n : Nat) : (s.pick n).2.flights = s.flights := rfl
@[simp] theorem State.pick_windows (s : State) (n : Nat) : (s.pick n).2.windows = s.windows := rfl
@[simp] theorem State.pick_messages (s : State) (n : Nat) : (s.pick n).2.messages = s.messages := rfl
@[simp] theorem State.pick_submitted (s : State) (n : Nat) : (s.pick n).2.submitted = s.submitted := rfl
@[simp] theorem State.pick_episodes (s : State) (n : Nat) : (s.pick n).2.episodes = s.episodes := rfl
@[simp] theorem State.pick_contexts (s : State) (n : Nat) : (s.pick n).2.contexts = s.contexts := rfl
@[simp] theorem State.pick_slices (s : State) (n : Nat) : (s.pick n).2.slices = s.slices := rfl
@[simp] theorem State.pick_handles (s : State) (n : Nat) : (s.pick n).2.handles = s.handles := rfl
@[simp] theorem State.pick_sessions (s : State) (n : Nat) : (s.pick n).2.sessions = s.sessions := rfl
@[simp] theorem State.pick_images (s : State) (n : Nat) : (s.pick n).2.images = s.images := rfl
@[simp] theorem State.pick_firm (s : State) (n : Nat) : (s.pick n).2.firm = s.firm := rfl
@[simp] theorem State.pick_seqOut (s : State) (n : Nat) : (s.pick n).2.seqOut = s.seqOut := rfl
@[simp] theorem State.pick_seqIn (s : State) (n : Nat) : (s.pick n).2.seqIn = s.seqIn := rfl

end Sys2Proof.Machine
end

