-- ==== Sys2Proof/Laws/Slot.lean ====
section
/-!
SUPPORT. What the shared frame of every bundle-slot instruction does: it takes the first of its traps, does nothing when its guard
is false, and otherwise begins and has its effect.
-/
namespace Sys2Proof.Machine

open Sys2Proof

/-! ## Threads of the focused core -/

theorem Core.modSlot_slots (c : Core) (t : Fin 8) (f : Thread → Thread) :
    (c.modSlot t f).slots = c.slots.set t.val (f c.slots[t.val]) t.isLt := rfl

@[simp] theorem Core.modSlot_same (c : Core) (t : Fin 8) (f : Thread → Thread) :
    (c.modSlot t f).slots[t.val] = f c.slots[t.val] := by
  simp [Core.modSlot]

theorem Core.modSlot_other (c : Core) (t u : Fin 8) (f : Thread → Thread) (h : u ≠ t) :
    (c.modSlot t f).slots[u.val] = c.slots[u.val] := by
  have : t.val ≠ u.val := fun e => h (Fin.ext e.symm)
  simp [Core.modSlot, Vector.getElem_set_ne, this]

theorem Core.modSlot_modSlot (c : Core) (t : Fin 8) (f g : Thread → Thread) :
    (c.modSlot t f).modSlot t g = c.modSlot t fun x => g (f x) := by
  simp [Core.modSlot]

theorem Core.modSlot_id (c : Core) (t : Fin 8) (f : Thread → Thread) (h : f c.slots[t.val] = c.slots[t.val]) :
    c.modSlot t f = c := by
  simp only [Core.modSlot, h]
  rw [Vector.set_getElem_self]

@[simp] theorem State.modThread_thread (s : State) (f : Thread → Thread) : (s.modThread f).thread = f s.thread := by
  simp [State.modThread, State.thread]

theorem State.modThread_modThread (s : State) (f g : Thread → Thread) :
    (s.modThread f).modThread g = s.modThread fun x => g (f x) := by
  simp [State.modThread, Core.modSlot_modSlot]

theorem State.modThread_congr (s : State) (f g : Thread → Thread) (h : f s.thread = g s.thread) :
    s.modThread f = s.modThread g := by
  simp only [State.modThread, Core.modSlot]
  have h' : f s.core.slots[s.cur.slot.val] = g s.core.slots[s.cur.slot.val] := h
  rw [h']

theorem State.modThread_id (s : State) (f : Thread → Thread) (h : f s.thread = s.thread) : s.modThread f = s := by
  unfold State.modThread
  rw [Core.modSlot_id _ _ _ h]

/-! ## Windows -/

theorem State.openWindow_eq (s : State) (r : Ref) (n : Nat) :
    s.openWindow r n = s.modThread fun t =>
      { t with windows := t.windows ++ if n = 0 || t.phase == .vacant then [] else [⟨r, n, s.cur.pc⟩] } := by
  unfold State.openWindow
  split
  · rename_i h
    refine (State.modThread_id s _ ?_).symm
    have : (decide (n = 0) || s.thread.phase == Phase.vacant) = true := by simpa using h
    simp only [this, if_true, List.append_nil]
  · rename_i h
    refine State.modThread_congr s _ _ ?_
    have : (decide (n = 0) || s.thread.phase == Phase.vacant) = false := by simpa using h
    simp [this]

theorem windows_fold (rs : List Ref) (s : State) (n : Nat) (g : BitVec 3) :
    rs.foldl (fun (s : State) r => s.openWindow (r.phys g) n) s = s.modThread fun t =>
      { t with windows := t.windows ++
          if n = 0 || t.phase == .vacant then [] else rs.map fun r => ⟨r.phys g, n, s.cur.pc⟩ } := by
  induction rs generalizing s with
  | nil => exact (State.modThread_id s _ (by simp)).symm
  | cons r rs ih =>
    rw [List.foldl_cons, ih, State.openWindow_eq, State.modThread_modThread]
    refine State.modThread_congr _ _ _ ?_
    simp only [State.modThread_cur]
    cases (decide (n = 0) || s.thread.phase == Phase.vacant) <;> simp

/-- An executing slot begins as the claims say. -/
theorem slotBegin_eq (i : Instr) (s : State) : slotBegin i s = s.begun i := by
  unfold slotBegin
  have hd : ((slotInfo i).reads.findSome? (deadRead s.cur.pre)).isSome = s.readsDead i := by
    simp only [State.readsDead, readsOf]
    induction (slotInfo i).reads with
    | nil => rfl
    | cons r rs ih =>
      simp only [List.findSome?_cons, List.any_cons]
      cases h : deadRead s.cur.pre r with
      | none => simpa using ih
      | some x => simp
  simp only [hd]
  have key : ∀ u : State, u.cur = { s.cur with executed := true } → u.thread.phase = s.thread.phase →
      List.foldl (fun (x : State) r => x.openWindow (r.phys x.cur.pre.rrb) (x.delayOf (slotInfo i).slot)) u
        ((slotInfo i).writes.filter Ref.kept) = u.modThread fun t => { t with windows := t.windows ++ s.openedBy i } := by
    intro u hc hp
    have step : ∀ (rs : List Ref) (v : State), v.cur = u.cur →
        List.foldl (fun (x : State) r => x.openWindow (r.phys x.cur.pre.rrb) (x.delayOf (slotInfo i).slot)) v rs
          = List.foldl (fun (x : State) r => x.openWindow (r.phys s.cur.pre.rrb) (s.delayOf (slotInfo i).slot)) v rs := by
      intro rs
      induction rs with
      | nil => intro v _; rfl
      | cons r rs ih =>
        intro v hv
        have h1 : v.cur.pre.rrb = s.cur.pre.rrb := by rw [hv, hc]
        have h2 : v.delayOf (slotInfo i).slot = s.delayOf (slotInfo i).slot := by
          simp only [State.delayOf, hv, hc]
        rw [List.foldl_cons, List.foldl_cons, h1, h2]
        refine ih _ ?_
        rw [State.openWindow_eq]
        exact hv
    rw [step _ u rfl, windows_fold]
    refine State.modThread_congr _ _ _ ?_
    have hpc : u.cur.pc = s.cur.pc := by rw [hc]
    rw [hp, hpc]
    simp only [State.openedBy, writesOf]
  split
  · rename_i h
    refine (key _ rfl (by simp [State.thread, State.modThread])).trans ?_
    simp only [State.begun, State.modThread, Core.modSlot_modSlot, h, Bool.or_true]
  · rename_i h
    refine (key { s with cur := { s.cur with executed := true } } rfl rfl).trans ?_
    simp only [State.begun, State.modThread, eq_false_of_ne_true h, Bool.or_false]

/-! ## Traps of a slot -/

theorem findSome_none {α β : Type} (f : α → Option β) (l : List α) (h : (l.all fun a => (f a).isNone) = true) :
    l.findSome? f = none := by
  simp only [List.all_eq_true, Option.isNone_iff_eq_none] at h
  exact List.findSome?_eq_none_iff.mpr h

theorem flatMap_nil {α β : Type} (f : α → List β) (l : List α) (h : (l.all fun a => (f a).isEmpty) = true) :
    l.flatMap f = [] := by
  simp only [List.all_eq_true, List.isEmpty_iff] at h
  exact List.flatMap_eq_nil_iff.mpr h

/-- A ready instruction has no traps but those of its form. -/
theorem slotTraps_ready (i : Instr) (s : State) (extra : State → List Trap) (h : s.ready i = true) :
    slotTraps i s extra = extra s := by
  simp only [State.ready, Bool.and_eq_true, readsOf] at h
  obtain ⟨⟨⟨⟨⟨hg, hst⟩, hgp⟩, hsc⟩, hd⟩, hp⟩ := h
  have h1 := flatMap_nil _ _ hsc
  have h2 := findSome_none _ _ hp
  simp only [List.isEmpty_iff] at hst hgp
  simp only [slotTraps, hg, if_true, hst, hgp, h1, h2]
  cases hdt : s.cur.pre.deadtrap with
  | false => simp
  | true =>
    have : ((slotInfo i).reads.all fun r => (deadRead s.cur.pre r).isNone) = true := by simpa [hdt] using hd
    simp [findSome_none _ _ this]

/-- A ready instruction whose form's own checks pass has its effect. -/
theorem slotOp_ready (i : Instr) (s : State) (extra : State → List Trap) (body : State → State) (h : s.ready i = true)
    (he : extra s = []) : slotOp i s extra body = body (s.begun i) := by
  have hg : s.executes (slotInfo i).guard = true := by
    simp only [State.ready, Bool.and_eq_true] at h
    exact h.1.1.1.1.1
  simp only [slotOp, slotTraps_ready i s extra h, he, bestTrap, hg, if_true, slotBegin_eq]

/-- A slot whose guard is false and which no static check refuses changes nothing. -/
theorem slotOp_guarded (i : Instr) (s : State) (extra : State → List Trap) (body : State → State)
    (hg : s.executes (slotInfo i).guard = false) (hst : staticTraps i s = [])
    (hgp : scoreTraps s (slotInfo i).slot (.p (slotInfo i).guard.pred) = []) : slotOp i s extra body = s := by
  simp [slotOp, slotTraps, hg, hst, hgp, bestTrap]

/-- Whatever a slot does is one of three: it takes a trap of its own, nothing, or its effect. -/
theorem slotOp_cases (i : Instr) (s : State) (extra : State → List Trap) (body : State → State) :
    (∃ r, bestTrap (slotTraps i s extra) = some r ∧ slotOp i s extra body = s.takeTrap r)
    ∨ (s.executes (slotInfo i).guard = false ∧ slotOp i s extra body = s)
    ∨ (slotTraps i s extra = [] ∧ s.executes (slotInfo i).guard = true ∧ slotOp i s extra body = body (s.begun i)) := by
  have hb : ∀ l : List Trap, bestTrap l = none → l = [] := by
    intro l
    cases l with
    | nil => intro _; rfl
    | cons r rs =>
      simp only [bestTrap]
      intro h
      split at h
      · cases h
      · split at h <;> cases h
  unfold slotOp
  split
  · rename_i r hr; exact .inl ⟨r, hr, rfl⟩
  · rename_i hn
    cases hg : s.executes (slotInfo i).guard with
    | false => exact .inr (.inl ⟨rfl, by simp⟩)
    | true => exact .inr (.inr ⟨hb _ hn, rfl, by simp [slotBegin_eq]⟩)

/-! ## What the beginning leaves alone -/

@[simp] theorem State.begun_pre (s : State) (i : Instr) : (s.begun i).cur.pre = s.cur.pre := rfl
@[simp] theorem State.begun_slot (s : State) (i : Instr) : (s.begun i).cur.slot = s.cur.slot := rfl
@[simp] theorem State.begun_vt (s : State) (i : Instr) : (s.begun i).cur.vt = s.cur.vt := rfl
@[simp] theorem State.begun_tick (s : State) (i : Instr) : (s.begun i).cur.tick = s.cur.tick := rfl
@[simp] theorem State.begun_pc (s : State) (i : Instr) : (s.begun i).cur.pc = s.cur.pc := rfl
@[simp] theorem State.begun_rs (s : State) (i : Instr) (n : SReg) : (s.begun i).rs n = s.rs n := rfl
@[simp] theorem State.begun_rp (s : State) (i : Instr) (n : PReg) : (s.begun i).rp n = s.rp n := rfl
@[simp] theorem State.begun_rk (s : State) (i : Instr) (n : KReg) : (s.begun i).rk n = s.rk n := rfl
@[simp] theorem State.begun_rv (s : State) (i : Instr) (n : VReg) : (s.begun i).rv n = s.rv n := rfl
@[simp] theorem State.begun_rt (s : State) (i : Instr) (n : TReg) : (s.begun i).rt n = s.rt n := rfl
@[simp] theorem State.begun_rg (s : State) (i : Instr) (n : GReg) : (s.begun i).rg n = s.rg n := rfl
@[simp] theorem State.begun_key (s : State) (i : Instr) : (s.begun i).core.key = s.core.key := rfl
@[simp] theorem State.begun_lidx (s : State) (i : Instr) : (s.begun i).lidx = s.lidx := rfl
@[simp] theorem State.begun_record (s : State) (i : Instr) : (s.begun i).record = s.record := rfl
@[simp] theorem State.begun_sp (s : State) (i : Instr) : (s.begun i).core.sp = s.core.sp := rfl
@[simp] theorem State.begun_poison (s : State) (i : Instr) : (s.begun i).core.poison = s.core.poison := rfl
@[simp] theorem State.begun_vx (s : State) (i : Instr) : (s.begun i).core.vx = s.core.vx := rfl
@[simp] theorem State.begun_mailbox (s : State) (i : Instr) : (s.begun i).core.mailbox = s.core.mailbox := rfl
@[simp] theorem State.begun_landing (s : State) (i : Instr) : (s.begun i).core.landing = s.core.landing := rfl

end Sys2Proof.Machine
end

