-- ==== Sys2Proof/Laws/Access.lean ====
section
/-!
SUPPORT. An access whose lanes are good raises nothing: the checks of loads, stores, atomics, objects and remote accesses are empty.
-/
namespace Sys2Proof.Machine

open Sys2Proof

theorem laneTraps_good (s : State) (slot : Nat) (g : Quad) (need : Right) (team : Bool) (l : Lane)
    (h : s.laneGood g need team l = true) : laneTraps s slot g need team false l = [] := by
  simp only [State.laneGood, Bool.and_eq_true, decide_eq_true_eq, beq_iff_eq, Bool.or_eq_true] at h
  obtain ⟨⟨⟨⟨h1, h2⟩, h3⟩, h4⟩, h5⟩ := h
  have hb : ¬ l.off + l.size > segLimit g := by omega
  have hk : (decide (segKind g = 1) || (decide (segKind g = 2) && !false)) = true := by
    rcases h2 with h | h <;> simp [h]
  have ho : (team || (segResolve g s.record.rect (s.record.local s.lidx) l.off).1 == s.record.local s.lidx) = true := by
    rcases h4 with h | h
    · simp [h]
    · have : ((segResolve g s.record.rect (s.record.local s.lidx) l.off).1 == s.record.local s.lidx) = true := h
      simp [this]
  have hb' : (laneKind g && decide (l.off + l.size > segLimit g)) = false := by simp [hb]
  simp only [laneTraps, hb', hk, h3, ho, Bool.and_true, if_true, h5]
  simp

theorem fenceTraps_good (s : State) (g : Quad) (lanes : List Lane) (h : s.fenceGood g lanes = true) :
    fenceTraps s g lanes = [] := by
  unfold fenceTraps
  unfold State.fenceGood at h
  split
  · rfl
  · rename_i f pc hf
    rw [hf] at h
    have : (lanes.any fun l => s.remoteLane g l && decide (s.cur.tick + 8 + 2 * s.hopsTo g l.off ≤ f)) = false := by
      rw [List.any_eq_false]
      intro l hl
      have := (List.all_eq_true.mp h) l hl
      revert this
      cases s.remoteLane g l && decide (s.cur.tick + 8 + 2 * s.hopsTo g l.off ≤ f) <;> simp
    simp [this]

theorem laneChecks_good (s : State) (g : Quad) (need : Right) (team : Bool) (lanes : List Lane)
    (h1 : lanes.all (s.laneGood g need team) = true) (h2 : s.fenceGood g lanes = true) :
    laneChecks s g need team false lanes = [] := by
  unfold laneChecks
  rw [fenceTraps_good s g lanes h2, List.append_nil]
  exact List.flatMap_eq_nil_iff.mpr fun l hl => laneTraps_good s 3 g need team l (List.all_eq_true.mp h1 l hl)

theorem accessTraps_good (s : State) (slot : Nat) (rd wr : Bool) (g : Quad) (lanes : List Lane)
    (hw : s.unwatched rd wr g lanes = true) (hp : (!rd || s.unpoisoned g lanes) = true) :
    accessTraps s slot rd wr (s.ownSpans g lanes) = [] := by
  have hw' : watchMatch s.core rd wr ((s.ownSpans g lanes).map fun l => (l.2.2.1, l.2.2.2)) = none := by
    simpa [State.unwatched] using hw
  have hw2 : watchTraps s rd wr (s.ownSpans g lanes) = [] := by simp only [watchTraps, hw']
  unfold accessTraps
  rw [hw2]
  cases rd with
  | false => simp
  | true =>
    have : (s.ownSpans g lanes).findSome? (fun l => (poisonIn s.core.poison l.2.2.1 l.2.2.2).head?.map
        fun g => (l.1, l.2.1, g * 64)) = none := by
      rw [List.findSome?_eq_none_iff]
      intro x hx
      have := List.all_eq_true.mp (by simpa [State.unpoisoned] using hp : (s.ownSpans g lanes).all
        (fun x => (poisonIn s.core.poison x.2.2.1 x.2.2.2).isEmpty) = true) x hx
      simp only [List.isEmpty_iff] at this
      simp [this]
    simp [this]

theorem memChecks_good (s : State) (n : GReg) (need : Right) (team rd wr : Bool) (lanes : State → List Lane)
    (h : s.accessGood n need team rd wr (lanes s) = true) : memChecks n need team rd wr lanes s = [] := by
  simp only [State.accessGood, Bool.and_eq_true] at h
  obtain ⟨⟨⟨h1, h2⟩, h3⟩, h4⟩ := h
  unfold memChecks
  simp only [laneChecks_good s _ need team _ h1 h2, accessTraps_good s 3 rd wr _ _ h3 h4, List.append_nil]

/-- RLD and RAOP: their poison comes with the reply. -/
theorem replyChecks_good (s : State) (n : GReg) (need : Right) (wr : Bool) (lanes : State → List Lane)
    (h1 : (lanes s).all (s.laneGood (s.rg n) need true) = true) (h2 : s.fenceGood (s.rg n) (lanes s) = true)
    (h3 : s.unwatched true wr (s.rg n) (lanes s) = true) : replyChecks n need wr lanes s = [] := by
  have hw : watchMatch s.core true wr ((s.ownSpans (s.rg n) (lanes s)).map fun x => (x.2.2.1, x.2.2.2)) = none := by
    simpa [State.unwatched] using h3
  unfold replyChecks
  simp only [laneChecks_good s _ need true _ h1 h2, watchTraps, hw, List.append_nil]

theorem objChecks_good (s : State) (m : MemOp) (team wr : Bool) (cond : State → List Trap)
    (h : s.accessGood m.seg .at_ team true wr (objLanes m s) = true)
    (hc : s.ownsLane (s.rg m.seg) (s.offset0 m) = true → cond s = []) : objChecks m team wr cond s = [] := by
  unfold objChecks
  simp only [memChecks_good s m.seg .at_ team true wr (objLanes m) h, List.nil_append]
  split
  · rename_i h'
    simp only [Bool.and_eq_true] at h'
    exact hc h'.1
  · rfl

/-- Lanes that raise no enabled class give no FP trap. -/
theorem fpTraps_good (slot : Nat) (s : State) (r : List (Nat × Nat × Classes)) (h : s.noFpTrap r = true) :
    fpTraps slot s (resultRaised r) = [] := by
  have : (resultRaised r).find? (fun x => decide (x.2 &&& fpEnables s.cur.pre.fpctl ≠ 0)) = none := by
    rw [List.find?_eq_none]
    intro x hx
    simp only [resultRaised, List.mem_map, List.mem_filter] at hx
    obtain ⟨y, ⟨hy, _⟩, rfl⟩ := hx
    have := List.all_eq_true.mp h y hy
    simpa using this
  simp only [fpTraps, this]

theorem fpTraps_map_good (slot : Nat) (s : State) (r : List (Nat × Nat × Classes)) (f : Nat → Nat)
    (h : s.noFpTrap r = true) : fpTraps slot s ((resultRaised r).map fun x => (f x.1, x.2)) = [] := by
  have : ((resultRaised r).map fun x => (f x.1, x.2)).find? (fun x => decide (x.2 &&& fpEnables s.cur.pre.fpctl ≠ 0)) = none := by
    rw [List.find?_eq_none]
    intro x hx
    simp only [resultRaised, List.mem_map, List.mem_filter] at hx
    obtain ⟨z, ⟨y, ⟨hy, _⟩, rfl⟩, rfl⟩ := hx
    have := List.all_eq_true.mp h y hy
    simpa using this
  simp only [fpTraps, this]

end Sys2Proof.Machine
end

