-- ==== Sys2Proof/Laws/Cores.lean ====
section
/-!
SUPPORT. Cores, contexts, dies and slices by name: what a look-up finds after a change, after a change of many, and after a change of
focus.
-/
namespace Sys2Proof.Machine

open Sys2Proof

/-! ### Lists -/

theorem find_mapIf {α : Type} (l : List α) (p c : α → Bool) (f : α → α) (h : ∀ a, p (f a) = p a) :
    (mapIf c f l).find? p = (l.find? p).map fun a => if c a then f a else a := by
  have h' : ∀ a, p (if c a then f a else a) = p a := by intro a; split <;> simp [h]
  induction l with
  | nil => rfl
  | cons a l ih =>
    simp only [mapIf] at ih
    simp only [mapIf, List.map_cons, List.find?_cons, h']
    cases p a <;> simp [ih]

theorem mapIf_none {α : Type} (l : List α) (c : α → Bool) (f : α → α) (h : ∀ a ∈ l, c a = false) : mapIf c f l = l := by
  induction l with
  | nil => rfl
  | cons a l ih =>
    simp only [mapIf] at ih
    simp only [mapIf, List.map_cons, h a (by simp), Bool.false_eq_true, if_false, List.cons.injEq, true_and]
    exact ih fun b hb => h b (by simp [hb])

/-! ### Cores -/

theorem State.cores_modCores (s : State) (p : Core → Bool) (f : Core → Core) : (s.modCores p f).cores = mapIf p f s.cores := rfl

theorem State.cores_modCore (s : State) (k : CoreKey) (f : Core → Core) :
    (s.modCore k f).cores = mapIf (fun c => c.key = k) f s.cores := by
  simp [State.cores, State.modCore, mapIf]

theorem State.findCore_key (s : State) (k : CoreKey) (c : Core) (h : s.findCore k = some c) : c.key = k := by
  have := List.find?_some h
  simpa using this

theorem State.findCore_mem (s : State) (k : CoreKey) (c : Core) (h : s.findCore k = some c) : c ∈ s.cores :=
  List.mem_of_find?_eq_some h

/-- A change of one core by a function that keeps its name is found under that name. -/
theorem State.findCore_modCore (s : State) (k j : CoreKey) (f : Core → Core) (h : ∀ c, (f c).key = c.key) :
    (s.modCore k f).findCore j = (s.findCore j).map fun c => if j = k then f c else c := by
  have hf : (s.modCore k f).findCore j = (s.findCore j).map fun c => if decide (c.key = k) then f c else c := by
    unfold State.findCore
    rw [State.cores_modCore]
    exact find_mapIf s.cores (fun c => decide (c.key = j)) (fun c => decide (c.key = k)) f fun a => by simp [h a]
  rw [hf]
  rcases hc : s.findCore j with _ | c
  · rfl
  · have : c.key = j := by simpa using List.find?_some hc
    simp [this]

theorem State.findCore_modCore_same (s : State) (k : CoreKey) (f : Core → Core) (h : ∀ c, (f c).key = c.key) :
    (s.modCore k f).findCore k = (s.findCore k).map f := by
  rw [State.findCore_modCore _ _ _ _ h]; simp

theorem State.findCore_modCores (s : State) (p : Core → Bool) (k : CoreKey) (f : Core → Core) (h : ∀ c, (f c).key = c.key) :
    (s.modCores p f).findCore k = (s.findCore k).map fun c => if p c then f c else c := by
  unfold State.findCore
  rw [State.cores_modCores, find_mapIf _ _ _ _ (by intro a; simp [h])]

/-- A look-up sees no difference when another core comes into focus. -/
theorem State.findCore_focus (s : State) (k j : CoreKey) : (s.focus k).findCore j = s.findCore j := by
  unfold State.focus
  split
  · rfl
  · rename_i hk
    split
    · rfl
    · rename_i c hc
      have hck : c.key = k := by simpa using List.find?_some hc
      simp only [State.findCore, State.cores, List.find?_cons, hck]
      by_cases hj : k = j
      · subst hj; simp [hk, hc]
      · simp only [hj, decide_false]
        by_cases hs : s.core.key = j
        · simp [hs]
        · simp only [hs, decide_false, List.find?_filter]
          congr 1; funext d
          by_cases hd : d.key = j
          · have : d.key ≠ k := by rw [hd]; exact fun h => hj h.symm
            have hjk : j ≠ k := fun h => hj h.symm
            simp [hd, hjk]
          · simp [hd]

/-- A core that is found is the one in focus once its name is. -/
theorem State.focus_core (s : State) (k : CoreKey) (c : Core) (h : s.findCore k = some c) : (s.focus k).core = c := by
  unfold State.focus
  split
  · rename_i hk
    simpa [State.findCore, State.cores, List.find?_cons, hk] using h
  · rename_i hk
    have : s.others.find? (fun c => decide (c.key = k)) = some c := by
      simpa [State.findCore, State.cores, List.find?_cons, hk] using h
    simp [this]

theorem State.focus_rest (s : State) (k : CoreKey) : (s.focus k).contexts = s.contexts ∧ (s.focus k).dies = s.dies
    ∧ (s.focus k).slices = s.slices ∧ (s.focus k).firm = s.firm ∧ (s.focus k).mem = s.mem ∧ (s.focus k).flights = s.flights
    ∧ (s.focus k).windows = s.windows ∧ (s.focus k).messages = s.messages ∧ (s.focus k).episodes = s.episodes
    ∧ (s.focus k).out = s.out ∧ (s.focus k).cur = s.cur ∧ (s.focus k).agenda = s.agenda ∧ (s.focus k).free = s.free
    ∧ (s.focus k).fresh = s.fresh ∧ (s.focus k).handles = s.handles ∧ (s.focus k).sessions = s.sessions := by
  unfold State.focus; repeat' split
  all_goals exact ⟨rfl, rfl, rfl, rfl, rfl, rfl, rfl, rfl, rfl, rfl, rfl, rfl, rfl, rfl, rfl, rfl⟩

@[simp] theorem State.focus_focus (s : State) (k : CoreKey) : (s.focus k).focus k = s.focus k := by
  by_cases h : s.core.key = k
  · simp [State.focus, h]
  · rcases hf : s.others.find? (fun c => decide (c.key = k)) with _ | c
    · simp [State.focus, h, hf]
    · have hc : c.key = k := by simpa using List.find?_some hf
      have : s.focus k = { s with core := c, others := s.core :: s.others.filter fun d => d.key ≠ k } := by
        simp [State.focus, h, hf]
      rw [this]; simp [State.focus, hc]

/-! ### Contexts -/

theorem State.findCtx_num (s : State) (n : Nat) (x : Context) (h : s.findCtx n = some x) : x.num = n := by
  simpa using List.find?_some h

theorem State.findCtx_modCtx (s : State) (n m : Nat) (f : Context → Context) (h : ∀ c, (f c).num = c.num) :
    (s.modCtx n f).findCtx m = (s.findCtx m).map fun c => if m = n then f c else c := by
  have hf : (s.modCtx n f).findCtx m = (s.findCtx m).map fun c => if decide (c.num = n) then f c else c :=
    find_mapIf s.contexts (fun c => decide (c.num = m)) (fun c => decide (c.num = n)) f fun a => by simp [h a]
  rw [hf]
  rcases hc : s.findCtx m with _ | c
  · rfl
  · have : c.num = m := by simpa using List.find?_some hc
    simp [this]

theorem State.recordOf_modCtx (s : State) (n m : Nat) (f : Context → Context) (h : ∀ c, (f c).num = c.num)
    (hr : ∀ c, (f c).record = c.record) : (s.modCtx n f).recordOf m = s.recordOf m := by
  unfold State.recordOf
  rw [State.findCtx_modCtx _ _ _ _ h]
  rcases s.findCtx m with _ | c
  · rfl
  · simp only [Option.map_some]; split <;> simp [hr]

/-! ### Dies and slices -/

@[simp] theorem State.die_modDie_same (s : State) (d : Fin 10) (f : Die → Die) : (s.modDie d f).die d = f (s.die d) := by
  simp [State.die, State.modDie]

theorem State.die_modDie_other (s : State) (d e : Fin 10) (f : Die → Die) (h : e ≠ d) : (s.modDie d f).die e = s.die e := by
  have : d.val ≠ e.val := fun he => h (Fin.ext he.symm)
  simp [State.die, State.modDie, this]

@[simp] theorem State.slice_modSlice_same (s : State) (n : Fin 8) (f : Slice → Slice) : (s.modSlice n f).slice n = f (s.slice n) := by
  simp [State.slice, State.modSlice]

theorem State.slice_modSlice_other (s : State) (n m : Fin 8) (f : Slice → Slice) (h : m ≠ n) : (s.modSlice n f).slice m = s.slice m := by
  have : n.val ≠ m.val := fun he => h (Fin.ext he.symm)
  simp [State.slice, State.modSlice, this]

@[simp] theorem Core.modSlot_key (c : Core) (t : Fin 8) (f : Thread → Thread) : (c.modSlot t f).key = c.key := rfl

/-- A slot changes in a core that is there. -/
theorem State.findCore_modSlots (s : State) (k : CoreKey) (t : Fin 8) (f : Thread → Thread) :
    (s.modCore k fun c => c.modSlot t f).findCore k = (s.findCore k).map fun c => c.modSlot t f :=
  State.findCore_modCore_same _ _ _ fun _ => rfl

end Sys2Proof.Machine
end

