-- ==== Sys2Proof/Laws/Memory.lean ====
section
/-!
SUPPORT. Byte memory: every operation keeps the canonical form; a read after a write gives the byte written and leaves every other
byte; two canonical memories that read alike are equal.
-/
namespace Sys2Proof.Machine

open Sys2Proof

/-- Every listed address is at least n. -/
def Memory.from (n : Nat) (m : Memory) : Prop := ∀ c ∈ m, n ≤ c.1

theorem Memory.wf_cons (a : Nat) (v : Byte) (m : Memory) :
    Memory.wf ((a, v) :: m) = true ↔ v ≠ 0 ∧ Memory.wf m = true ∧ Memory.from (a + 1) m := by
  induction m generalizing a v with
  | nil => simp [Memory.wf, Memory.from]
  | cons c m ih =>
    obtain ⟨b, w⟩ := c
    simp only [Memory.wf, Bool.and_eq_true, bne_iff_ne, ne_eq, decide_eq_true_eq]
    constructor
    · rintro ⟨⟨h1, h2⟩, h3⟩
      refine ⟨h1, h3, ?_⟩
      intro c hc
      rcases List.mem_cons.mp hc with rfl | hc
      · exact h2
      · have := ((ih b w).mp h3).2.2 c hc
        omega
    · rintro ⟨h1, h2, h3⟩
      exact ⟨⟨h1, h3 _ (List.mem_cons_self ..)⟩, h2⟩

theorem memSet_from (m : Memory) (n a : Nat) (v : Byte) (h : Memory.from n m) (ha : n ≤ a) : Memory.from n (memSet m a v) := by
  induction m with
  | nil =>
    intro c hc
    simp only [memSet] at hc
    split at hc <;> simp_all
  | cons c m ih =>
    obtain ⟨b, w⟩ := c
    have hb : n ≤ b := h (b, w) (List.mem_cons_self ..)
    have hm : Memory.from n m := fun c hc => h c (List.mem_cons_of_mem _ hc)
    intro c hc
    simp only [memSet] at hc
    split at hc
    · split at hc
      · exact h c hc
      · rcases List.mem_cons.mp hc with rfl | hc
        · exact ha
        · exact h c hc
    · split at hc
      · split at hc
        · exact hm c hc
        · rcases List.mem_cons.mp hc with rfl | hc
          · exact ha
          · exact hm c hc
      · rcases List.mem_cons.mp hc with rfl | hc
        · exact hb
        · exact ih hm c hc

/-- A byte written keeps the canonical form. -/
theorem memSet_wf (m : Memory) (a : Nat) (v : Byte) (h : Memory.wf m = true) : Memory.wf (memSet m a v) = true := by
  induction m with
  | nil => simp only [memSet]; split <;> simp_all [Memory.wf]
  | cons c m ih =>
    obtain ⟨b, w⟩ := c
    obtain ⟨h1, h2, h3⟩ := (Memory.wf_cons b w m).mp h
    simp only [memSet]
    split
    · split
      · exact h
      · refine (Memory.wf_cons _ _ _).mpr ⟨by assumption, h, ?_⟩
        intro c hc
        rcases List.mem_cons.mp hc with rfl | hc
        · omega
        · have := h3 c hc; omega
    · split
      · split
        · exact h2
        · rename_i hab _; subst hab
          exact (Memory.wf_cons _ _ _).mpr ⟨by assumption, h2, h3⟩
      · exact (Memory.wf_cons _ _ _).mpr ⟨h1, ih h2, memSet_from m _ _ _ h3 (by omega)⟩

theorem memGet_from (m : Memory) (n a : Nat) (h : Memory.from n m) (ha : a < n) : memGet m a = 0 := by
  induction m with
  | nil => rfl
  | cons c m ih =>
    obtain ⟨b, w⟩ := c
    have : n ≤ b := h (b, w) (List.mem_cons_self ..)
    simp only [memGet]
    rw [if_neg (by omega), ih fun c hc => h c (List.mem_cons_of_mem _ hc)]

/-- A byte written leaves every other byte, whatever form the memory has. -/
theorem memGet_memSet_other (m : Memory) (a b : Nat) (v : Byte) (h : b ≠ a) : memGet (memSet m a v) b = memGet m b := by
  induction m with
  | nil => simp only [memSet]; split <;> simp [memGet, h]
  | cons c m ih =>
    obtain ⟨k, w⟩ := c
    simp only [memSet]
    split
    · split
      · rfl
      · simp [memGet, h]
    · split
      · rename_i hak
        subst hak
        split <;> simp [memGet, h]
      · simp [memGet, ih]

/-- Read after write of one byte. -/
theorem memGet_memSet (m : Memory) (a b : Nat) (v : Byte) (h : Memory.wf m = true) :
    memGet (memSet m a v) b = if b = a then v else memGet m b := by
  split
  · rename_i hb
    subst hb
    induction m with
    | nil => simp only [memSet]; split <;> simp_all [memGet]
    | cons c m ih =>
      obtain ⟨k, w⟩ := c
      obtain ⟨h1, h2, h3⟩ := (Memory.wf_cons k w m).mp h
      simp only [memSet]
      split
      · rename_i hbk
        split
        · rename_i hv
          rw [hv]
          exact memGet_from _ k b (fun c hc => by
            rcases List.mem_cons.mp hc with rfl | hc
            · exact Nat.le_refl _
            · have := h3 c hc; omega) hbk
        · simp [memGet]
      · split
        · rename_i hbk
          subst hbk
          split
          · rename_i hv; rw [hv]; exact memGet_from m _ _ h3 (by omega)
          · simp [memGet]
        · rename_i hne
          simp [memGet, hne, ih h2]
  · exact memGet_memSet_other m a b v (by assumption)

/-- The canonical form of a memory is canonical. -/
theorem Memory.canonical_wf (m : Memory) : Memory.wf m.canonical = true := by
  have : ∀ (l n : Memory), Memory.wf n = true → Memory.wf (l.foldl (fun n c => memSet n c.1 c.2) n) = true := by
    intro l
    induction l with
    | nil => intro n h; exact h
    | cons c l ih => intro n h; exact ih _ (memSet_wf n c.1 c.2 h)
  exact this m [] rfl

theorem memWrite_wf (m : Memory) (a n v : Nat) (h : Memory.wf m = true) : Memory.wf (memWrite m a n v) = true := by
  induction n generalizing m a v with
  | zero => exact h
  | succ n ih => exact ih _ _ _ (memSet_wf m a _ h)

theorem memPut_wf (m : Memory) (a : Nat) (l : List Byte) (h : Memory.wf m = true) : Memory.wf (memPut m a l) = true := by
  induction l generalizing m a with
  | nil => exact h
  | cons b l ih => exact ih _ _ (memSet_wf m a _ h)

theorem ringPut_wf (m : Memory) (x : Session) (l : List Byte) (i : Nat) (h : Memory.wf m = true) :
    Memory.wf (ringPut m x l i) = true := by
  induction l generalizing m i with
  | nil => exact h
  | cons b l ih => exact ih _ _ (memSet_wf m _ _ h)

/-- A write leaves every byte outside it. -/
theorem memGet_memWrite_other (m : Memory) (a n v b : Nat) (hb : b < a ∨ a + n ≤ b) :
    memGet (memWrite m a n v) b = memGet m b := by
  induction n generalizing m a v with
  | zero => rfl
  | succ n ih =>
    simp only [memWrite]
    rw [ih _ _ _ (by omega), memGet_memSet_other m a b _ (by omega)]

theorem memGet_memPut_other (m : Memory) (a : Nat) (l : List Byte) (b : Nat)
    (hb : b < a ∨ a + l.length ≤ b) : memGet (memPut m a l) b = memGet m b := by
  induction l generalizing m a with
  | nil => rfl
  | cons x l ih =>
    simp only [memPut]
    simp only [List.length_cons] at hb
    rw [ih _ _ (by omega), memGet_memSet_other m a b _ (by omega)]

/-- A byte of a write. -/
theorem memGet_memWrite (m : Memory) (a n v i : Nat) (h : Memory.wf m = true) (hi : i < n) :
    memGet (memWrite m a n v) (a + i) = BitVec.ofNat 8 (v / 256 ^ i) := by
  induction n generalizing m a v i with
  | zero => omega
  | succ n ih =>
    simp only [memWrite]
    cases i with
    | zero =>
      rw [memGet_memWrite_other _ _ _ _ _ (by omega), memGet_memSet m a _ _ h]
      simp
    | succ i =>
      have := ih _ (a + 1) (v / 256) i (memSet_wf m a (BitVec.ofNat 8 v) h) (by omega)
      rw [show a + (i + 1) = a + 1 + i by omega, this, Nat.div_div_eq_div_mul, Nat.pow_succ, Nat.mul_comm]

/-- A byte of a list of bytes put. -/
theorem memGet_memPut (m : Memory) (a : Nat) (l : List Byte) (i : Nat) (h : Memory.wf m = true) (hi : i < l.length) :
    memGet (memPut m a l) (a + i) = l[i] := by
  induction l generalizing m a i with
  | nil => simp at hi
  | cons x l ih =>
    simp only [memPut]
    cases i with
    | zero =>
      rw [memGet_memPut_other _ _ _ _ (by omega), memGet_memSet m a _ _ h]
      simp
    | succ i =>
      have := ih _ (a + 1) i (memSet_wf m a x h) (by simpa using hi)
      rw [show a + (i + 1) = a + 1 + i by omega, this]
      simp

/-- What is read where it was written. -/
theorem memRead_memWrite (m : Memory) (a n v : Nat) (h : Memory.wf m = true) :
    memRead (memWrite m a n v) a n = v % 256 ^ n := by
  induction n generalizing m a v with
  | zero => simp [memRead, Nat.mod_one]
  | succ n ih =>
    simp only [memRead, memWrite]
    rw [ih _ _ _ (memSet_wf m a _ h), memGet_memWrite_other _ _ _ _ _ (by omega), memGet_memSet m a _ _ h,
      if_pos rfl, BitVec.toNat_ofNat, show 256 ^ (n + 1) = 256 * 256 ^ n by rw [Nat.pow_succ, Nat.mul_comm], Nat.mod_mul]

/-- What is read elsewhere. -/
theorem memRead_memWrite_other (m : Memory) (a n v b k : Nat) (hb : b + k ≤ a ∨ a + n ≤ b) :
    memRead (memWrite m a n v) b k = memRead m b k := by
  induction k generalizing b with
  | zero => rfl
  | succ k ih =>
    simp only [memRead]
    rw [ih (b + 1) (by omega), memGet_memWrite_other m a n v b (by omega)]

/-- Canonical memories that read alike are equal data. -/
theorem Memory.ext_get (m n : Memory) (hm : Memory.wf m = true) (hn : Memory.wf n = true)
    (h : ∀ a, memGet m a = memGet n a) : m = n := by
  induction m generalizing n with
  | nil =>
    cases n with
    | nil => rfl
    | cons c n =>
      obtain ⟨b, w⟩ := c
      have := h b
      simp only [memGet, if_true] at this
      exact absurd this.symm ((Memory.wf_cons b w n).mp hn).1
  | cons c m ih =>
    obtain ⟨b, w⟩ := c
    obtain ⟨h1, h2, h3⟩ := (Memory.wf_cons b w m).mp hm
    cases n with
    | nil =>
      have := h b
      simp only [memGet, if_true] at this
      exact absurd this h1
    | cons d n =>
      obtain ⟨k, x⟩ := d
      obtain ⟨k1, k2, k3⟩ := (Memory.wf_cons k x n).mp hn
      have hbk : b = k := by
        rcases Nat.lt_trichotomy b k with hlt | heq | hlt
        · have := h b
          simp only [memGet, if_true, if_neg (Nat.ne_of_lt hlt)] at this
          exact absurd (this.trans (memGet_from n _ _ k3 (by omega))) h1
        · exact heq
        · have := h k
          simp only [memGet, if_true, if_neg (Nat.ne_of_lt hlt)] at this
          exact absurd (this.symm.trans (memGet_from m _ _ h3 (by omega))) k1
      subst hbk
      have hwx : w = x := by simpa only [memGet, if_true] using h b
      subst hwx
      have : m = n := by
        refine ih n h2 k2 fun a => ?_
        by_cases hlt : a < b + 1
        · rw [memGet_from m _ _ h3 hlt, memGet_from n _ _ k3 hlt]
        · have := h a
          simpa only [memGet, if_neg (show a ≠ b by omega)] using this
      rw [this]

/-- Reset memory lists nothing. -/
theorem reset_mem_wf : Memory.wf State.reset.mem = true := rfl

end Sys2Proof.Machine
end

