-- ==== Sys2Proof/Laws/Ops.lean ====
section
/-!
SUPPORT. What the shared operations of an executing slot do: a result that comes later, a wait that begins, an access that leaves,
and a result's effect on flags.
-/
namespace Sys2Proof.Machine

open Sys2Proof

/-- A result that comes later is one more pending result, unless the bundle has retired the thread. -/
theorem State.addPending_eq (s : State) (reg : Option Ref) (val : PendVal) (ready : Option Nat) (raised : List (Nat × BitVec 5))
    (traps : Bool) (id : Nat) :
    s.addPending reg val ready raised traps id = s.modThread fun t =>
      if t.phase == .vacant then t
      else { t with pending := t.pending ++ [⟨id, reg, val, ready, s.cur.pc, s.cur.vt, raised, traps, none⟩] } := by
  unfold State.addPending
  split
  · rename_i h; exact (State.modThread_id s _ (by simp only [h, if_true])).symm
  · rename_i h; exact State.modThread_congr s _ _ (by simp only [h]; rfl)

/-- A wait that begins. -/
theorem State.beginWait_eq (s : State) (k : WaitKind) : s.beginWait k = s.waits k := by
  unfold State.beginWait State.waits
  split
  · rename_i h; exact (State.modThread_id s _ (by simp only [h, if_true])).symm
  · rename_i h; exact State.modThread_congr s _ _ (by simp only [h]; rfl)

/-- A long scalar result. -/
theorem longS_eq (s : State) (d : SReg) (v : Word) (l : Nat) :
    s.longS d v l = s.laterS d v l := by
  simp only [State.longS, State.laterS, State.newId, State.addPending_eq]
  rfl

/-- No class raised leaves the flags. -/
theorem State.orFlags_zero (s : State) : s.orFlags 0 = s := by
  unfold State.orFlags
  refine State.modThread_id s _ ?_
  simp [Thread.orFlags]

/-- Lanes that raise nothing raise nothing together. -/
theorem resultRaised_nil (r : List (Nat × Nat × Classes)) (h : ∀ x ∈ r, x.2.2 = 0) : resultRaised r = [] := by
  unfold resultRaised
  rw [List.filter_eq_nil_iff.mpr]
  · rfl
  · intro x hx; simp [h x hx]

/-! ## How claims about one instruction are proved -/

/-- An instruction whose meaning is the slot frame around a body, when its own checks pass. -/
theorem does_of (i : Instr) (extra : State → List Trap) (body effect : State → State)
    (he : exec i = fun s => .next (slotOp i s extra body)) (hx : ∀ s, s.ready i = true → extra s = [])
    (hb : ∀ s : State, body (s.begun i) = effect (s.begun i)) : Does i effect := by
  intro s hr
  rw [he]
  simp only
  rw [slotOp_ready i s _ _ hr (hx s hr), hb]

theorem doesWhen_of (i : Instr) (c : State → Bool) (extra : State → List Trap) (body effect : State → State)
    (he : exec i = fun s => .next (slotOp i s extra body)) (hx : ∀ s, s.ready i = true → c s = true → extra s = [])
    (hb : ∀ s, c s = true → body (s.begun i) = effect (s.begun i)) : DoesWhen i c effect := by
  intro s hr hc
  rw [he]
  simp only
  rw [slotOp_ready i s _ _ hr (hx s hr hc), hb s hc]

/-- The trap that a ready instruction's own checks raise first. -/
theorem trapsWhen_of (i : Instr) (c : State → Bool) (r : State → Trap) (extra : State → List Trap) (body : State → State)
    (he : exec i = fun s => .next (slotOp i s extra body))
    (hx : ∀ s, s.ready i = true → c s = true → bestTrap (extra s) = some (r s)) : TrapsWhen i c r := by
  intro s hr hc
  rw [he]
  simp only [slotOp, slotTraps_ready i s _ hr, hx s hr hc]

/-- Every governed form of latency 1. -/
theorem vecOp_does (i : Instr) (d : VReg) (k : KReg) (f : Fmt) (g effect : State → Nat → Nat × Classes)
    (he : exec i = vecOp i d k f g) (hg : ∀ s, g (s.begun i) = g s) (hh : g = effect) : DoesLanes i d k f effect := by
  subst hh
  intro s hr hn
  rw [he]
  simp only [vecOp]
  rw [slotOp_ready i s _ _ hr]
  · simp only [hg]; rfl
  · exact fpTraps_good _ _ _ hn

/-- Every long vector form. -/
theorem vecLong_does (i : Instr) (d : VReg) (k : KReg) (f : Fmt) (l : Nat) (g : State → Nat → Nat × Classes)
    (he : exec i = vecLong i d k f l g) (hg : ∀ s, g (s.begun i) = g s) :
    Does i fun s => s.laterV d k f (s.lanesOf k f (g s)) l := by
  intro s hr
  rw [he]
  simp only [vecLong]
  rw [slotOp_ready i s _ _ hr rfl]
  simp only [State.laterV, State.lanesOf, State.newId, State.addPending_eq, hg]
  rfl

/-- Every tile form that rounds. -/
theorem tileOp_does (i : Instr) (d : TReg) (ok : State → Bool) (res : State → List (Nat × Nat × Classes))
    (tile : State → List (Nat × Nat × Classes) → Tile) (he : exec i = tileOp i d ok res tile) : DoesTile i d ok res tile := by
  intro s hr hc
  rw [he]
  simp only [Bool.and_eq_true] at hc
  simp only [tileOp]
  rw [slotOp_ready i s _ _ hr]
  · rfl
  · simp only [shapeTrap, hc.1, if_true, List.nil_append]
    exact fpTraps_map_good 2 s _ (· % 64) hc.2

/-- An access that leaves is a word of its own. -/
theorem State.sendAccess_eq (s : State) (op : RemoteOp) (dst order : Nat) (pend : Option Nat) :
    s.sendAccess op dst order pend = s.goesOut op dst order pend := rfl

/-- Nothing is kept out of a list by a test that always holds. -/
theorem filter_all {α : Type} (l : List α) (p : α → Bool) (h : ∀ a, p a = true) : l.filter p = l :=
  List.filter_eq_self.mpr fun a _ => h a

/-- Poison is not cleared by a write of nothing. -/
theorem State.clearCovered_nil (s : State) : s.clearCovered [] = s := by
  have h := filter_all s.core.poison (fun g => !((List.range 64).all fun i =>
    ([] : List (Nat × Nat)).any fun r => decide (r.1 ≤ g * 64 + i) && decide (g * 64 + i < r.1 + r.2))) fun _ => rfl
  exact congrArg (fun l => { s with core := { s.core with poison := l } }) h

/-- A list of one is dealt to one of two folds. -/
theorem deal_one {σ α β : Type} (p : α → Bool) (f h : σ → α → σ) (c : σ → List β → σ) (m : α → β) (x : α) (s : σ)
    (hc : ∀ s, c s [] = s) :
    (([x].filter fun a => !p a).foldl h (c (([x].filter p).foldl f s) (([x].filter p).map m)))
      = if p x then c (f s x) [m x] else h s x := by
  cases hp : p x <;> simp [List.filter, hp, hc]

/-- A store of one lane. -/
theorem State.storeLanes_one (s : State) (g : Quad) (l : Lane) (v : Nat) : s.storeLanes g [(l, v)] =
    if s.ownsLane g l.off then (s.spStore (s.resolve g l.off).2 l.size v).clearCovered [((s.resolve g l.off).2, l.size)]
    else s.goesOut (.store (s.resolve g l.off).2 l.size v) (s.ownerOf g l.off) l.order none :=
  deal_one (fun l : Lane × Nat => s.ownsLane g l.1.off) (fun (s' : State) (l : Lane × Nat) => s'.spStore (s'.resolve g l.1.off).2 l.1.size l.2)
    (fun (s' : State) (l : Lane × Nat) => s'.sendAccess (.store (s'.resolve g l.1.off).2 l.1.size l.2) (s'.ownerOf g l.1.off) l.1.order none)
    State.clearCovered (fun l => ((s.resolve g l.1.off).2, l.1.size)) (l, v) s State.clearCovered_nil

/-- n bytes are below 2 to the 8n. -/
theorem memRead_lt (m : Memory) (a n : Nat) : memRead m a n < 2 ^ (8 * n) := by
  induction n generalizing a with
  | zero => simp [memRead]
  | succ n ih =>
    simp only [memRead]
    have h1 := (memGet m a).isLt
    have h2 := ih (a + 1)
    have : 2 ^ (8 * (n + 1)) = 256 * 2 ^ (8 * n) := by rw [Nat.mul_succ, Nat.pow_add, Nat.mul_comm]
    omega

/-- A loaded value, extended. -/
theorem extendBytes_eq (b v : Nat) (sgn : Bool) (hb : b = 1 ∨ b = 2 ∨ b = 4 ∨ b = 8) (hv : v < 2 ^ (8 * b)) :
    extendBytes b v sgn = if sgn then BitVec.signExtend 64 (BitVec.ofNat (8 * b) v) else BitVec.ofNat 64 v := by
  unfold extendBytes
  cases sgn
  · simp
  · simp only [Bool.true_and, if_true]
    have : BitVec.ofNat 64 v = BitVec.ofInt 64 (v : Int) := by simp
    rw [this, BitVec.signExtend, BitVec.toInt_eq_toNat_cond, BitVec.toNat_ofNat, Nat.mod_eq_of_lt hv]
    have h2 : 2 * 2 ^ (8 * b - 1) = 2 ^ (8 * b) := by rcases hb with h | h | h | h <;> subst h <;> rfl
    simp only [decide_eq_true_eq]
    split <;> split <;> first | rfl | omega

end Sys2Proof.Machine
end

