-- ==== Sys2Proof/Laws/Order.lean ====
section
/-!
SUPPORT. What a write that the requests and timetables meet can change (R94, R96, R117, R169): cores, global memory and the counter of
the free values, and nothing where no request is open and no timetable stands.
-/
namespace Sys2Proof.Machine

open Sys2Proof

/-- Two states that agree beside their cores, global memory and the counter of the free values. -/
def State.Beside (s t : State) : Prop :=
  { t with core := s.core, others := s.others, mem := s.mem, free := s.free } = s

theorem State.Beside.refl (s : State) : s.Beside s := rfl

theorem State.Beside.trans {s t u : State} (h : s.Beside t) (k : t.Beside u) : s.Beside u := by
  cases s; cases t; cases u
  simp only [State.Beside, State.mk.injEq] at *
  simp_all

/-- A walk over a list by steps that keep what is beside. -/
theorem State.Beside.foldl {α : Type} (f : State → α → State) (h : ∀ (s : State) a, s.Beside (f s a)) (l : List α) (s : State) :
    s.Beside (l.foldl f s) := by
  induction l generalizing s with
  | nil => exact State.Beside.refl s
  | cons a l ih => exact (h s a).trans (ih (f s a))

theorem State.beside_modCore (s : State) (k : CoreKey) (f : Core → Core) : s.Beside (s.modCore k f) := rfl

theorem State.beside_modCores (s : State) (p : Core → Bool) (f : Core → Core) : s.Beside (s.modCores p f) := rfl

theorem State.beside_mem (s : State) (m : Memory) : s.Beside { s with mem := m } := rfl

/-- Free bytes take the counter on, and change nothing else. -/
theorem State.freeBytes_state (s : State) (v : Nat) (u : Nat → Bool) : ∃ n, (s.freeBytes v u).2 = { s with free := n } := by
  suffices h : ∀ (l : List Nat) (p : Nat × State), (∃ n, p.2 = { s with free := n }) →
      ∃ n, (l.foldl (fun (p : Nat × State) i =>
        if u i then
          let b := (Config.freeByte p.2.free).toNat
          let old := p.1 / 2 ^ (8 * i) % 256
          (p.1 - old * 2 ^ (8 * i) + b * 2 ^ (8 * i), { p.2 with free := p.2.free + 1 })
        else p) p).2 = { s with free := n } from h (List.range 8) (v, s) ⟨s.free, rfl⟩
  intro l
  induction l with
  | nil => exact fun _ h => h
  | cons i l ih =>
    intro p ⟨n, hp⟩
    refine ih _ ?_
    by_cases hu : u i = true
    · exact ⟨n + 1, by simp [hu, hp]⟩
    · exact ⟨n, by simp [hu, hp]⟩

theorem State.beside_markDirty (s : State) (d : Fin 10) (sl : Fin 8) (a : Nat) : s.Beside (s.markDirty d sl a) := by
  simp only [State.markDirty]
  split
  · exact s.beside_mem _
  · exact State.Beside.refl s

theorem State.beside_freeLandedUnit (s : State) (k : CoreKey) (m : MovedUnit) (mask : BitVec 8) :
    s.Beside (s.freeLandedUnit k m mask) := by
  obtain ⟨n, h⟩ := s.freeBytes_state (s.unitAt m.dspace m.dst) fun i => mask.getLsbD i
  have hf : s.Beside { s with free := n } := rfl
  simp only [State.freeLandedUnit, h]
  split
  · split
    · split
      · exact hf
      · exact (hf.trans (State.beside_mem _ _)).trans (State.beside_markDirty _ _ _ _)
    · exact hf
  · exact hf.trans (State.beside_modCore _ _ _)

theorem State.beside_meetLanded (s : State) (l : List Known) (c : Core) (space a n : Nat) : s.Beside (s.meetLanded l c space a n) :=
  State.Beside.foldl _ (fun s (x : MovedUnit × BitVec 8) => s.beside_freeLandedUnit c.key x.1 x.2) _ s

theorem State.beside_numberWrite (s : State) (w : Writer) (x : Stain) : s.Beside (s.numberWrite w x) := by
  have hf : s.Beside { s with free := s.free + 1 } := rfl
  unfold State.numberWrite
  split
  · cases w
    · exact hf.trans (State.beside_modCore _ _ _)
    · exact hf
    · exact hf.trans (State.beside_modCore _ _ _)
    · exact hf
  · exact State.Beside.refl s

/-- What a write means to requests and timetables stays in the cores, in memory and in the counter. -/
theorem State.beside_noteWrite (s : State) (w : Writer) (space a n : Nat) : s.Beside (s.noteWrite w space a n) := by
  have h := State.Beside.foldl (fun t c => t.meetLanded (s.writerKnown w space) c space a n)
    (fun t c => t.beside_meetLanded _ c space a n) (s.cores.filter fun c => !c.fifo.isEmpty) s
  have hx : ∀ (b : Bool) (t : State) (x : Stain), t.Beside (if b = true then t else t.numberWrite w x) := by
    intro b t x
    split
    · exact State.Beside.refl t
    · exact t.beside_numberWrite w x
  simp only [State.noteWrite]
  split
  · exact (h.trans (State.beside_modCores _ _ _)).trans (hx _ _ _)
  · exact ((h.trans (State.beside_modCores _ _ _)).trans (hx _ _ _)).trans (State.beside_modCore _ _ _)

theorem State.beside_noteRead (s : State) (space a n : Nat) : s.Beside (s.noteRead space a n) := State.beside_modCores _ _ _

theorem State.beside_learn (s : State) (k : CoreKey) (t : Fin 8) (l : List Known) : s.Beside (s.learn k t l) := by
  unfold State.learn
  split
  · exact State.Beside.refl s
  · exact State.beside_modCore _ _ _

theorem State.beside_acquire (s : State) (k : CoreKey) (t : Fin 8) (l p : Nat) : s.Beside (s.acquire k t l p) := s.beside_learn _ _ _

theorem State.beside_physWrite (s : State) (w : Writer) (d : Fin 10) (sl : Fin 8) (a n v : Nat) :
    s.Beside (s.physWrite w d sl a n v) := by
  simp only [State.physWrite]
  split
  · exact State.Beside.refl s
  · exact ((s.beside_mem _).trans (State.beside_markDirty _ _ _ _)).trans (State.beside_noteWrite _ _ _ _ _)

/-- Where no core has a request, a write of global memory means nothing more. -/
theorem State.noteWrite_idle (s : State) (w : Writer) (a n : Nat) (h : ∀ c ∈ s.cores, c.fifo = []) : s.noteWrite w 0 a n = s := by
  have hb : s.cores.filter (fun c => !c.fifo.isEmpty) = [] := by
    rw [List.filter_eq_nil_iff]; intro c hc; simp [h c hc]
  have hc : s.core.fifo = [] := h s.core (by simp [State.cores])
  simp only [State.noteWrite, hb, List.foldl_nil, if_true, State.modCores, hc, List.isEmpty_nil, Bool.not_true, Bool.false_eq_true,
    if_false]
  rw [mapIf_none _ _ _ fun c hm => by simp [h c (by simp [State.cores, hm])]]

end Sys2Proof.Machine
end

