-- ==== Sys2Proof/Laws/PerInstr.lean ====
section
/-!
SUPPORT. Every instruction of a bundle slot has an encoding, in its own slot and in no other; NOP has one in each; the steps that no
bundle names have none.
-/
namespace Sys2Proof.Laws.Slot

open Sys2Proof Sys2Proof.Machine

/-- Which of the S, V, M, L and X encoders have a word for an instruction. -/
def encoded (i : Instr) : List Bool :=
  [(encodeS i).isSome, (encodeV i).isSome, (encodeM i).isSome, (encodeL i).isSome, (encodeX i).isSome]

/-- The encoder of an instruction's slot has a word for it, and the others have none (Tables 10-3 to 10-7); NOP has one in each slot
(R235). -/
def Statement (i : Instr) : Prop :=
  encoded i = if i = .nop then [true, true, true, true, true] else (List.range 5).map fun n => n == (slotInfo i).slot

theorem nop : Statement .nop := rfl
theorem add (g : Guard) (d a b : SReg) : Statement (.add g d a b) := rfl
theorem sub (g : Guard) (d a b : SReg) : Statement (.sub g d a b) := rfl
theorem mul (g : Guard) (d a b : SReg) : Statement (.mul g d a b) := rfl
theorem mulh (g : Guard) (d a b : SReg) : Statement (.mulh g d a b) := rfl
theorem mulhn (g : Guard) (d a b : SReg) : Statement (.mulhn g d a b) := rfl
theorem div (g : Guard) (d a b : SReg) : Statement (.div g d a b) := rfl
theorem divn (g : Guard) (d a b : SReg) : Statement (.divn g d a b) := rfl
theorem rem (g : Guard) (d a b : SReg) : Statement (.rem g d a b) := rfl
theorem remn (g : Guard) (d a b : SReg) : Statement (.remn g d a b) := rfl
theorem and (g : Guard) (d a b : SReg) : Statement (.and g d a b) := rfl
theorem or (g : Guard) (d a b : SReg) : Statement (.or g d a b) := rfl
theorem xor (g : Guard) (d a b : SReg) : Statement (.xor g d a b) := rfl
theorem andn (g : Guard) (d a b : SReg) : Statement (.andn g d a b) := rfl
theorem orn (g : Guard) (d a b : SReg) : Statement (.orn g d a b) := rfl
theorem shl (g : Guard) (d a b : SReg) : Statement (.shl g d a b) := rfl
theorem shr (g : Guard) (d a b : SReg) : Statement (.shr g d a b) := rfl
theorem sra (g : Guard) (d a b : SReg) : Statement (.sra g d a b) := rfl
theorem rol (g : Guard) (d a b : SReg) : Statement (.rol g d a b) := rfl
theorem min (g : Guard) (d a b : SReg) : Statement (.min g d a b) := rfl
theorem max (g : Guard) (d a b : SReg) : Statement (.max g d a b) := rfl
theorem minn (g : Guard) (d a b : SReg) : Statement (.minn g d a b) := rfl
theorem maxn (g : Guard) (d a b : SReg) : Statement (.maxn g d a b) := rfl
theorem bext (g : Guard) (d a b : SReg) : Statement (.bext g d a b) := rfl
theorem bdep (g : Guard) (d a b : SReg) : Statement (.bdep g d a b) := rfl
theorem cmp (g : Guard) (cc : Cond) (d : PReg) (a b : SReg) : Statement (.cmp g cc d a b) := rfl
theorem sel (g : Guard) (d : SReg) (p : PReg) (a b : SReg) : Statement (.sel g d p a b) := rfl
theorem lea (g : Guard) (d a b : SReg) (sh : Fin 8) (off : BitVec 17) : Statement (.lea g d a b sh off) := rfl
theorem clz (g : Guard) (d a : SReg) : Statement (.clz g d a) := rfl
theorem ctz (g : Guard) (d a : SReg) : Statement (.ctz g d a) := rfl
theorem popc (g : Guard) (d a : SReg) : Statement (.popc g d a) := rfl
theorem brev (g : Guard) (d a : SReg) : Statement (.brev g d a) := rfl
theorem addi (g : Guard) (d a : SReg) (imm : BitVec 36) : Statement (.addi g d a imm) := rfl
theorem andi (g : Guard) (d a : SReg) (imm : BitVec 36) : Statement (.andi g d a imm) := rfl
theorem ori (g : Guard) (d a : SReg) (imm : BitVec 36) : Statement (.ori g d a imm) := rfl
theorem xori (g : Guard) (d a : SReg) (imm : BitVec 36) : Statement (.xori g d a imm) := rfl
theorem shli (g : Guard) (d a : SReg) (n : Fin 64) : Statement (.shli g d a n) := rfl
theorem shri (g : Guard) (d a : SReg) (n : Fin 64) : Statement (.shri g d a n) := rfl
theorem srai (g : Guard) (d a : SReg) (n : Fin 64) : Statement (.srai g d a n) := rfl
theorem cmpi (g : Guard) (cc : Cond) (d : PReg) (a : SReg) (imm : BitVec 36) : Statement (.cmpi g cc d a imm) := rfl
theorem li (g : Guard) (d : SReg) (imm : BitVec 36) : Statement (.li g d imm) := rfl
theorem lih (g : Guard) (d a : SReg) (imm : BitVec 32) : Statement (.lih g d a imm) := rfl
theorem pand (g : Guard) (d a b : PReg) : Statement (.pand g d a b) := rfl
theorem por (g : Guard) (d a b : PReg) : Statement (.por g d a b) := rfl
theorem pxor (g : Guard) (d a b : PReg) : Statement (.pxor g d a b) := rfl
theorem pnot (g : Guard) (d a : PReg) : Statement (.pnot g d a) := rfl
theorem pset (g : Guard) (d : PReg) (v : Bool) : Statement (.pset g d v) := rfl
theorem br (g : Guard) (imm : BitVec 36) : Statement (.br g imm) := rfl
theorem jmp (g : Guard) (t : Pc) : Statement (.jmp g t) := rfl
theorem jr (g : Guard) (a : SReg) : Statement (.jr g a) := rfl
theorem call (g : Guard) (t : Pc) : Statement (.call g t) := rfl
theorem callr (g : Guard) (a : SReg) : Statement (.callr g a) := rfl
theorem ret (g : Guard) : Statement (.ret g) := rfl
theorem loop (g : Guard) (imm : BitVec 36) : Statement (.loop g imm) := rfl
theorem lset (g : Guard) (a : SReg) (ec : Byte) : Statement (.lset g a ec) := rfl
theorem spawn (g : Guard) (d a : SReg) (entry : Pc) (u : Fin 8) : Statement (.spawn g d a entry u) := rfl
theorem halt (g : Guard) : Statement (.halt g) := rfl
theorem trap (g : Guard) (imm : BitVec 36) : Statement (.trap g imm) := rfl
theorem eret (g : Guard) : Statement (.eret g) := rfl
theorem park (g : Guard) (a : SReg) (c : CReg) : Statement (.park g a c) := rfl
theorem mfc (g : Guard) (d : SReg) (n : BitVec 12) : Statement (.mfc g d n) := rfl
theorem mtc (g : Guard) (n : BitVec 12) (a : SReg) : Statement (.mtc g n a) := rfl
theorem mfs (g : Guard) (d : SReg) (c : CReg) : Statement (.mfs g d c) := rfl
theorem mts (g : Guard) (c : CReg) (a : SReg) : Statement (.mts g c a) := rfl
theorem segset (g : Guard) (n : GReg) (a b : SReg) : Statement (.segset g n a b) := rfl
theorem segget (g : Guard) (d : SReg) (n : GReg) : Statement (.segget g d n) := rfl
theorem vadd (g : Guard) (d a b : VReg) (k : KReg) (f : Fmt) (r : Rnd) : Statement (.vadd g d a b k f r) := rfl
theorem vsub (g : Guard) (d a b : VReg) (k : KReg) (f : Fmt) (r : Rnd) : Statement (.vsub g d a b k f r) := rfl
theorem vmul (g : Guard) (d a b : VReg) (k : KReg) (f : Fmt) (r : Rnd) : Statement (.vmul g d a b k f r) := rfl
theorem vfma (g : Guard) (d a b c : VReg) (k : KReg) (f : Fmt) (r : Rnd) : Statement (.vfma g d a b c k f r) := rfl
theorem vfms (g : Guard) (d a b c : VReg) (k : KReg) (f : Fmt) (r : Rnd) : Statement (.vfms g d a b c k f r) := rfl
theorem vfnma (g : Guard) (d a b c : VReg) (k : KReg) (f : Fmt) (r : Rnd) : Statement (.vfnma g d a b c k f r) := rfl
theorem vdiv (g : Guard) (d a b : VReg) (k : KReg) (f : Fmt) (r : Rnd) : Statement (.vdiv g d a b k f r) := rfl
theorem vsqrt (g : Guard) (d a : VReg) (k : KReg) (f : Fmt) (r : Rnd) : Statement (.vsqrt g d a k f r) := rfl
theorem vrcp (g : Guard) (d a : VReg) (k : KReg) (f : Fmt) (r : Rnd) : Statement (.vrcp g d a k f r) := rfl
theorem vrsq (g : Guard) (d a : VReg) (k : KReg) (f : Fmt) (r : Rnd) : Statement (.vrsq g d a k f r) := rfl
theorem vmin (g : Guard) (d a b : VReg) (k : KReg) (f : Fmt) : Statement (.vmin g d a b k f) := rfl
theorem vmax (g : Guard) (d a b : VReg) (k : KReg) (f : Fmt) : Statement (.vmax g d a b k f) := rfl
theorem vabs (g : Guard) (d a : VReg) (k : KReg) (f : Fmt) : Statement (.vabs g d a k f) := rfl
theorem vneg (g : Guard) (d a : VReg) (k : KReg) (f : Fmt) : Statement (.vneg g d a k f) := rfl
theorem vcpys (g : Guard) (d a b : VReg) (k : KReg) (f : Fmt) : Statement (.vcpys g d a b k f) := rfl
theorem vexp2 (g : Guard) (d a : VReg) (k : KReg) (f : Fmt) (r : Rnd) : Statement (.vexp2 g d a k f r) := rfl
theorem vlog2 (g : Guard) (d a : VReg) (k : KReg) (f : Fmt) (r : Rnd) : Statement (.vlog2 g d a k f r) := rfl
theorem vcmp (g : Guard) (cc : Cond) (d : KReg) (a b : VReg) (k : KReg) (f : Fmt) : Statement (.vcmp g cc d a b k f) := rfl
theorem vclass (g : Guard) (c : VClass) (d : KReg) (a : VReg) (k : KReg) (f : Fmt) : Statement (.vclass g c d a k f) := rfl
theorem viadd (g : Guard) (d a b : VReg) (k : KReg) (f : Fmt) (sat : Bool) : Statement (.viadd g d a b k f sat) := rfl
theorem visub (g : Guard) (d a b : VReg) (k : KReg) (f : Fmt) (sat : Bool) : Statement (.visub g d a b k f sat) := rfl
theorem vimul (g : Guard) (d a b : VReg) (k : KReg) (f : Fmt) (sat : Bool) : Statement (.vimul g d a b k f sat) := rfl
theorem vimulh (g : Guard) (d a b : VReg) (k : KReg) (f : Fmt) : Statement (.vimulh g d a b k f) := rfl
theorem vimin (g : Guard) (d a b : VReg) (k : KReg) (f : Fmt) : Statement (.vimin g d a b k f) := rfl
theorem vimax (g : Guard) (d a b : VReg) (k : KReg) (f : Fmt) : Statement (.vimax g d a b k f) := rfl
theorem viabs (g : Guard) (d a : VReg) (k : KReg) (f : Fmt) (sat : Bool) : Statement (.viabs g d a k f sat) := rfl
theorem vshl (g : Guard) (d a b : VReg) (k : KReg) (f : Fmt) : Statement (.vshl g d a b k f) := rfl
theorem vshr (g : Guard) (d a b : VReg) (k : KReg) (f : Fmt) : Statement (.vshr g d a b k f) := rfl
theorem vsra (g : Guard) (d a b : VReg) (k : KReg) (f : Fmt) : Statement (.vsra g d a b k f) := rfl
theorem vand (g : Guard) (d a b : VReg) (k : KReg) (f : Fmt) : Statement (.vand g d a b k f) := rfl
theorem vor (g : Guard) (d a b : VReg) (k : KReg) (f : Fmt) : Statement (.vor g d a b k f) := rfl
theorem vxor (g : Guard) (d a b : VReg) (k : KReg) (f : Fmt) : Statement (.vxor g d a b k f) := rfl
theorem vandn (g : Guard) (d a b : VReg) (k : KReg) (f : Fmt) : Statement (.vandn g d a b k f) := rfl
theorem vpopc (g : Guard) (d a : VReg) (k : KReg) (f : Fmt) : Statement (.vpopc g d a k f) := rfl
theorem vcvt (g : Guard) (d a : VReg) (k : KReg) (dst src : Fmt) (r : Rnd) (opt : Bool) : Statement (.vcvt g d a k dst src r opt) :=
    rfl
theorem vpack (g : Guard) (d a b : VReg) (k : KReg) (dst src : Fmt) (r : Rnd) (opt : Bool) : Statement (.vpack g d a b k dst src r opt) :=
    rfl
theorem vunpk (g : Guard) (d a : VReg) (k : KReg) (dst src : Fmt) : Statement (.vunpk g d a k dst src) := rfl
theorem vmov (g : Guard) (d a : VReg) (k : KReg) (f : Fmt) (n : GroupSize) : Statement (.vmov g d a k f n) := rfl
theorem vsel (g : Guard) (d a b : VReg) (k : KReg) (f : Fmt) : Statement (.vsel g d a b k f) := rfl
theorem vbcast (g : Guard) (d : VReg) (a : SReg) (k : KReg) (f : Fmt) : Statement (.vbcast g d a k f) := rfl
theorem vins (g : Guard) (d : VReg) (a : SReg) (f : Fmt) (j : BitVec 21) : Statement (.vins g d a f j) := rfl
theorem vext (g : Guard) (d : SReg) (a : VReg) (f : Fmt) (j : BitVec 21) : Statement (.vext g d a f j) := rfl
theorem vperm (g : Guard) (d a b : VReg) (k : KReg) (f : Fmt) : Statement (.vperm g d a b k f) := rfl
theorem vshuf (g : Guard) (pat : ShufPat) (d a b : VReg) (k : KReg) (f : Fmt) : Statement (.vshuf g pat d a b k f) := rfl
theorem vrot (g : Guard) (d a : VReg) (k : KReg) (f : Fmt) (j : BitVec 21) : Statement (.vrot g d a k f j) := rfl
theorem vcomp (g : Guard) (d a : VReg) (k : KReg) (f : Fmt) : Statement (.vcomp g d a k f) := rfl
theorem vexpd (g : Guard) (d a : VReg) (k : KReg) (f : Fmt) : Statement (.vexpd g d a k f) := rfl
theorem vred (g : Guard) (op : RedOp) (d a : VReg) (k : KReg) (f : Fmt) (r : Rnd) (sat : Bool) : Statement (.vred g op d a k f r sat) :=
    rfl
theorem vscan (g : Guard) (op : RedOp) (d a : VReg) (k : KReg) (f : Fmt) (r : Rnd) (sat : Bool) : Statement (.vscan g op d a k f r sat) :=
    rfl
theorem viota (g : Guard) (d : VReg) (k : KReg) (f : Fmt) : Statement (.viota g d k f) := rfl
theorem vdot (g : Guard) (d a b : VReg) (k : KReg) (acc inp : Fmt) (r : Rnd) : Statement (.vdot g d a b k acc inp r) := rfl
theorem kand (g : Guard) (d a b : KReg) (f : Fmt) : Statement (.kand g d a b f) := rfl
theorem kor (g : Guard) (d a b : KReg) (f : Fmt) : Statement (.kor g d a b f) := rfl
theorem kxor (g : Guard) (d a b : KReg) (f : Fmt) : Statement (.kxor g d a b f) := rfl
theorem knot (g : Guard) (d a : KReg) (f : Fmt) : Statement (.knot g d a f) := rfl
theorem kmov (g : Guard) (d a : KReg) (f : Fmt) : Statement (.kmov g d a f) := rfl
theorem kpopc (g : Guard) (d : SReg) (a : KReg) (f : Fmt) : Statement (.kpopc g d a f) := rfl
theorem vhash (g : Guard) (d a : VReg) (k : KReg) (f : Fmt) (b : Fin 32) : Statement (.vhash g d a k f b) := rfl
theorem mma (g : Guard) (d a b : TReg) (grp : Fin 8) (f : Fmt) : Statement (.mma g d a b grp f) := rfl
theorem mmaz (g : Guard) (d a b : TReg) (grp : Fin 8) (f : Fmt) : Statement (.mmaz g d a b grp f) := rfl
theorem tzero (g : Guard) (d : TReg) : Statement (.tzero g d) := rfl
theorem tcfg (g : Guard) (d : TReg) (f : Fmt) (rows cols : Byte) : Statement (.tcfg g d f rows cols) := rfl
theorem tmov (g : Guard) (d a : TReg) : Statement (.tmov g d a) := rfl
theorem ttrn (g : Guard) (d a : TReg) : Statement (.ttrn g d a) := rfl
theorem tcvt (g : Guard) (d a : TReg) (dst : Fmt) (r : Rnd) : Statement (.tcvt g d a dst r) := rfl
theorem tadd (g : Guard) (d a b : TReg) (f : Fmt) (r : Rnd) : Statement (.tadd g d a b f r) := rfl
theorem trowi (g : Guard) (d : TReg) (v : VReg) (row : Fin 8) : Statement (.trowi g d v row) := rfl
theorem trowx (g : Guard) (v : VReg) (src : TReg) (row : Fin 8) : Statement (.trowx g v src row) := rfl
theorem tinv (g : Guard) (d : TReg) : Statement (.tinv g d) := rfl
theorem tscale (g : Guard) (mode : ScaleMode) (d a b : TReg) (f : Fmt) : Statement (.tscale g mode d a b f) := rfl
theorem ld (g : Guard) (d : SReg) (m : MemOp) (x : SReg) (sz : Fin 4) (sgn scl : Bool) : Statement (.ld g d m x sz sgn scl) := rfl
theorem st (g : Guard) (d : SReg) (m : MemOp) (x : SReg) (sz : Fin 4) (scl : Bool) : Statement (.st g d m x sz scl) := rfl
theorem ldv (g : Guard) (d : VReg) (m : MemOp) (x : SReg) (k : KReg) (lw : Fin 4) (n : GroupSize) (scl : Bool) : Statement (.ldv g d m x k lw n scl) :=
    rfl
theorem stv (g : Guard) (d : VReg) (m : MemOp) (x : SReg) (k : KReg) (lw : Fin 4) (n : GroupSize) (scl : Bool) : Statement (.stv g d m x k lw n scl) :=
    rfl
theorem ldvg (g : Guard) (d : VReg) (m : MemOp) (x : VReg) (k : KReg) (lw : Fin 4) (scl : Bool) : Statement (.ldvg g d m x k lw scl) :=
    rfl
theorem stvs (g : Guard) (d : VReg) (m : MemOp) (x : VReg) (k : KReg) (lw : Fin 4) (scl : Bool) : Statement (.stvs g d m x k lw scl) :=
    rfl
theorem ldt (g : Guard) (d : TReg) (m : MemOp) (x : SReg) (scl : Bool) : Statement (.ldt g d m x scl) := rfl
theorem stt (g : Guard) (d : TReg) (m : MemOp) (x : SReg) (scl : Bool) : Statement (.stt g d m x scl) := rfl
theorem stnb (g : Guard) (d : SReg) (m : MemOp) (x : SReg) (hi nidx : Bool) : Statement (.stnb g d m x hi nidx) := rfl
theorem rld (g : Guard) (d : SReg) (m : MemOp) (x : SReg) (sz : Fin 4) (sgn scl : Bool) : Statement (.rld g d m x sz sgn scl) :=
    rfl
theorem rst (g : Guard) (d : SReg) (m : MemOp) (x : SReg) (sz : Fin 4) (scl : Bool) : Statement (.rst g d m x sz scl) := rfl
theorem rstnb (g : Guard) (d : SReg) (m : MemOp) (x : SReg) (hi nidx : Bool) : Statement (.rstnb g d m x hi nidx) := rfl
theorem raop (g : Guard) (op : AtomicOp) (d : SReg) (m : MemOp) (x : SReg) (w64 : Bool) : Statement (.raop g op d m x w64) := rfl
theorem aadd (g : Guard) (d : SReg) (m : MemOp) (x : SReg) (w64 : Bool) : Statement (.aadd g d m x w64) := rfl
theorem amin (g : Guard) (d : SReg) (m : MemOp) (x : SReg) (w64 : Bool) : Statement (.amin g d m x w64) := rfl
theorem amax (g : Guard) (d : SReg) (m : MemOp) (x : SReg) (w64 : Bool) : Statement (.amax g d m x w64) := rfl
theorem aminn (g : Guard) (d : SReg) (m : MemOp) (x : SReg) (w64 : Bool) : Statement (.aminn g d m x w64) := rfl
theorem amaxn (g : Guard) (d : SReg) (m : MemOp) (x : SReg) (w64 : Bool) : Statement (.amaxn g d m x w64) := rfl
theorem aand (g : Guard) (d : SReg) (m : MemOp) (x : SReg) (w64 : Bool) : Statement (.aand g d m x w64) := rfl
theorem aor (g : Guard) (d : SReg) (m : MemOp) (x : SReg) (w64 : Bool) : Statement (.aor g d m x w64) := rfl
theorem axor (g : Guard) (d : SReg) (m : MemOp) (x : SReg) (w64 : Bool) : Statement (.axor g d m x w64) := rfl
theorem aswap (g : Guard) (d : SReg) (m : MemOp) (x : SReg) (w64 : Bool) : Statement (.aswap g d m x w64) := rfl
theorem acas (g : Guard) (d : SReg) (m : MemOp) (x : SReg) (w64 : Bool) : Statement (.acas g d m x w64) := rfl
theorem afadd (g : Guard) (d : SReg) (m : MemOp) (x : SReg) (w64 : Bool) : Statement (.afadd g d m x w64) := rfl
theorem qrsv (g : Guard) (d : SReg) (m : MemOp) : Statement (.qrsv g d m) := rfl
theorem qpub (g : Guard) (d : SReg) (m : MemOp) : Statement (.qpub g d m) := rfl
theorem qtake (g : Guard) (d : SReg) (m : MemOp) : Statement (.qtake g d m) := rfl
theorem depdec (g : Guard) (d : SReg) (m : MemOp) : Statement (.depdec g d m) := rfl
theorem copy (g : Guard) (d : PReg) (q : Fin 8) : Statement (.copy g d q) := rfl
theorem gath (g : Guard) (d : PReg) (q : Fin 8) : Statement (.gath g d q) := rfl
theorem scat (g : Guard) (d : PReg) (q : Fin 8) : Statement (.scat g d q) := rfl
theorem iload (g : Guard) (d : PReg) (q : Fin 8) : Statement (.iload g d q) := rfl
theorem boinit (g : Guard) (d : SReg) (m : MemOp) (x : SReg) : Statement (.boinit g d m x) := rfl
theorem boexp (g : Guard) (d : SReg) (m : MemOp) (x : SReg) : Statement (.boexp g d m x) := rfl
theorem boarr (g : Guard) (m : MemOp) : Statement (.boarr g m) := rfl
theorem bwait (g : Guard) (m : MemOp) (x : SReg) : Statement (.bwait g m x) := rfl
theorem btest (g : Guard) (d : PReg) (m : MemOp) (x : SReg) : Statement (.btest g d m x) := rfl
theorem mwait (g : Guard) : Statement (.mwait g) := rfl
theorem mpop (g : Guard) (d : SReg) : Statement (.mpop g d) := rfl
theorem mpeek (g : Guard) (d : SReg) : Statement (.mpeek g d) := rfl
theorem fence (g : Guard) (sc : FenceScope) : Statement (.fence g sc) := rfl
theorem acsnap (g : Guard) (m : MemOp) (x : SReg) : Statement (.acsnap g m x) := rfl
theorem send (g : Guard) (a : SReg) (dst : BitVec 8) (seq : BitVec 5) : Statement (.send g a dst seq) := rfl
theorem recv (g : Guard) (d : SReg) (tag : TagSel) : Statement (.recv g d tag) := rfl
theorem recvt (g : Guard) (d a : SReg) (b : PReg) (tag : TagSel) : Statement (.recvt g d a b tag) := rfl
theorem barw (g : Guard) (sc : WireScope) : Statement (.barw g sc) := rfl
theorem barwr (g : Guard) (op : WireOp) (sc : WireScope) (d a : SReg) : Statement (.barwr g op sc d a) := rfl
theorem tamp (g : Guard) (sc : TampScope) (a : SReg) (imm : BitVec 30) : Statement (.tamp g sc a imm) := rfl
theorem waitt (g : Guard) (c : Counter) (d : PReg) (a : SReg) (imm : BitVec 30) : Statement (.waitt g c d a imm) := rfl
theorem wsend (g : Guard) (a b : SReg) (seq : Byte) (nw : Option (BitVec 5)) : Statement (.wsend g a b seq nw) :=
    by cases nw <;> rfl
theorem amsg (g : Guard) (a b : SReg) (tag : BitVec 14) : Statement (.amsg g a b tag) := rfl
theorem qpush (g : Guard) (q : QReg) (b : SReg) (prio : Fin 8) : Statement (.qpush g q b prio) := rfl
theorem qpop (g : Guard) (d : SReg) (q : QReg) (cnt : Bool) : Statement (.qpop g d q cnt) := rfl
theorem carm (g : Guard) (d : PReg) (a : SReg) : Statement (.carm g d a) := rfl
theorem cfire (g : Guard) (a b : SReg) : Statement (.cfire g a b) := rfl
theorem trig (g : Guard) (a : SReg) (n : Byte) : Statement (.trig g a n) := rfl
theorem longResultReady (c : CoreKey) (t : Fin 8) : Statement (.longResultReady c t) := rfl
theorem deferredTrap (c : CoreKey) (t : Fin 8) : Statement (.deferredTrap c t) := rfl
theorem holdRelease (c : CoreKey) (t : Fin 8) : Statement (.holdRelease c t) := rfl
theorem waitRetry (c : CoreKey) (t : Fin 8) : Statement (.waitRetry c t) := rfl
theorem recvRetry (c : CoreKey) (t : Fin 8) : Statement (.recvRetry c t) := rfl
theorem recvtDeadline (c : CoreKey) (t : Fin 8) : Statement (.recvtDeadline c t) := rfl
theorem parkWake (c : CoreKey) (t : Fin 8) : Statement (.parkWake c t) := rfl
theorem wireRelease (ep : Nat) : Statement (.wireRelease ep) := rfl
theorem wiretoExpiry (ep : Nat) : Statement (.wiretoExpiry ep) := rfl
theorem tampRelease (c : CoreKey) (t : Fin 8) : Statement (.tampRelease c t) := rfl
theorem waittReached (c : CoreKey) (t : Fin 8) : Statement (.waittReached c t) := rfl
theorem remoteAccessArrival (id : Nat) : Statement (.remoteAccessArrival id) := rfl
theorem remoteReplyArrival (id : Nat) : Statement (.remoteReplyArrival id) := rfl
theorem scheduledWordLanding (id : Nat) : Statement (.scheduledWordLanding id) := rfl
theorem windowWordLanding (id : Nat) : Statement (.windowWordLanding id) := rfl
theorem hubWordArrival (hub : Fin 2) (port : Fin 16) (item : FabricItem) : Statement (.hubWordArrival hub port item) := rfl
theorem activeMessageArrival (id : Nat) : Statement (.activeMessageArrival id) := rfl
theorem engineRequestStart (c : CoreKey) : Statement (.engineRequestStart c) := rfl
theorem engineUnitAdmission (c : CoreKey) (req : Nat) : Statement (.engineUnitAdmission c req) := rfl
theorem engineUnitAccess (c : CoreKey) (req : Nat) : Statement (.engineUnitAccess c req) := rfl
theorem engineSublist (c : CoreKey) (req : Nat) : Statement (.engineSublist c req) := rfl
theorem engineRequestComplete (c : CoreKey) (req : Nat) : Statement (.engineRequestComplete c req) := rfl
theorem mailboxHeldPost (c : CoreKey) : Statement (.mailboxHeldPost c) := rfl
theorem faultService (die : Fin 10) : Statement (.faultService die) := rfl
theorem faultAnswerPoll (slice : Fin 8) : Statement (.faultAnswerPoll slice) := rfl
theorem faultTimeout (slice : Fin 8) : Statement (.faultTimeout slice) := rfl
theorem shootdownPages (slice : Fin 8) : Statement (.shootdownPages slice) := rfl
theorem shootdownAsid (slice : Fin 8) : Statement (.shootdownAsid slice) := rfl
theorem shootdownSlice (slice : Fin 8) : Statement (.shootdownSlice slice) := rfl
theorem shootdownAck (slice : Fin 8) : Statement (.shootdownAck slice) := rfl
theorem alignStampExchange (die : Fin 10) : Statement (.alignStampExchange die) := rfl
theorem ptpTimestamp (hub : Fin 2) (rep : PtpReport) : Statement (.ptpTimestamp hub rep) := rfl
theorem timetablePut (c : CoreKey) (hdr : Nat) : Statement (.timetablePut c hdr) := rfl
theorem timetableGet (c : CoreKey) (hdr : Nat) : Statement (.timetableGet c hdr) := rfl
theorem timetableAcc (c : CoreKey) (hdr : Nat) : Statement (.timetableAcc c hdr) := rfl
theorem timetableEntryWake (c : CoreKey) (hdr : Nat) : Statement (.timetableEntryWake c hdr) := rfl
theorem carmCheckComplete (c : CoreKey) (hdr : Nat) : Statement (.carmCheckComplete c hdr) := rfl
theorem channelResponsePost (c : CoreKey) : Statement (.channelResponsePost c) := rfl
theorem tracePulse (session : Nat) : Statement (.tracePulse session) := rfl
theorem placerRun (slice : Fin 8) : Statement (.placerRun slice) := rfl
theorem creditExpiry (slice : Fin 8) : Statement (.creditExpiry slice) := rfl
theorem freezeBoundary (c : CoreKey) : Statement (.freezeBoundary c) := rfl
theorem quiesce (ctx : Nat) : Statement (.quiesce ctx) := rfl
theorem streamOut (c : CoreKey) : Statement (.streamOut c) := rfl
theorem resume (ctx : Nat) : Statement (.resume ctx) := rfl
theorem elasticEviction (c : CoreKey) : Statement (.elasticEviction c) := rfl
theorem coreReturn (c : CoreKey) : Statement (.coreReturn c) := rfl
theorem debugStopRequest (c : CoreKey) (t : Fin 8) : Statement (.debugStopRequest c t) := rfl
theorem debugResume (c : CoreKey) (t : Fin 8) : Statement (.debugResume c t) := rfl
theorem serviceClockSwitch (hub : Fin 2) : Statement (.serviceClockSwitch hub) := rfl
theorem launch (f : Frame) : Statement (.launch f) := rfl
theorem memrd (f : Frame) : Statement (.memrd f) := rfl
theorem memwr (f : Frame) : Statement (.memwr f) := rfl
theorem attest (f : Frame) : Statement (.attest f) := rfl
theorem bind (f : Frame) : Statement (.bind f) := rfl
theorem unbind (f : Frame) : Statement (.unbind f) := rfl
theorem destroy (f : Frame) : Statement (.destroy f) := rfl
theorem reset (f : Frame) : Statement (.reset f) := rfl
theorem topen (f : Frame) : Statement (.topen f) := rfl
theorem tclose (f : Frame) : Statement (.tclose f) := rfl
theorem trdptr (f : Frame) : Statement (.trdptr f) := rfl
theorem hostresp (f : Frame) : Statement (.hostresp f) := rfl
theorem cancel (f : Frame) : Statement (.cancel f) := rfl
theorem flightrd (f : Frame) : Statement (.flightrd f) := rfl
theorem slicecfg (f : Frame) : Statement (.slicecfg f) := rfl
theorem dirty (f : Frame) : Statement (.dirty f) := rfl
theorem dsnap (f : Frame) : Statement (.dsnap f) := rfl
theorem slicestop (f : Frame) : Statement (.slicestop f) := rfl
theorem sliceload (f : Frame) : Statement (.sliceload f) := rfl
theorem slicerun (f : Frame) : Statement (.slicerun f) := rfl
theorem sliceclear (f : Frame) : Statement (.sliceclear f) := rfl
theorem digest (f : Frame) : Statement (.digest f) := rfl
theorem healthcfg (f : Frame) : Statement (.healthcfg f) := rfl
theorem healthrd (f : Frame) : Statement (.healthrd f) := rfl
theorem heartbeat (f : Frame) : Statement (.heartbeat f) := rfl
theorem restore (f : Frame) : Statement (.restore f) := rfl
theorem image (f : Frame) : Statement (.image f) := rfl
theorem coldStart (o : StartOutcome) : Statement (.coldStart o) := rfl
theorem warmStart (o : StartOutcome) : Statement (.warmStart o) := rfl
theorem thermalLimit : Statement .thermalLimit := rfl
theorem thermalCritical : Statement .thermalCritical := rfl
theorem thermalClear : Statement .thermalClear := rfl
theorem errorEvent (rid : BitVec 32) : Statement (.errorEvent rid) := rfl
theorem resourceRemoval (rid : BitVec 32) : Statement (.resourceRemoval rid) := rfl

end Sys2Proof.Laws.Slot
end

