-- ==== Sys2Proof/Tests/Slice0.lean ====
section
/-!
SUPPORT. Tests: ill-formed terms, words written out from the spec's tables, one step of instructions on small states, and states that
meet the hypotheses of the obligations.
-/
namespace Sys2Proof.Tests

open Sys2Proof Sys2Proof.Machine

/-! The tests are checked one after the other: each is one evaluation by the kernel. -/

set_option Elab.async false

/-! ## Ill-formed terms, one for each check of WellFormed -/

/-- The guard that always lets its slot execute. -/
abbrev g0 : Guard := ⟨false, 0⟩

/-- A memory operand: base, segment register, displacement. -/
abbrev m0 : MemOp := ⟨5, 0, 0⟩

def frameOf (hdr : BitVec 128) (p : List Word) : Frame := { lane := 0, hdr := hdr, payload := p }

theorem test_wf_scalar : ([.cmp g0 .un 1 2 3, .cmpi g0 .ord 1 2 3, .segget g0 3 1, .segget g0 0 1, .mpop g0 5, .mpeek g0 0]
    : List Instr).all (fun i => !i.wf) = true := by decide +kernel

theorem test_wf_vector : ([.vadd g0 1 2 3 0 .e4m3 .rne, .vdiv g0 1 2 3 0 .i32 .rne, .vfma g0 1 2 3 4 0 .i8 .rne, .vsqrt g0 1 2 0 .e5m2 .rne,
    .vmin g0 1 2 3 0 .i16, .vneg g0 1 2 0 .e2m1, .vcmp g0 .ltn 1 2 3 0 .fp32, .vcmp g0 .ord 1 2 3 0 .i32, .vclass g0 .nan 1 2 0 .e2m1,
    .viadd g0 1 2 3 0 .fp32 false, .vimulh g0 1 2 3 0 .bf16, .viabs g0 1 2 0 .n32 false, .vshl g0 1 2 3 0 .fp64, .vpopc g0 1 2 0 .fp16]
    : List Instr).all (fun i => !i.wf) = true := by decide +kernel

theorem test_wf_moves : ([.vcvt g0 1 2 0 .fp32 .fp16 .rne true, .vpack g0 1 2 3 0 .fp16 .fp64 .rne false, .vpack g0 1 2 3 0 .i16 .fp32 .rne false,
    .vunpk g0 1 2 0 .fp64 .fp32, .vunpk g0 2 2 0 .fp64 .fp16, .vmov g0 1 2 0 .fp32 .g2, .vins g0 1 2 .fp64 8, .vext g0 1 2 .e2m1 128,
    .vperm g0 1 2 3 0 .e2m1, .vshuf g0 .even 1 2 3 0 .e2m1, .vrot g0 1 2 0 .e2m1 1, .vcomp g0 1 2 0 .e2m1, .vexpd g0 1 2 0 .e2m1,
    .vred g0 .sum 1 2 0 .e4m3 .rne false, .vred g0 .and 1 2 0 .fp32 .rne false, .vred g0 .min 1 2 0 .i32 .rne true,
    .vscan g0 .sum 1 2 0 .i32 .rtz false, .viota g0 1 0 .fp32, .vdot g0 1 2 3 0 .fp64 .fp16 .rne, .vdot g0 1 2 3 0 .i32 .i8 .rtz,
    .vhash g0 1 2 0 .i8 0] : List Instr).all (fun i => !i.wf) = true := by decide +kernel

theorem test_wf_matrix : ([.mma g0 1 2 3 0 .i32, .mmaz g0 1 2 3 0 .n8, .tcfg g0 1 .fp64 9 8, .tcfg g0 1 .i8 0 8, .tcfg g0 1 .i8 1 129,
    .tadd g0 1 2 3 .i16 .rne, .tadd g0 1 2 3 .i32 .rtz, .tscale g0 .row 1 2 3 .i32] : List Instr).all (fun i => !i.wf) = true := by decide +kernel

theorem test_wf_memory : ([.ld g0 1 m0 0 3 true false, .rld g0 1 m0 0 3 true false, .ldv g0 1 m0 0 0 0 .g2 false, .stv g0 6 m0 0 0 0 .g4 false,
    .stnb g0 1 m0 0 true true, .rstnb g0 1 m0 0 true true, .copy g0 1 0, .gath g0 1 0, .scat g0 1 0, .iload g0 1 0, .qpush g0 1 2 3,
    .trig g0 1 0] : List Instr).all (fun i => !i.wf) = true := by decide +kernel

theorem test_wf_frames : (let f := frameOf 0 (List.replicate 513 0)
    ([.launch f, .memrd f, .memwr f, .attest f, .bind f, .unbind f, .destroy f, .reset f, .topen f, .tclose f, .trdptr f, .hostresp f,
      .cancel f, .flightrd f, .slicecfg f, .dirty f, .dsnap f, .slicestop f, .sliceload f, .slicerun f, .sliceclear f, .digest f,
      .healthcfg f, .healthrd f, .heartbeat f, .restore f, .image f] : List Instr).all fun i => !i.wf) = true := by decide +kernel

/-! ## Words of every slot instruction, from the fields of Table 10-2, the opcodes of Tables 10-4 to 10-7 and the subfields of the
instruction's entry. The guard is (!p9) in the S slot, (p2) in V, (!p3) in M, (p1) in L and (!p4) in X. -/

theorem test_words_s1 : ([
    (0xC80C47E00000, none, .add ⟨true, 9⟩ 17 3 30),
    (0xC81447E00000, none, .sub ⟨true, 9⟩ 17 3 30),
    (0xC81C47E00000, none, .mul ⟨true, 9⟩ 17 3 30),
    (0xC82447E00000, none, .mulh ⟨true, 9⟩ 17 3 30),
    (0xC82C47E00000, none, .mulhn ⟨true, 9⟩ 17 3 30),
    (0xC83447E00000, none, .div ⟨true, 9⟩ 17 3 30),
    (0xC83C47E00000, none, .divn ⟨true, 9⟩ 17 3 30),
    (0xC84447E00000, none, .rem ⟨true, 9⟩ 17 3 30),
    (0xC84C47E00000, none, .remn ⟨true, 9⟩ 17 3 30),
    (0xC85447E00000, none, .and ⟨true, 9⟩ 17 3 30),
    (0xC85C47E00000, none, .or ⟨true, 9⟩ 17 3 30),
    (0xC86447E00000, none, .xor ⟨true, 9⟩ 17 3 30),
    (0xC86C47E00000, none, .andn ⟨true, 9⟩ 17 3 30),
    (0xC87447E00000, none, .orn ⟨true, 9⟩ 17 3 30),
    (0xC88447E00000, none, .shl ⟨true, 9⟩ 17 3 30),
    (0xC88C47E00000, none, .shr ⟨true, 9⟩ 17 3 30),
    (0xC89447E00000, none, .sra ⟨true, 9⟩ 17 3 30),
    (0xC89C47E00000, none, .rol ⟨true, 9⟩ 17 3 30),
    (0xC8A447E00000, none, .min ⟨true, 9⟩ 17 3 30),
    (0xC8AC47E00000, none, .max ⟨true, 9⟩ 17 3 30),
    (0xC8B447E00000, none, .minn ⟨true, 9⟩ 17 3 30),
    (0xC8BC47E00000, none, .maxn ⟨true, 9⟩ 17 3 30),
    (0xC8C447E00000, none, .bext ⟨true, 9⟩ 17 3 30),
    (0xC8CC47E00000, none, .bdep ⟨true, 9⟩ 17 3 30),
    (0xC8D347E00008, none, .cmp ⟨true, 9⟩ .len 13 3 30),
    (0xC8DC47E0000C, none, .sel ⟨true, 9⟩ 17 12 3 30)] : List (BitVec 48 × Option (BitVec 16) × Instr)).all (fun r => decodeS r.1 r.2.1 == some r.2.2) = true := by decide +kernel

theorem test_words_s2 : ([
    (0xC8E447EBFFFF, none, .lea ⟨true, 9⟩ 17 3 30 5 (-1)),
    (0xC90446000000, none, .clz ⟨true, 9⟩ 17 3),
    (0xC90C46000000, none, .ctz ⟨true, 9⟩ 17 3),
    (0xC91446000000, none, .popc ⟨true, 9⟩ 17 3),
    (0xC91C46000000, none, .brev ⟨true, 9⟩ 17 3),
    (0xC984460FFFFE, none, .addi ⟨true, 9⟩ 17 3 (-2)),
    (0xC98C460FFFFE, none, .andi ⟨true, 9⟩ 17 3 0xFFFFE),
    (0xC994460FFFFE, none, .ori ⟨true, 9⟩ 17 3 0xFFFFE),
    (0xC99C460FFFFE, none, .xori ⟨true, 9⟩ 17 3 0xFFFFE),
    (0xC9A44600003D, none, .shli ⟨true, 9⟩ 17 3 61),
    (0xC9AC4600003D, none, .shri ⟨true, 9⟩ 17 3 61),
    (0xC9B44600003D, none, .srai ⟨true, 9⟩ 17 3 61),
    (0xC9BB46780000, none, .cmpi ⟨true, 9⟩ .gen 13 3 (-0x80000)),
    (0xC9C4400BCDEF, some 0x089A, .li ⟨true, 9⟩ 17 0x089ABCDEF),
    (0xC9CC46034567, some 0x0012, .lih ⟨true, 9⟩ 17 3 0x01234567),
    (0xCA0346E00000, none, .pand ⟨true, 9⟩ 13 3 14),
    (0xCA0B46E00000, none, .por ⟨true, 9⟩ 13 3 14),
    (0xCA1346E00000, none, .pxor ⟨true, 9⟩ 13 3 14),
    (0xCA1B46000000, none, .pnot ⟨true, 9⟩ 13 3),
    (0xCA2340000001, none, .pset ⟨true, 9⟩ 13 true),
    (0xCA80000FFFFF, none, .br ⟨true, 9⟩ (-1)),
    (0xCA8800000ABC, none, .jmp ⟨true, 9⟩ 0xABC),
    (0xCA9006000000, none, .jr ⟨true, 9⟩ 3),
    (0xCA9800000ABC, none, .call ⟨true, 9⟩ 0xABC),
    (0xCAA006000000, none, .callr ⟨true, 9⟩ 3),
    (0xCAA800000000, none, .ret ⟨true, 9⟩)] : List (BitVec 48 × Option (BitVec 16) × Instr)).all (fun r => decodeS r.1 r.2.1 == some r.2.2) = true := by decide +kernel

theorem test_words_s3 : ([
    (0xCAC0000FFFFC, none, .loop ⟨true, 9⟩ (-4)),
    (0xCAC8060000A5, none, .lset ⟨true, 9⟩ 3 0xA5),
    (0xCB04460ABC06, none, .spawn ⟨true, 9⟩ 17 3 0xABC 6),
    (0xCB0800000000, none, .halt ⟨true, 9⟩),
    (0xCB10000FFFFE, none, .trap ⟨true, 9⟩ 0xFFFFE),
    (0xCB1800000000, none, .eret ⟨true, 9⟩),
    (0xCB200600000B, none, .park ⟨true, 9⟩ 3 11),
    (0xCB4440000034, none, .mfc ⟨true, 9⟩ 17 0x034),
    (0xCB4806000034, none, .mtc ⟨true, 9⟩ 0x034 3),
    (0xCB544000000B, none, .mfs ⟨true, 9⟩ 17 11),
    (0xCB580600000B, none, .mts ⟨true, 9⟩ 11 3),
    (0xCB6007E00006, none, .segset ⟨true, 9⟩ 6 3 30),
    (0xCB6C80000006, none, .segget ⟨true, 9⟩ 18 6)] : List (BitVec 48 × Option (BitVec 16) × Instr)).all (fun r => decodeS r.1 r.2.1 == some r.2.2) = true := by decide +kernel

theorem test_words_v1 : ([
    (0x100C47E05180, none, .vadd ⟨false, 2⟩ 17 3 30 5 .fp32 .rna),
    (0x101447E05180, none, .vsub ⟨false, 2⟩ 17 3 30 5 .fp32 .rna),
    (0x101C47E05180, none, .vmul ⟨false, 2⟩ 17 3 30 5 .fp32 .rna),
    (0x102447E4D180, none, .vfma ⟨false, 2⟩ 17 3 30 9 5 .fp32 .rna),
    (0x102C47E4D180, none, .vfms ⟨false, 2⟩ 17 3 30 9 5 .fp32 .rna),
    (0x103447E4D180, none, .vfnma ⟨false, 2⟩ 17 3 30 9 5 .fp32 .rna),
    (0x103C47E050E0, none, .vdiv ⟨false, 2⟩ 17 3 30 5 .fp64 .dyn),
    (0x1044460052A0, none, .vsqrt ⟨false, 2⟩ 17 3 5 .fp16 .sr),
    (0x104C460052A0, none, .vrcp ⟨false, 2⟩ 17 3 5 .fp16 .sr),
    (0x1054460052A0, none, .vrsq ⟨false, 2⟩ 17 3 5 .fp16 .sr),
    (0x105C47E05300, none, .vmin ⟨false, 2⟩ 17 3 30 5 .bf16),
    (0x106447E05300, none, .vmax ⟨false, 2⟩ 17 3 30 5 .bf16),
    (0x106C46005300, none, .vabs ⟨false, 2⟩ 17 3 5 .bf16),
    (0x107446005300, none, .vneg ⟨false, 2⟩ 17 3 5 .bf16),
    (0x107C47E05300, none, .vcpys ⟨false, 2⟩ 17 3 30 5 .bf16),
    (0x108446005160, none, .vexp2 ⟨false, 2⟩ 17 3 5 .fp32 .rdn),
    (0x108C46005160, none, .vlog2 ⟨false, 2⟩ 17 3 5 .fp32 .rdn),
    (0x109187E05D09, none, .vcmp ⟨false, 2⟩ .gtn 6 3 30 5 .n32),
    (0x10998600540D, none, .vclass ⟨false, 2⟩ .neg 6 3 5 .e4m3),
    (0x110447E05B01, none, .viadd ⟨false, 2⟩ 17 3 30 5 .i8 true),
    (0x110C47E05B01, none, .visub ⟨false, 2⟩ 17 3 30 5 .i8 true),
    (0x111447E05B01, none, .vimul ⟨false, 2⟩ 17 3 30 5 .i8 true),
    (0x111C47E05F00, none, .vimulh ⟨false, 2⟩ 17 3 30 5 .n8),
    (0x112447E05F00, none, .vimin ⟨false, 2⟩ 17 3 30 5 .n8),
    (0x112C47E05F00, none, .vimax ⟨false, 2⟩ 17 3 30 5 .n8),
    (0x113446005A01, none, .viabs ⟨false, 2⟩ 17 3 5 .i16 true)] : List (BitVec 48 × Option (BitVec 16) × Instr)).all (fun r => decodeV r.1 r.2.1 == some r.2.2) = true := by decide +kernel

theorem test_words_v2 : ([
    (0x113C47E05E00, none, .vshl ⟨false, 2⟩ 17 3 30 5 .n16),
    (0x114447E05E00, none, .vshr ⟨false, 2⟩ 17 3 30 5 .n16),
    (0x114C47E05E00, none, .vsra ⟨false, 2⟩ 17 3 30 5 .n16),
    (0x115447E05E00, none, .vand ⟨false, 2⟩ 17 3 30 5 .n16),
    (0x115C47E05E00, none, .vor ⟨false, 2⟩ 17 3 30 5 .n16),
    (0x116447E05E00, none, .vxor ⟨false, 2⟩ 17 3 30 5 .n16),
    (0x116C47E05E00, none, .vandn ⟨false, 2⟩ 17 3 30 5 .n16),
    (0x117446005C00, none, .vpopc ⟨false, 2⟩ 17 3 5 .n64),
    (0x118446005551, none, .vcvt ⟨false, 2⟩ 17 3 5 .e5m2 .fp32 .rup true),
    (0x118C47E05B1A, none, .vpack ⟨false, 2⟩ 17 3 30 5 .i8 .i16 .rne true),
    (0x119486005406, none, .vunpk ⟨false, 2⟩ 18 3 5 .e4m3 .e2m1),
    (0x120510005902, none, .vmov ⟨false, 2⟩ 20 8 5 .i32 .g4),
    (0x120C47E05900, none, .vsel ⟨false, 2⟩ 17 3 30 5 .i32),
    (0x121446005900, none, .vbcast ⟨false, 2⟩ 17 3 5 .i32),
    (0x121C46000B1F, none, .vins ⟨false, 2⟩ 17 3 .i8 31),
    (0x12244600061F, some 0x0003, .vext ⟨false, 2⟩ 17 3 .e2m1 127),
    (0x122C47E05B00, none, .vperm ⟨false, 2⟩ 17 3 30 5 .i8),
    (0x123447E05B03, none, .vshuf ⟨false, 2⟩ .odd 17 3 30 5 .i8),
    (0x123C46005B15, none, .vrot ⟨false, 2⟩ 17 3 5 .i8 21),
    (0x124446005900, none, .vcomp ⟨false, 2⟩ 17 3 5 .i32),
    (0x124C46005900, none, .vexpd ⟨false, 2⟩ 17 3 5 .i32),
    (0x128446005908, none, .vred ⟨false, 2⟩ .sum 17 3 5 .i32 .rne true),
    (0x128C46005102, none, .vscan ⟨false, 2⟩ .max 17 3 5 .fp32 .rne false),
    (0x129440005F00, none, .viota ⟨false, 2⟩ 17 5 .n8),
    (0x129C47E05126, none, .vdot ⟨false, 2⟩ 17 3 30 5 .fp32 .e2m1 .rtz),
    (0x130186700100, none, .kand ⟨false, 2⟩ 6 3 7 .fp32)] : List (BitVec 48 × Option (BitVec 16) × Instr)).all (fun r => decodeV r.1 r.2.1 == some r.2.2) = true := by decide +kernel

theorem test_words_v3 : ([
    (0x130986700100, none, .kor ⟨false, 2⟩ 6 3 7 .fp32),
    (0x131186700100, none, .kxor ⟨false, 2⟩ 6 3 7 .fp32),
    (0x131986000100, none, .knot ⟨false, 2⟩ 6 3 .fp32),
    (0x132186000100, none, .kmov ⟨false, 2⟩ 6 3 .fp32),
    (0x132C46000100, none, .kpopc ⟨false, 2⟩ 17 3 .fp32),
    (0x138446005C1F, none, .vhash ⟨false, 2⟩ 17 3 5 .n64 31)] : List (BitVec 48 × Option (BitVec 16) × Instr)).all (fun r => decodeV r.1 r.2.1 == some r.2.2) = true := by decide +kernel

theorem test_words_m : ([
    (0x9874AF58, none, .mma ⟨true, 3⟩ 13 2 11 6 .i8),
    (0x98B4AF58, none, .mmaz ⟨true, 3⟩ 13 2 11 6 .i8),
    (0x98F40000, none, .tzero ⟨true, 3⟩ 13),
    (0x99340008, some 0x0201, .tcfg ⟨true, 3⟩ 13 .fp32 16 8),
    (0x99748000, none, .tmov ⟨true, 3⟩ 13 2),
    (0x99B48000, none, .ttrn ⟨true, 3⟩ 13 2),
    (0x99F48025, none, .tcvt ⟨true, 3⟩ 13 2 .e4m3 .sr),
    (0x9A34AC0F, none, .tadd ⟨true, 3⟩ 13 2 11 .fp32 .dyn),
    (0x9A76C700, none, .trowi ⟨true, 3⟩ 13 27 6),
    (0x9A82C758, none, .trowx ⟨true, 3⟩ 27 11 6),
    (0x9AF40000, none, .tinv ⟨true, 3⟩ 13),
    (0x9B34AC1A, none, .tscale ⟨true, 3⟩ .elem 13 2 11 .bf16)] : List (BitVec 32 × Option (BitVec 16) × Instr)).all (fun r => decodeM r.1 r.2.1 == some r.2.2) = true := by decide +kernel

theorem test_words_l1 : ([
    (0x080A35DEFFF00E, none, .ld ⟨false, 1⟩ 17 ⟨21, 6, -16⟩ 30 2 true true),
    (0x081235DEFFF00B, none, .st ⟨false, 1⟩ 17 ⟨21, 6, -16⟩ 30 3 true),
    (0x081E95DEFFF0BD, none, .ldv ⟨false, 1⟩ 20 ⟨21, 6, -16⟩ 30 5 3 .g4 true),
    (0x082695DEFFF0AA, none, .stv ⟨false, 1⟩ 20 ⟨21, 6, -16⟩ 30 5 1 .g2 false),
    (0x082E35DEFFF0B4, none, .ldvg ⟨false, 1⟩ 17 ⟨21, 6, -16⟩ 30 5 2 true),
    (0x083635DEFFF0B8, none, .stvs ⟨false, 1⟩ 17 ⟨21, 6, -16⟩ 30 5 3 false),
    (0x083DB5DEFFF001, none, .ldt ⟨false, 1⟩ 13 ⟨21, 6, -16⟩ 30 true),
    (0x0845B5DEFFF000, none, .stt ⟨false, 1⟩ 13 ⟨21, 6, -16⟩ 30 false),
    (0x084A35DEFFF001, none, .stnb ⟨false, 1⟩ 17 ⟨21, 6, -16⟩ 30 true false),
    (0x088235DEFFF009, none, .rld ⟨false, 1⟩ 17 ⟨21, 6, -16⟩ 30 1 false true),
    (0x088A35DEFFF002, none, .rst ⟨false, 1⟩ 17 ⟨21, 6, -16⟩ 30 2 false),
    (0x089235DEFFF002, none, .rstnb ⟨false, 1⟩ 17 ⟨21, 6, -16⟩ 30 false true),
    (0x089A35DEFFF039, none, .raop ⟨false, 1⟩ .fadd 17 ⟨21, 6, -16⟩ 30 true),
    (0x090235DEFFF002, none, .aadd ⟨false, 1⟩ 17 ⟨21, 6, -16⟩ 30 false),
    (0x090A35DEFFF002, none, .amin ⟨false, 1⟩ 17 ⟨21, 6, -16⟩ 30 false),
    (0x091235DEFFF002, none, .amax ⟨false, 1⟩ 17 ⟨21, 6, -16⟩ 30 false),
    (0x091A35DEFFF002, none, .aminn ⟨false, 1⟩ 17 ⟨21, 6, -16⟩ 30 false),
    (0x092235DEFFF002, none, .amaxn ⟨false, 1⟩ 17 ⟨21, 6, -16⟩ 30 false),
    (0x092A35DEFFF002, none, .aand ⟨false, 1⟩ 17 ⟨21, 6, -16⟩ 30 false),
    (0x093235DEFFF002, none, .aor ⟨false, 1⟩ 17 ⟨21, 6, -16⟩ 30 false),
    (0x093A35DEFFF002, none, .axor ⟨false, 1⟩ 17 ⟨21, 6, -16⟩ 30 false),
    (0x094235DEFFF002, none, .aswap ⟨false, 1⟩ 17 ⟨21, 6, -16⟩ 30 false),
    (0x094A35DEFFF002, none, .acas ⟨false, 1⟩ 17 ⟨21, 6, -16⟩ 30 false),
    (0x095235DEFFF002, none, .afadd ⟨false, 1⟩ 17 ⟨21, 6, -16⟩ 30 false),
    (0x098235C0FFF000, none, .qrsv ⟨false, 1⟩ 17 ⟨21, 6, -16⟩),
    (0x098A35C0FFF000, none, .qpub ⟨false, 1⟩ 17 ⟨21, 6, -16⟩)] : List (BitVec 56 × Option (BitVec 16) × Instr)).all (fun r => decodeL r.1 r.2.1 == some r.2.2) = true := by decide +kernel

theorem test_words_l2 : ([
    (0x099235C0FFF000, none, .qtake ⟨false, 1⟩ 17 ⟨21, 6, -16⟩),
    (0x099A35C0FFF000, none, .depdec ⟨false, 1⟩ 17 ⟨21, 6, -16⟩),
    (0x0A05B400000000, none, .copy ⟨false, 1⟩ 13 5),
    (0x0A0DB400000000, none, .gath ⟨false, 1⟩ 13 5),
    (0x0A15B400000000, none, .scat ⟨false, 1⟩ 13 5),
    (0x0A1DB400000000, none, .iload ⟨false, 1⟩ 13 5),
    (0x0A8235DEFFF000, none, .boinit ⟨false, 1⟩ 17 ⟨21, 6, -16⟩ 30),
    (0x0A8A35DEFFF000, none, .boexp ⟨false, 1⟩ 17 ⟨21, 6, -16⟩ 30),
    (0x0A9015C0FFF000, none, .boarr ⟨false, 1⟩ ⟨21, 6, -16⟩),
    (0x0A9815DEFFF000, none, .bwait ⟨false, 1⟩ ⟨21, 6, -16⟩ 30),
    (0x0AA5B5DEFFF000, none, .btest ⟨false, 1⟩ 13 ⟨21, 6, -16⟩ 30),
    (0x0AC00000000000, none, .mwait ⟨false, 1⟩),
    (0x0ACA4000000000, none, .mpop ⟨false, 1⟩ 18),
    (0x0AD24000000000, none, .mpeek ⟨false, 1⟩ 18),
    (0x0B000000000003, none, .fence ⟨false, 1⟩ .system),
    (0x0B0815DE004000, some 0x0001, .acsnap ⟨false, 1⟩ ⟨21, 6, 0x10040⟩ 30)] : List (BitVec 56 × Option (BitVec 16) × Instr)).all (fun r => decodeL r.1 r.2.1 == some r.2.2) = true := by decide +kernel

theorem test_words_x : ([
    (0xA0208814B5, none, .send ⟨true, 4⟩ 17 0xA5 21),
    (0xA0510014B5, none, .recv ⟨true, 4⟩ 17 (.imm 0xA5 21)),
    (0xA0711B6000, none, .recvt ⟨true, 4⟩ 17 3 13 .reg),
    (0xA080000002, none, .barw ⟨true, 4⟩ .col),
    (0xA0B1180021, none, .barwr ⟨true, 4⟩ .xor .row 17 3),
    (0xA0C018A000, none, .tamp ⟨true, 4⟩ .domain 3 (-8192)),
    (0xA0ED185234, some 0x0007, .waitt ⟨true, 4⟩ .vtick 13 3 (119348)),
    (0xA10088C0A5, none, .wsend ⟨true, 4⟩ 17 3 0xA5 none),
    (0xA10088F5A5, none, .wsend ⟨true, 4⟩ 17 3 0xA5 (some 21)),
    (0xA12088EABC, none, .amsg ⟨true, 4⟩ 17 3 0x2ABC),
    (0xA14000C006, none, .qpush ⟨true, 4⟩ 0 3 6),
    (0xA171380001, none, .qpop ⟨true, 4⟩ 17 7 true),
    (0xA18D180000, none, .carm ⟨true, 4⟩ 13 3),
    (0xA1A088C000, none, .cfire ⟨true, 4⟩ 17 3),
    (0xA1C08800A5, none, .trig ⟨true, 4⟩ 17 0xA5)] : List (BitVec 40 × Option (BitVec 16) × Instr)).all (fun r => decodeX r.1 r.2.1 == some r.2.2) = true := by decide +kernel


/-! ## Small states -/

/-- The state whose next step fetches the all-zero bundle: one context of one core, slot 7 ready (log 30). -/
def start : State := State.reset.withFetchWord 32 0

/-- That state with its context's core, thread and record changed. -/
def with' (f : Core → Core) (h : Thread → Thread) (r : Record → Record) : State :=
  { start with
    core := (f start.core).modSlot 7 h
    contexts := start.contexts.map fun c => { c with record := r c.record } }

/-- The bundle of slot 7 open, over a changed core and thread. -/
def opened (f : Core → Core) (h : Thread → Thread) : State := (with' f h id).openBundle

/-- The bundle open over a changed core and record. -/
def teamed (f : Core → Core) (r : Record → Record) : State := (with' f id r).openBundle

/-- The bundle of slot 7 open. -/
def base : State := opened id id

/-- Scalars s1 to s31 of a thread. -/
def scal (l : List (Nat × Word)) (t : Thread) : Thread := { t with s := l.foldl (fun v p => v.setIfInBounds p.1 p.2) t.s }

/-- Bytes in a core's scratchpad. -/
def pad (l : List (Nat × Nat × Nat)) (c : Core) : Core := { c with sp := l.foldl (fun m p => memWrite m p.1 p.2.1 p.2.2) c.sp }

/-- An instruction whose next state meets a test. -/
def after (i : Instr) (s : State) (p : State → Bool) : Bool := match exec i s with
  | .next t => p t
  | _ => false

/-- An instruction that leaves a state as it is. -/
def still (i : Instr) (s : State) : Bool := after i s fun t => t == s

/-- An instruction that traps with a code and a stage. -/
def traps (i : Instr) (s : State) (stage code : Nat) : Bool := after i s fun t => match t.cur.trap with
  | some q => q.stage == stage && q.code.toNat == code
  | none => false

/-! ## Every slot instruction executes normally somewhere -/

theorem test_ready_s : ([.add g0 1 2 3, .sub g0 1 2 3, .mul g0 1 2 3, .mulh g0 1 2 3, .mulhn g0 1 2 3, .div g0 1 2 3, .divn g0 1 2 3,
    .rem g0 1 2 3, .remn g0 1 2 3, .and g0 1 2 3, .or g0 1 2 3, .xor g0 1 2 3, .andn g0 1 2 3, .orn g0 1 2 3, .shl g0 1 2 3,
    .shr g0 1 2 3, .sra g0 1 2 3, .rol g0 1 2 3, .min g0 1 2 3, .max g0 1 2 3, .minn g0 1 2 3, .maxn g0 1 2 3, .bext g0 1 2 3,
    .bdep g0 1 2 3, .cmp g0 .lt 0 2 3, .sel g0 1 8 2 3, .lea g0 1 2 3 7 0x10000, .clz g0 1 2, .ctz g0 1 2, .popc g0 1 2,
    .brev g0 1 2, .addi g0 1 2 3, .andi g0 1 2 3, .ori g0 1 2 3, .xori g0 1 2 3, .shli g0 1 2 63, .shri g0 1 2 63, .srai g0 1 2 63,
    .cmpi g0 .gtn 1 2 3, .li g0 1 3, .lih g0 1 2 3, .pand g0 1 2 3, .por g0 1 2 3, .pxor g0 1 2 3, .pnot g0 1 2, .pset g0 1 true,
    .br g0 (-1), .jmp g0 4095, .jr g0 2, .call g0 4095, .callr g0 1, .ret g0, .loop g0 (-4), .lset g0 2 255, .spawn g0 1 2 4095 0,
    .halt g0, .trap g0 5, .eret g0, .park g0 2 15, .mfc g0 1 0, .mtc g0 0x010 2, .mfs g0 1 15, .mts g0 15 2, .segset g0 7 2 3,
    .segget g0 30 7] : List Instr).all (fun i => base.ready i) = true := by decide +kernel

theorem test_ready_v : ([.vadd g0 1 2 3 5 .fp32 .rne, .vsub g0 1 2 3 5 .fp64 .dyn, .vmul g0 1 2 3 5 .fp16 .sr, .vfma g0 1 2 3 4 5 .bf16 .rtz,
    .vfms g0 1 2 3 4 5 .fp32 .rne, .vfnma g0 1 2 3 4 5 .fp32 .rne, .vdiv g0 1 2 3 5 .fp32 .rne, .vsqrt g0 1 2 5 .fp32 .rne,
    .vrcp g0 1 2 5 .fp32 .rne, .vrsq g0 1 2 5 .fp32 .rne, .vmin g0 1 2 3 5 .fp32, .vmax g0 1 2 3 5 .fp32, .vabs g0 1 2 5 .fp32,
    .vneg g0 1 2 5 .fp32, .vcpys g0 1 2 3 5 .fp32, .vexp2 g0 1 2 5 .fp32 .rne, .vlog2 g0 1 2 5 .fp32 .rne, .vcmp g0 .un 1 2 3 5 .fp32,
    .vcmp g0 .gtn 1 2 3 5 .n8, .vclass g0 .neg 1 2 5 .e4m3, .viadd g0 1 2 3 5 .i8 true, .visub g0 1 2 3 5 .i8 true,
    .vimul g0 1 2 3 5 .i8 true, .vimulh g0 1 2 3 5 .n64, .vimin g0 1 2 3 5 .n8, .vimax g0 1 2 3 5 .i16, .viabs g0 1 2 5 .i64 true,
    .vshl g0 1 2 3 5 .n8, .vshr g0 1 2 3 5 .n8, .vsra g0 1 2 3 5 .n8, .vand g0 1 2 3 5 .n8, .vor g0 1 2 3 5 .n8, .vxor g0 1 2 3 5 .n8,
    .vandn g0 1 2 3 5 .n8, .vpopc g0 1 2 5 .n8, .vcvt g0 1 2 5 .fp32 .e2m1 .rne false, .vpack g0 1 2 3 5 .fp16 .fp32 .rne false,
    .vunpk g0 2 1 5 .fp32 .fp16, .vmov g0 4 8 5 .fp32 .g4, .vsel g0 1 2 3 5 .fp32, .vbcast g0 1 2 5 .fp32, .vins g0 1 2 .fp64 7,
    .vext g0 1 2 .e2m1 127, .vperm g0 1 2 3 5 .i8, .vshuf g0 .odd 1 2 3 5 .i8, .vrot g0 1 2 5 .i8 63, .vcomp g0 1 2 5 .i8,
    .vexpd g0 1 2 5 .i8, .vred g0 .sum 1 2 5 .fp32 .rne false, .vscan g0 .sum 1 2 5 .i32 .rne true, .viota g0 1 5 .i8,
    .vdot g0 1 2 3 5 .fp64 .fp32 .rne, .kand g0 1 2 3 .i8, .kor g0 1 2 3 .i8, .kxor g0 1 2 3 .i8, .knot g0 1 2 .i8, .kmov g0 0 2 .i8,
    .kpopc g0 1 2 .i8, .vhash g0 1 2 5 .n32 31] : List Instr).all (fun i => base.ready i) = true := by decide +kernel

theorem test_ready_mlx : ([.mma g0 1 2 3 7 .i8, .mmaz g0 1 2 3 7 .fp64, .tzero g0 15, .tcfg g0 15 .fp64 8 8, .tmov g0 1 2, .ttrn g0 1 2,
    .tcvt g0 1 2 .fp32 .rne, .tadd g0 1 2 3 .fp32 .rne, .trowi g0 1 31 7, .trowx g0 31 1 7, .tinv g0 1, .tscale g0 .elem 1 2 3 .fp32,
    .ld g0 1 m0 2 3 false true, .st g0 1 m0 2 0 false, .ldv g0 4 m0 2 1 3 .g4 true, .stv g0 28 m0 2 1 0 .g4 false, .ldvg g0 1 m0 2 1 0 true,
    .stvs g0 1 m0 2 1 3 false, .ldt g0 1 m0 2 true, .stt g0 1 m0 2 false, .stnb g0 1 m0 2 true false, .rld g0 1 m0 2 3 false false,
    .rst g0 1 m0 2 3 false, .rstnb g0 1 m0 2 false true, .raop g0 .fadd 1 m0 2 true, .aadd g0 1 m0 2 true, .amin g0 1 m0 2 true,
    .amax g0 1 m0 2 true, .aminn g0 1 m0 2 true, .amaxn g0 1 m0 2 true, .aand g0 1 m0 2 true, .aor g0 1 m0 2 true, .axor g0 1 m0 2 true,
    .aswap g0 1 m0 2 true, .acas g0 1 m0 2 true, .afadd g0 1 m0 2 false, .qrsv g0 1 m0, .qpub g0 1 m0, .qtake g0 1 m0, .depdec g0 1 m0,
    .copy g0 1 1, .gath g0 1 7, .scat g0 1 7, .iload g0 1 7, .boinit g0 1 m0 2, .boexp g0 1 m0 2, .boarr g0 m0, .bwait g0 m0 2,
    .btest g0 1 m0 2, .mwait g0, .mpop g0 30, .mpeek g0 2, .fence g0 .system, .acsnap g0 m0 2, .send g0 1 0 31, .recv g0 1 (.imm 0 31),
    .recv g0 1 .reg, .recvt g0 1 2 3 .reg, .barw g0 .all, .barwr g0 .xor .col 1 2, .tamp g0 .domain 1 5, .waitt g0 .dtick 1 2 5,
    .wsend g0 1 2 255 none, .wsend g0 1 2 255 (some 31), .amsg g0 1 2 0x3FFF, .qpush g0 0 2 7, .qpush g0 7 2 0, .qpop g0 1 7 true,
    .qpop g0 1 7 false, .carm g0 1 2, .cfire g0 1 2, .trig g0 1 255] : List Instr).all (fun i => base.ready i) = true := by decide +kernel


/-! ## States that meet the hypotheses of the obligations: decode, step, traps -/

/-- A trap that enters the handler. -/
def ill : Trap := trapIllegal 0

/-- The state whose next step fetches these 32 bytes. -/
def fetches (w : BitVec 256) : State := with' (·.storeBundle w) id id

theorem test_meets_EncodeDecode : (Instr.ld g0 1 m0 2 2 true true).wf = true ∧ (encodeS (.add g0 1 2 3)).isSome = true
    ∧ (encodeV (.vadd g0 1 2 3 0 .fp32 .rne)).isSome = true ∧ (encodeM (.tcfg g0 1 .fp64 8 8)).isSome = true
    ∧ (encodeL (.ld g0 1 m0 2 2 true true)).isSome = true ∧ (encodeX (.wsend g0 1 2 3 (some 31))).isSome = true := by decide +kernel

theorem test_meets_DecodeRefuses : (decodeBundle 0).isSome = true ∧ (1#48).toNat / 2 ^ 35 % 2 ^ 8 = 0 ∧ (0x800000000000#48).toNat / 2 ^ 35 % 2 ^ 8 = 0
    ∧ (1#32).toNat / 2 ^ 22 % 2 ^ 5 = 0 ∧ (1#56).toNat / 2 ^ 43 % 2 ^ 8 = 0 ∧ (1#40).toNat / 2 ^ 29 % 2 ^ 6 = 0
    ∧ 6 ≤ (BitVec.ofNat 256 (6 * 2 ^ 252)).toNat / 2 ^ 252 % 8 ∧ (0xFFFF#256).toNat / 2 ^ 252 % 8 = 0 ∧ (0xFFFF#256).toNat % 2 ^ 16 ≠ 0 := by
  decide +kernel

/-- A bundle of one instruction in each slot in turn: ADD, VADD, TINV, LD and SEND. -/
def lone : List (BitVec 256 × Instr) :=
  [(BitVec.ofNat 256 (0x946400000 * 2 ^ 192), .add g0 5 3 4), (BitVec.ofNat 256 (0x844305100 * 2 ^ 144), .vadd g0 1 2 3 5 .fp32 .rne),
   (BitVec.ofNat 256 (0x2C00000 * 2 ^ 112), .tinv g0 0), (BitVec.ofNat 256 (0x088500000003 * 2 ^ 56), .ld g0 4 ⟨5, 0, 0⟩ 0 3 false false),
   (BitVec.ofNat 256 (0x20180009 * 2 ^ 16), .send g0 3 0 9)]

theorem test_meets_StepRuns : (match start.agenda with | [.bundle k] => start.hasBundle k | _ => false) = true
    ∧ lone.all (fun p =>
      let s := fetches p.1
      let o := ({ s with agenda := [] } : State).openBundle
      !o.core.fetchBad o.cur.pc && memRead o.core.istore (32 * o.cur.pc.toNat) 32 == p.1.toNat && o.breakpoint.isNone
      && (match decodeBundle p.1 with
        | some b => (bundleSlots b).contains p.2 && !writeConflict b && after p.2 (o.withCounts b) (fun t => t.cur.trap.isNone)
        | none => false)) = true
    ∧ ([.ld ⟨true, 0⟩ 1 m0 2 3 false true, .nop] : List Instr).all (fun i =>
      (readSpans i base == [] && !writesOwn i base) || !base.executes (slotInfo i).guard) = true
    ∧ readSpans (.ld g0 1 m0 2 3 false true) base ≠ [] ∧ writesOwn (.st g0 1 m0 2 3 false) base = true := by
  decide +kernel

/-- A breakpoint register of the ready thread, whose next step fetches the NOP bundle at PC 0. -/
def bkpts (n : Fin 4) (v : Nat) : State := with' id (fun t => { t with bkpt := t.bkpt.set n (BitVec.ofNat 64 v) }) id

theorem test_meets_BundleFates : ((with' (fun c => { c with istoreBad := [3] }) id id).openBundle.core.fetchBad 0) = true
    ∧ start.openBundle.core.fetchBad 0 = false ∧ decodeBundle (BitVec.ofNat 256 (7 * 2 ^ 252)) = none
    ∧ (match decodeBundle (BitVec.ofNat 256 (0x946400000 * 2 ^ 192 + 0x08A500000003 * 2 ^ 56)) with
      | some b => writeConflict b
      | none => false) = true
    ∧ base.cur.trap = none ∧ base.thread.phase = .ready
    ∧ decodeBundle (BitVec.ofNat 256 (memRead start.core.istore 0 32)) = some ⟨false, 0, 0, 0, .nop, .nop, .nop, .nop, .nop⟩
    ∧ ([(bkpts 0 (2 ^ 63), TrapAct.trap), (bkpts 0 (2 ^ 63 + 2 ^ 62), .stop)] : List (State × TrapAct)).all (fun p =>
      let o := p.1.openBundle
      o.breakpoint == some ⟨1, 0x11, 0, 0, false, 0, 0, p.2⟩ && !o.cur.pre.skipBreak && !o.core.fetchBad o.cur.pc && o.cur.pc == 0) = true
    ∧ (bkpts 1 (2 ^ 63)).openBundle.breakpoint = some ⟨1, 0x11, 0, 0, false, 1, 0, .trap⟩
    ∧ (bkpts 0 (2 ^ 63 + 1)).openBundle.breakpoint = none
    ∧ (with' id (fun t => { t with skipBreak := true, bkpt := t.bkpt.set 0 (2 ^ 63) }) id).openBundle.breakpoint = none
    ∧ (match step (bkpts 0 (2 ^ 63)) with
      | .next t => t.core.slots[7].tcause == 0x11 && t.core.slots[7].trapped
      | _ => false) = true
    ∧ (match step (bkpts 0 (2 ^ 63 + 2 ^ 62)) with
      | .next t => t.core.slots[7].stopped.isSome && !t.core.slots[7].trapped
      | _ => false) = true := by decide +kernel

theorem test_meets_RestartPoints : (base.takeTrap ill).cur.trap = some ill ∧ (base.takeTrap { ill with stage := 5 }).cur.trap = some { ill with stage := 5 }
    ∧ (base.takeTrap ill).cur.slot = base.cur.slot := by decide +kernel

theorem test_meets_TrapEntry : ill.act = .trap ∧ ill.next = false ∧ (start.slotOf 7).phase = .ready ∧ (start.slotOf 7).trapped = false
    ∧ ((with' id (fun t => { t with trapped := true }) id).slotOf 7).trapped = true := by decide +kernel

theorem test_meets_TrapChoice_order : Trap.before { ill with lane := 1 } { ill with lane := 2 } = true
    ∧ Trap.before { ill with slot := 3 } { ill with slot := 0 } = false ∧ Trap.before { ill with slot := 0 } { ill with slot := 0 } = true := by
  decide +kernel

theorem test_meets_TrapChoice : ill.before { ill with stage := 2 } = true ∧ Trap.before { ill with stage := 2 } { ill with stage := 3, code := 1 } = true
    ∧ ((base.setS 1 1).takeTrap ill).cur.trap = some ill ∧ (base.setS 1 1).cur.pc = base.cur.pc := by decide +kernel

theorem test_meets_Guards : base.executes ⟨true, 0⟩ = false ∧ (slotInfo (.add ⟨true, 0⟩ 1 2 3)).slot = 0 ∧ staticTraps (.add ⟨true, 0⟩ 1 2 3) base = []
    ∧ scoreTraps base 0 (.p 0) = [] := by decide +kernel

theorem test_meets_Renaming : base.cur.pre.sdead = 0 ∧ base.cur.pre.vdead = 0 ∧ physS 7 24 = 25 ∧ physP 1 8 = 15 ∧ physS 1 23 = 23 := by decide +kernel

theorem test_meets_DeadBits : ((opened id fun t => { t with vdead := 1 }).thread).vdead.getLsbD 0 = true ∧ base.thread.vdead.getLsbD 31 = false := by
  decide +kernel

theorem test_meets_OutsidePart :
    (let s := teamed id fun r => { r with part := 0xF901 };
      partNV s.record.part == 16 && partNT s.record.part == 4
      && (readsOf (.vmov g0 4 12 0 .fp32 .g4) ++ writesOf (.vmov g0 16 12 0 .fp32 .g4)).contains (.v 19)
      && (readsOf (.tmov ⟨true, 0⟩ 3 4)).contains (.t 4)
      && traps (.vmov g0 16 12 0 .fp32 .g4) s 1 1 && traps (.tmov ⟨true, 0⟩ 3 4) s 1 1) = true := by decide +kernel

/-- A thread that awaits s2, whose operation stands at PC 9, under CHK. -/
def awaiting (chk : Bool) : State :=
  opened id fun t => { t with chk := chk, pending := [⟨1, some (.s 2), .scalar 0, none, 9, 3, [], false, none⟩] }

theorem test_meets_ScoreboardTraps :
    (let s := opened id fun t => { t with windows := [⟨.s 28, 1, 0⟩], rrb := 4 };
      let u := opened id fun t => { t with deadtrap := true, sdead := 0x80000000, rrb := 0 };
      s.executes g0 && (Ref.phys s.cur.pre.rrb (.s 24) == .s 28) && (readsOf (.add g0 1 24 3)).contains (.s 24)
      && traps (.add g0 1 24 3) s 1 6 && (deadRead u.cur.pre (.s 31)).isSome && traps (.add g0 1 31 3) u 1 0x12) = true := by decide +kernel

theorem test_meets_ScoreboardTraps_forms :
    ([(opened id (fun t => { t with windows := [⟨.s 2, 1, 9⟩] }), TrapAct.trap, (9 : Word)), (awaiting false, .trap, 9), (awaiting true, .hold, 0)]
      : List (State × TrapAct × Word)).all (fun p =>
      ([.add g0 1 2 3, .send g0 2 0 0, .recv g0 2 .reg] : List Instr).all fun i => after i p.1 fun t =>
        t.cur.trap.any fun q => q.stage == 1 && q.code == 6 && q.act == p.2.1 && q.taddr == p.2.2 && t.thread.s == p.1.thread.s) = true
    ∧ 0 < base.record.rect ∧ base.cur.pre.fence = none
    ∧ (opened id fun t => { t with windows := [⟨.s 28, 1, 0⟩], rrb := 4 }).cur.pre.pending = [] := by decide +kernel


/-! ## … scalar, vector and matrix slots -/

theorem test_meets_Loops : base.cur.pre.lc = 0 ∧ base.cur.pre.ec = 0 ∧ (opened id fun t => { t with lc := 1 }).cur.pre.lc ≠ 0
    ∧ (opened id fun t => { t with ec := 1 }).cur.pre.ec ≠ 0 ∧ (opened id fun t => { t with ec := 1 }).ready (.loop g0 0) = true := by decide +kernel

theorem test_meets_Spawns : base.core.slots[7].phase = .ready ∧ base.core.slots[0].phase = .vacant ∧ base.cur.slot = 7
    ∧ base.ready (.spawn g0 1 2 4095 7) = true := by decide +kernel

theorem test_meets_ThreadControl :
    (let s := opened id (scal [(2, 1)]);
      s.ready (.park g0 2 15) && s.core.sharedAt 15 9 s.core.vx != s.rs 2 && base.core.sharedAt 15 9 base.core.vx == base.rs 2
      && base.thread.phase == .ready && !base.cur.pre.trapped && base.cur.trap.isNone && base.ready (.trap g0 0xFFFFFFFFF)) = true := by
  decide +kernel

theorem test_meets_SpecialRegisters :
    (let s := opened id (scal [(2, 1)]);
      segOk (base.rs 2 ++ base.rs 3) (partSPB base.record.part) base.record.rect && s.ready (.segset g0 7 2 3)
      && !segOk (s.rs 2 ++ s.rs 3) (partSPB s.record.part) s.record.rect && ctlRoT 0x040 && !ctlAssigned 0x007 && !ctlAssigned 0x7FF) = true := by
  decide +kernel

/-- A write of VTICK 20 is read from VTICK 28 on, before and after it is committed. -/
theorem test_meets_SpecialRegisters_shared :
    (let k : Core := { Core.reset with cPend := [(20, 15, 7)] }
     k.sharedAt 15 8 27 == k.c[15] && k.sharedAt 15 8 28 == 7 && (k.commitShared 28).sharedAt 15 8 28 == 7
     && k.c[15] != 7) = true ∧ ([(20, 15, 7), (20, 3, 8)] : List (Nat × CReg × Word)).Pairwise (fun p q => p.1 ≤ q.1) := by decide +kernel

theorem test_meets_ControlRoundTrip : (teamed id fun r => { r with part := 0xFB00 }).cur.pre = base.cur.pre
    ∧ partNT (teamed id fun r => { r with part := 0xFB00 }).record.part ≤ 0 := by decide +kernel

/-- A write of 5 to WATCH1 in cycle 2, where HITX stands, and what WATCH0 to WATCH3 held in each of the four latest cycles. -/
def watching : Core :=
  { base.core with
    watchPend := [(2, 1, 5)]
    watch := base.core.watch.set 1 0x0800000000000000
    watchHist := List.replicate 4 #v[1, 2, 3, 4] }

theorem test_meets_ControlRoundTrip_watch :
    watching.watchAt 9 = watching.watch ∧ (watching.watchAt 10).toList = [0, 0x0800000000000005, 0, 0]
    ∧ ({ base with core := watching } : State).readCtl 0x05A = 3 ∧ ({ base with core := watching } : State).readCtl 0x058 = 1 := by decide +kernel

/-- Vector registers v2, v3 and v4 with 1.5, 2.0 and -1.0 in each FP32 lane, and k5 with lanes 0 and 15. -/
def lanes : State := opened id fun t =>
  { t with
    v := ((t.v.set 2 (BitVec.ofNat 512 ((List.range 16).map fun i => 0x3FC00000 * 2 ^ (32 * i)).sum)).set 3
      (BitVec.ofNat 512 ((List.range 16).map fun i => 0x40000000 * 2 ^ (32 * i)).sum)).set 4
      (BitVec.ofNat 512 ((List.range 16).map fun i => 0xBF800000 * 2 ^ (32 * i)).sum)
    k := t.k.set 5 0x8001 }

theorem test_meets_VectorFloat : ([.vadd g0 1 2 3 5 .fp32 .rne, .vfma g0 1 2 3 4 5 .fp32 .sr, .vrcp g0 1 3 5 .fp32 .dyn, .vmin g0 1 2 3 5 .fp32,
      .vdiv g0 1 2 3 5 .fp32 .rne] : List Instr).all (fun i => lanes.ready i) = true
    ∧ lanes.noFpTrap (lanes.lanesOf 5 .fp32 fun i => lanes.roundLane .fp32 .rne i (fpSum [lanes.fa .fp32 2 i, lanes.fa .fp32 3 i] (lanes.mode .rne))) = true := by
  decide +kernel

theorem test_meets_VectorInteger : lanes.noFpTrap (lanes.lanesOf 5 .i32 fun i => (lanes.va .i32 2 i, 0)) = true
    ∧ lanes.ready (.viadd g0 1 2 3 5 .i32 true) = true := by decide +kernel

theorem test_meets_VectorMasks : lanes.ready (.vcmp g0 .lt 1 2 3 5 .fp32) = true ∧ lanes.noFpTrap (lanes.lanesOf 5 .fp32 fun i =>
    (b2n (fpCompare .lt (lanes.fa .fp32 2 i) (lanes.fa .fp32 3 i)).1, (fpCompare .lt (lanes.fa .fp32 2 i) (lanes.fa .fp32 3 i)).2)) = true := by
  decide +kernel

theorem test_meets_VectorMoves : lanes.ready (.vred g0 .sum 1 2 5 .fp32 .rne false) = true
    ∧ lanes.noFpTrap [(0, lanes.vredResult .sum 2 5 .fp32 .rne false)] = true
    ∧ lanes.noFpTrap (laneResults 16 (fun _ => true) (lanes.vscanResult .sum 2 5 .fp32 .rne false)) = true
    ∧ lanes.noFpTrap (laneResults 16 (fun i => laneOn .fp32 (lanes.rk 5) i) fun i => lanes.convertLane .fp32 .fp32 .rne false i (lanes.va .fp32 2 i)) = true := by
  decide +kernel

/-- A numeral lies between two powers of 2, as RoundTo's premises ask. -/
theorem test_meets_LanesWritten_round : twoTo 1 ≤ ((3 : Nat) : Rat) / (1 : Nat) * twoTo 0
    ∧ ((3 : Nat) : Rat) / (1 : Nat) * twoTo 0 < twoTo 2 := by decide +kernel

/-- A node function of the tree of R199 exists, whatever leaves and Combine. -/
theorem test_meets_IntegerSums {α : Type} (leaf : Nat → α) (both : Nat → α → α → α) : ∃ node : Nat → Nat → α, (∀ j, node 0 j = leaf j)
    ∧ ∀ l j, node (l + 1) j = both (2 * j * 2 ^ l + 2 ^ l) (node l (2 * j)) (node l (2 * j + 1)) :=
  ⟨fun l => l.rec leaf fun l n j => both (2 * j * 2 ^ l + 2 ^ l) (n (2 * j)) (n (2 * j + 1)), fun _ => rfl, fun _ _ => rfl⟩

theorem test_meets_LanesWritten_sums : FVal.isNegZero (.fin true 0 0) = true ∧ FVal.finite (.fin false 3 0) = true
    ∧ fpSum [.inf false, .inf true] .rne = (.nan, clsNV) ∧ fpMul (.inf false) (.fin true 0 0) = (.nan, clsNV)
    ∧ fpDecode .fp32 0x3FC00000 ≠ .nan ∧ fpDecode .fp32 0x7FC00000 = .nan := by decide +kernel

theorem test_meets_LanesWritten : Fmt.i8.lanes = 64 ∧ 63 < Fmt.i8.lanes ∧ 8 ≤ Fmt.i8.width ∧ Fmt.i8.isInt = true ∧ 127 < Fmt.e2m1.lanes := by decide

/-- Tiles t1 to t3 of 8 by 8 elements in FP64, t1 valid; t5 an FP32 and t6 an E2M1 tile in row blocks; t4 and the others without a shape. -/
def tiles : State :=
  let x : Tile := ⟨0, 0, true, false, false, 0, 8, 8⟩
  opened id fun t => { t with
    t := ((((t.t.set 1 x).set 2 x).set 3 x).set 5 { x with fmt := 1, cols := 128 }).set 6 { x with fmt := 6, cols := 128 } }

/-- With no class enabled, no result traps. -/
theorem test_meets_noFpTrap (r : List (Nat × Nat × Classes)) : tiles.noFpTrap r = true := by
  have h : fpEnables tiles.cur.pre.fpctl = 0 := by decide +kernel
  simp [State.noFpTrap, h]

theorem test_meets_MatrixOps :
    ([.mma g0 1 2 3 0 .fp64, .mmaz g0 4 2 3 0 .fp64, .tzero g0 4, .tcfg g0 4 .fp64 8 8, .tinv g0 1, .tmov g0 4 1, .ttrn g0 4 1,
      .tcvt g0 4 1 .fp64 .rne, .tcvt g0 4 6 .e2m1 .rne, .tcvt g0 4 5 .e2m1 .rne, .tadd g0 1 2 3 .fp64 .rne, .tscale g0 .elem 1 2 3 .fp64,
      .trowi g0 1 1 7, .trowi g0 4 1 7, .trowx g0 1 1 7] : List Instr).all (fun i => tiles.ready i) = true
    ∧ mmaShapes .fp64 (tiles.rt 1) (tiles.rt 2) (tiles.rt 3) = true ∧ mmaShapes .fp64 (tiles.rt 4) (tiles.rt 2) (tiles.rt 3) = false
    ∧ (tiles.rt 1).shaped = true ∧ (tiles.rt 4).shaped = false ∧ (tiles.rt 1).valid = true ∧ (tiles.rt 4).valid = false
    ∧ (tiles.rt 5).rowBlocks = true ∧ (tiles.rt 5).f ≠ .e2m1 ∧ (tiles.rt 6).f = .e2m1 ∧ (tiles.rt 6).count * 4 ≤ 4096
    ∧ scaleShapes .elem .fp64 (tiles.rt 1) (tiles.rt 2) = true ∧ scaleShapes .row .fp32 (tiles.rt 1) (tiles.rt 2) = false := by decide +kernel

theorem test_meets_MatrixOps_run :
    ([.mma g0 1 2 3 0 .fp64, .tzero g0 4, .tcfg g0 4 .fp64 8 8, .tinv g0 1, .tmov g0 4 1, .ttrn g0 4 1, .tcvt g0 4 1 .fp64 .rne,
      .tadd g0 1 2 3 .fp64 .rne, .tscale g0 .elem 1 2 3 .fp64, .trowi g0 4 1 7, .trowx g0 1 1 7] : List Instr).all (fun i =>
      after i tiles fun t => t.cur.trap.isNone) = true
    ∧ ([.mma g0 4 2 3 0 .fp64, .mmaz g0 4 2 3 0 .fp64, .tmov g0 1 4, .ttrn g0 1 4, .tcvt g0 2 1 .e2m1 .rne, .tadd g0 1 2 4 .fp64 .rne,
      .tscale g0 .row 1 2 3 .fp32] : List Instr).all (fun i => traps i tiles 1 1) = true := by decide +kernel


/-! ## … loads, stores, atomics, queues, objects and engine commands -/

/-- Offset o in s5, over bytes of the scratchpad. -/
def atOff (o : Word) (l : List (Nat × Nat × Nat)) : State := opened (pad l) (scal [(5, o)])

/-- A team of two cores whose g0 is MESH over blocks of 4,096 bytes, s5 the offset: from 4,096 on the other core owns it. -/
def mesh (o : Word) : State := (with' id (fun t =>
    { (scal [(5, o)] t) with g := t.g.set 0 (BitVec.ofNat 128 (8192 * 2 ^ 36 + 2 * 2 ^ 32 + 0xF * 2 ^ 28 + 12 * 2 ^ 21)) })
  fun r => { r with m := 2 }).openBundle

/-- The right to write and the right of atomics only, over 64 bytes. -/
def halfSeg : State := opened id fun t => { t with g := t.g.set 0 (BitVec.ofNat 128 (64 * 2 ^ 36 + 2 ^ 32 + 0x6 * 2 ^ 28)) }

theorem test_meets_Loads :
    (let s := base
     s.accessGood 0 .rd false true false (scalarLanes m0 2 3 true s) && s.accessGood 0 .rd false true false (vectorLanes m0 2 0 3 .g4 true s)
     && s.accessGood 0 .rd false true false (gatherLanes m0 2 0 3 true s) && s.accessGood 0 .rd false true false (tileLanes m0 2 true s)) = true
    ∧ ([(base, true), (atOff 0xE9FF8 [], true), (atOff 0xE9FF9 [], false)] : List (State × Bool)).all (fun p =>
        p.1.fenceGood (p.1.rg 0) (scalarLanes m0 2 3 true p.1) && p.1.ready (.ld g0 1 m0 2 3 false true) && p.1.ready (.st g0 1 m0 2 3 true)
        && decide (p.1.offsetX m0 2 8 + 8 ≤ segLimit (p.1.rg 0)) == p.2) = true
    ∧ traps (.ld g0 1 m0 2 3 false true) (atOff 0xE9FF9 []) 2 3 = true ∧ traps (.st g0 1 m0 2 3 true) (atOff 0xE9FF9 []) 2 3 = true
    ∧ traps (.ld g0 1 m0 2 3 false true) halfSeg 2 4 = true ∧ traps (.ld g0 1 m0 2 3 false true) (mesh 4096) 2 4 = true
    ∧ traps (.st g0 1 m0 2 3 true) (opened id fun t => { t with g := t.g.set 0 (BitVec.ofNat 128 (64 * 2 ^ 36 + 2 ^ 32 + 0xB * 2 ^ 28)) }) 2 4 = true
    ∧ traps (.ld g0 1 m0 2 3 false true) (atOff 4 []) 2 5 = true ∧ traps (.st g0 1 m0 2 3 true) (atOff 4 []) 2 5 = true := by decide +kernel

/-- A segment of another KIND with all rights: GLOBAL, CODE and NONE, this one of LIMIT 0. -/
def otherSeg (kind limit : Nat) : State :=
  opened id fun t => { t with g := t.g.set 0 (BitVec.ofNat 128 (limit * 2 ^ 36 + kind * 2 ^ 32 + 0xF * 2 ^ 28)) }

theorem test_meets_Loads_kind : ([otherSeg 3 64, otherSeg 4 64, otherSeg 0 0] : List State).all (fun s =>
    s.fenceGood (s.rg 0) (scalarLanes m0 2 3 true s) && s.ready (.ld g0 1 m0 2 3 false true) && s.ready (.st g0 1 m0 2 3 true)
    && traps (.ld g0 1 m0 2 3 false true) s 2 4 && traps (.st g0 1 m0 2 3 true) s 2 4) = true := by decide +kernel

/-- Watchpoint n armed with these of ACT, RD and WR over the 16 bytes from 64 on, and an access at offset 72. -/
def watched (n : Fin 4) (bits : Nat) : State :=
  opened (fun c => { c with watch := c.watch.set n (BitVec.ofNat 64 (2 ^ 63 + bits + 4 * 2 ^ 54 + 64)) }) (scal [(5, 72)])

theorem test_meets_Loads_watch :
    ([(.ld g0 1 m0 2 3 false true, 2 ^ 61, TrapAct.trap), (.st g0 1 m0 2 3 true, 2 ^ 60, .trap),
      (.ld g0 1 m0 2 3 false true, 2 ^ 62 + 2 ^ 61, .stop)] : List (Instr × Nat × TrapAct)).all (fun p =>
      ([0, 3] : List (Fin 4)).all fun n =>
        (watched n p.2.1).fenceGood ((watched n p.2.1).rg 0) (scalarLanes m0 2 3 true (watched n p.2.1))
        && (watched n p.2.1).unpoisoned ((watched n p.2.1).rg 0) (scalarLanes m0 2 3 true (watched n p.2.1))
        && after p.1 (watched n p.2.1) fun t => t.cur.trap == some ⟨3, 0x11, 0, 3, false, 72, 0, p.2.2⟩) = true
    ∧ after (.ld g0 1 m0 2 3 false true) (watched 0 (2 ^ 60)) (fun t => t.cur.trap.isNone) = true := by decide +kernel

theorem test_meets_Stores :
    ([base, mesh 4088, mesh 4096, mesh 8184] : List State).all (fun s =>
      s.accessGood 0 .wr true false true (scalarLanes m0 2 3 true s) && s.accessGood 0 .wr true false true (nibbleLanes m0 2 true false s)
      && s.ready (.st g0 1 m0 2 3 true) && s.ready (.rst g0 1 m0 2 3 true)) = true
    ∧ (mesh 4088).ownsLane ((mesh 4088).rg 0) 4088 = true ∧ (mesh 4096).ownsLane ((mesh 4096).rg 0) 4096 = false
    ∧ (let s := base
       s.accessGood 0 .wr true false true (nibbleLanes m0 2 false true s) && s.accessGood 0 .wr false false true (vectorLanes m0 2 0 0 .g2 true s)
       && s.accessGood 0 .wr true false true (gatherLanes m0 2 0 1 true s) && s.accessGood 0 .wr false false true (tileLanes m0 2 true s)) = true := by
  decide +kernel

theorem test_meets_Atomics : base.accessGood 0 .at_ false true true (atomicLanes m0 true base) = true
    ∧ (atOff 4 []).accessGood 0 .at_ false true true (atomicLanes m0 false (atOff 4 [])) = true := by decide +kernel

theorem test_meets_RemoteReads :
    ([base, mesh 4088, mesh 4096] : List State).all (fun s => (scalarLanes m0 2 3 true s).all (s.laneGood (s.rg 0) .rd true)
      && (atomicLanes m0 true s).all (s.laneGood (s.rg 0) .at_ true) && s.fenceGood (s.rg 0) (scalarLanes m0 2 3 true s)
      && s.unwatched true true (s.rg 0) (scalarLanes m0 2 3 true s)) = true
    ∧ (opened (fun c => { c with poison := [0] }) id).ready (.raop g0 .add 1 m0 2 true) = true
    ∧ poisonIn (opened (fun c => { c with poison := [0] }) id).core.poison 0 8 = [0] := by decide +kernel

/-- A queue of two entries with one published. -/
def queue : Nat := qMake 1 1 0 false 1

theorem test_meets_Queues :
    ([base, atOff 0 [(0, 16, queue)], atOff 0 [(0, 16, qMake 0 2 0 false 1)], atOff 0 [(0, 16, 2 ^ 15)]] : List State).all (fun s =>
      s.accessGood 0 .at_ false true true (objLanes m0 s) && s.ownsLane (s.rg 0) (s.offset0 m0)) = true
    ∧ qSound queue 64 = true ∧ qSound queue 32 = true ∧ qSound queue 31 = false ∧ qUsed queue ≠ qCap queue ∧ qSound (qMake 0 2 0 false 1) 32 = true
    ∧ qUsed (qMake 0 2 0 false 1) = qCap (qMake 0 2 0 false 1) ∧ qSound (2 ^ 15) 64 = false ∧ qReady queue = true
    ∧ qReady (qMake 0 1 0 false 1) = false ∧ qpubValid (qMake 0 1 0 false 1) 32 0 = true ∧ base.mayWait = true
    ∧ (teamed id fun r => { r with elastic := false }).mayWait = false
    ∧ (mesh 4096).accessGood 0 .at_ true true true (objLanes m0 (mesh 4096)) = true
    ∧ (mesh 4096).ownsLane ((mesh 4096).rg 0) ((mesh 4096).offset0 m0) = false ∧ depdecPoison base m0 = [] := by decide +kernel

theorem test_meets_Queues_run :
    (let padded (h : Nat) (l : List (Nat × Nat × Nat)) : State := opened (pad ((0, 16, h) :: l)) (scal [(1, 0x51)]);
     let writes (i : Instr) (s : State) (a n v : Nat) : Bool := after i s fun t => t.cur.trap.isNone && memRead t.core.sp a n == v;
     let bad (i : Instr) (s : State) (code : Nat) : Bool := traps i s 3 code;
     after (.qrsv g0 1 m0) (atOff 0 [(0, 16, qMake 0 2 0 false 1)]) (fun t => t.thread.s[1] == BitVec.allOnes 64)
     && writes (.qrsv g0 1 m0) (atOff 0 [(0, 16, qMake 0 1 0 false 1)]) 0 16 (qMake 0 2 0 false 1)
     && after (.qrsv g0 1 m0) (atOff 0 [(0, 16, qMake 0 1 0 false 1)]) (fun t => t.thread.s[1] == BitVec.ofNat 64 (24 * 2 ^ 24 + 1))
     && bad (.qrsv g0 1 m0) (atOff 0 [(0, 16, 2 ^ 15)]) 0x10 && bad (.qtake g0 1 m0) (atOff 0 [(0, 16, 2 ^ 15)]) 0x10
     && writes (.qpub g0 1 m0) (atOff 0 [(0, 16, qMake 0 1 0 false 1)]) 0 16 (qMake 1 1 0 false 1)
     && bad (.qpub g0 1 m0) base 0x10 && bad (.qpub g0 1 m0) (atOff 0 [(0, 16, queue)]) 0x10
     && writes (.qtake g0 1 m0) (atOff 0 [(0, 16, queue), (16, 8, 77)]) 0 16 (qMake 0 1 1 false 1)
     && after (.qtake g0 1 m0) (atOff 0 [(0, 16, queue), (16, 8, 77)]) (fun t => t.thread.s[1] == 77)
     && after (.qtake g0 1 m0) base (fun t => t.cur.trap.isNone && t.thread.phase != .ready)
     && writes (.depdec g0 1 m0) (atOff 0 [(0, 16, 3)]) 0 16 2
     && writes (.depdec g0 1 m0) (padded (32 * 2 ^ 64 + 1) []) 0 16 (32 * 2 ^ 64)
     && writes (.depdec g0 1 m0) (padded (32 * 2 ^ 64 + 1) []) 32 16 (qMake 1 1 0 false 0)
     && writes (.depdec g0 1 m0) (padded (32 * 2 ^ 64 + 1) []) 48 8 0x51
     && writes (.depdec g0 1 m0) (padded (32 * 2 ^ 64 + 1) [(32, 16, 2 ^ 15)]) 0 16 (2 ^ 127 + 32 * 2 ^ 64)
     && writes (.depdec g0 1 m0) (padded (32 * 2 ^ 64 + 1) [(32, 16, qMake 0 1 0 false 0)]) 32 16 (qMake 0 1 0 true 0)
     && writes (.depdec g0 1 m0) (padded (8 * 2 ^ 64 + 1) []) 0 16 (2 ^ 127 + 8 * 2 ^ 64)
     && after (.qpub g0 1 m0) (mesh 4096) (fun t => t.flights.length == 1) && after (.depdec g0 1 m0) (mesh 4096) (fun t => t.flights.length == 1)) = true
    ∧ traps (.qtake g0 1 m0) (teamed id fun r => { r with elastic := false }) 3 0x07 = true := by decide +kernel

/-- An object in phase 0 that awaits one arrival, and one with each of its error bits. -/
def object (f : BarrierObject → BarrierObject) : State := atOff 0 [(0, 16, (f ⟨0, 0, 1, false, false, false, false, 0, 1⟩).toNat)]

theorem test_meets_Objects :
    ([object id, object fun b => { b with overrun := true }, object fun b => { b with fault := true }] : List State).all (fun s =>
      s.accessGood 0 .at_ false true true (objLanes m0 s) && s.ready (.bwait g0 m0 2) && s.ready (.btest g0 1 m0 2)) = true
    ∧ phaseReached 0 0 = true ∧ phaseReached 0 1 = false ∧ phaseReached 0 32769 = true ∧ phaseReached 0 32768 = false
    ∧ ([(object id, fun b : BarrierObject => b.phase == 1 && b.arrive == 1), (object fun b => { b with fault := true }, fun b => b.phase == 0 && b.arrive == 1),
        (object fun b => { b with arrive := 2 }, fun b => b.phase == 0 && b.arrive == 1), (object fun b => { b with arrive := 0 }, fun b => b.overrun && b.arrive == -1)]
      : List (State × (BarrierObject → Bool))).all (fun p =>
      after (.boarr g0 m0) p.1 fun t => p.2 (BarrierObject.ofNat (memRead t.core.sp 0 16))) = true
    ∧ ([.mpop g0 4, .mpeek g0 4] : List Instr).all (fun i =>
      after i (opened (fun c => { c with mailbox := [5, 6] }) id) (fun t => t.thread.s[4] == 0 && t.thread.s[5] == 5)
      && after i base fun t => t.thread.s[4] == BitVec.allOnes 64 && t.thread.s[5] == 0) = true
    ∧ base.core.mailbox = [] ∧ mwaitTraps (opened (fun c => { c with mailbox := [0] }) id).core = [] ∧ base.mayWait = true
    ∧ (teamed id fun r => { r with elastic := false }).ready (.mwait g0) = true := by decide +kernel

/-- Counts at the ends of their ranges: a BOEXP or an arrival that would pass one leaves it there (R323). -/
theorem test_meets_Objects_clamp :
    (let b : BarrierObject := ⟨0, 2 ^ 39 - 1, 2 ^ 15 - 1, false, false, false, false, 0, 1⟩
     let c : BarrierObject := { b with remain := -2 ^ 39, arrive := -2 ^ 15 }
     b.change 1 0 == b && b.change 0 1 == b && b.change (2 ^ 63 - 1) (2 ^ 63 - 1) == b && c.change (-1) (-1) == { c with overrun := true }
     && after (.boexp g0 1 m0 1) (opened (pad [(0, 16, b.toNat)]) (scal [(1, 1)])) (fun t => memRead t.core.sp 0 16 == b.toNat)) = true := by
  decide +kernel

theorem test_meets_FenceAndSnapshot : (acsnapLanes m0 2 base).all (base.laneGood (base.rg 0) .wr false) = true
    ∧ base.unwatched false true (base.rg 0) (acsnapLanes m0 2 base) = true ∧ base.fenceGood (base.rg 0) (acsnapLanes m0 2 base) = true
    ∧ segKind (base.rg 0) = 1 := by decide +kernel

/-- A COPY of one row of eight bytes from offset 64 to offset 0 of g0. -/
def copyRegs : Thread → Thread := scal [(5, 64), (6, 2 ^ 20 + 8)]

theorem test_meets_EngineCommands :
    (let s := opened id copyRegs
     let r := base.requestOf .copy 1
     s.ready (.copy g0 1 1) && (engineChecks .copy 1 s).isEmpty && decide (s.core.fifo.length < 16)
     && (engineChecks .copy 1 (opened (fun c => { c with fifo := List.replicate 16 r }) copyRegs)).isEmpty
     && requestIllegal .copy (2 ^ 40) 0 0 0 && traps (.copy g0 1 1) (opened id (scal [(4, 2 ^ 40)])) 1 1) = true := by decide +kernel

/-- What Table 5-2 finds of the COPY: nothing up to the scratchpad's end, its destination past it, off its unit, or without the right. -/
theorem test_meets_EngineCommands_breaks :
    (let at' (w0 : Word) (f : Thread → Thread) : State := opened id fun t => f (scal [(4, w0), (5, 64), (6, 2 ^ 20 + 8)] t)
     let breaks (s : State) (code : Nat) : Option Nat := s.requestBreaks .copy 1 code
     ([3, 4, 5].all fun n => breaks (at' 0xE9FF8 id) n == none)
     && breaks (at' 0xEA000 id) 3 == some 0xEA000 && traps (.copy g0 1 1) (at' 0xEA000 id) 2 3
     && breaks (at' 4 id) 5 == some 4 && traps (.copy g0 1 1) (at' 4 id) 2 5
     && (let s := at' 0 fun t => { t with g := t.g.set 0 (BitVec.ofNat 128 (256 * 2 ^ 36 + 2 ^ 32 + 0x5 * 2 ^ 28)) }
        breaks s 3 == none && breaks s 4 == some 64 && traps (.copy g0 1 1) s 2 4)) = true := by decide +kernel


/-! ## … exchange, wires, time and channels -/

/-- A word from core 1 with SEQ 31 in the landing buffer. -/
def landed : State := opened (fun c => { c with landing := [⟨0xA7, 1, 31, 0⟩] }) (scal [(3, 0x11F)])

theorem test_meets_Exchange :
    landed.tagOf 3 .reg = 0x11F ∧ landed.tagOf 3 (.imm 1 31) = 0x11F
    ∧ (landed.core.landing.find? fun l => l.sender ++ l.seq = landed.tagOf 3 .reg).map (·.data) = some 0xA7
    ∧ (base.core.landing.find? fun l => l.sender ++ l.seq = base.tagOf 3 .reg).isNone = true ∧ base.mayWait = true
    ∧ (teamed id fun r => { r with elastic := false }).mayWait = false ∧ (base.rs 2).toNat ≤ base.core.vx
    ∧ base.core.vx < ((opened id (scal [(2, 12)])).rs 2).toNat ∧ base.core.vx = 11
    ∧ (base.rs 2).toNat < base.record.tsize ∧ ((opened id (scal [(2, 1)])).rs 2).toNat = base.record.tsize
    ∧ base.rawGood 0 256 8 = true ∧ base.record.here 0 = true
    ∧ (let s := (with' id (scal [(3, 1)]) fun r => { r with npkg := 1 }).openBundle
       decide ((s.rs 3).toNat < s.record.tsize) && !s.record.here (s.rs 3).toNat && s.ready (.amsg g0 2 3 0)
       && after (.amsg g0 2 3 0) s (fun t => t.fabricOut.length == 1 && t.messages == [])) = true
    ∧ traps (.amsg g0 2 3 0) (opened id (scal [(3, 1)])) 2 4 = true := by decide +kernel

/-- Blocks that X-slot forms read at the offset in s2: past the end, off their unit, poisoned; a core that does not exist; and a
QPUSH with sixteen pushes open. -/
theorem test_meets_Blocks :
    (let s (o : Word) (f : Core → Core) : State := opened f (scal [(2, o)])
     let spoilt : State := s 0 fun c => { c with poison := [0] };
     ([(.wsend g0 2 3 0 (some 31), 8), (.qpush g0 0 2 0, 64), (.carm g0 1 2, 16)] : List (Instr × Nat)).all (fun p =>
       traps p.1 (s 0xEA000 id) 2 3 && traps p.1 (s (BitVec.ofNat 64 p.2 / 2) id) 2 5 && traps p.1 spoilt 3 0x0B
       && after p.1 (s 0 id) fun t => t.cur.trap.isNone)
     && (s (0xEA000 - 256) id).rawInside (0xEA000 - 256) 256 && !(s (0xEA000 - 248) id).rawInside (0xEA000 - 248) 256
     && traps (.wsend g0 2 3 0 (some 31)) (opened id (scal [(3, 1)])) 2 4
     && traps (.qpush g0 0 2 0) (s 0 fun c => { c with q := c.q.set 0 (16 * 2 ^ 32) }) 3 0x10) = true := by decide +kernel

/-- An open episode of the core's scope. -/
def episode : Episode := ⟨0, base.core.key.ctx, base.core.die, .all, base.record.line .all base.core.key.lidx, [], []⟩

theorem test_meets_WiresAndTime :
    ({ base with episodes := [episode] } : State).ready (.barwr g0 .xor .all 1 2) = true
    ∧ ([episode].find? fun e => e.ctx == base.core.key.ctx && e.die == base.core.die && e.scope == .all
        && e.line == base.record.line .all base.core.key.lidx) = some episode
    ∧ base.episodes = [] ∧ base.tampHolds base.core .die 0 = true
    ∧ base.tampHolds base.core .domain 0 = false ∧ base.counter base.core .vtick = 11
    ∧ 10 < base.counter base.core .vtick ∧ base.counter base.core .tick < 2 ^ 29 := by decide +kernel

/-- Timetable headers at offset 0 in the IDLE, ARMED, RUNNING and STOPPED states, held by the core. -/
def tabled (st : Nat) : State := opened (fun c => { pad [(0, 16, thWithState 0 st)] c with
  tables := [⟨0, none, false, false, 0, false, 0, 0, 0, false⟩] }) id

theorem test_meets_Channels :
    base.rawGood 0 128 64 = true ∧ base.core.q[0] = 0 ∧ base.rawGood 0 16 16 = true ∧ base.core.places.length < 8
    ∧ ((opened (fun c => { c with q := c.q.set 7 (16 * 2 ^ 32) }) id).core.q[7].toNat / 2 ^ 32 + 2 ^ 32) % 2 ^ 32 = 16
    ∧ ((opened (fun c => { c with resp := [(7, 5)] }) id).core.resp.find? fun r => r.1 = 7).map (·.2) = some 5
    ∧ (base.core.resp.find? fun r => r.1 = 7).isNone = true
    ∧ 8 ≤ (opened (fun c => { c with tables := List.replicate 8 ⟨0, some 1, false, false, 0, false, 0, 0, 0, false⟩ }) id).core.places.length
    ∧ thState (memRead base.core.sp 0 16) = 0 ∧ ([0, 1, 2, 4].all fun n => thState (memRead (tabled n).core.sp 0 16) == n) = true
    ∧ ((tabled 1).core.tables.any fun t => t.hdr = 0 && t.checking.isNone) = true
    ∧ (base.core.tables.any fun t => t.hdr = 0 && t.checking.isNone) = false := by decide +kernel


/-! ## … what becomes due between bundles -/

/-- The context's core. -/
def k0 : CoreKey := start.core.key

/-- Slot 7 waits. -/
def waits (w : WaitKind) (f : Core → Core) : State := with' f (fun t => { t with phase := .waiting ⟨w, 5, 3, none⟩ }) id

/-- The wait of slot 7 ends at this VTICK, and the thread meets a test. -/
def ends (i : Instr) (s : State) (p : Thread → Bool) : Bool := after i s fun t => match t.core.slots[7].phase with
  | .waiting w => w.done == some 11 && p t.core.slots[7]
  | _ => false

/-- A result of slot 7 from a bundle at PC 5, read from VTICK 7 on. -/
def late (r : Ref) (v : PendVal) (cls : List (Nat × BitVec 5)) (p : Option Nat) : State :=
  with' id (fun t => { t with pending := [⟨1, some r, v, some 7, 5, 3, cls, true, p⟩], fpctl := 0x10000, vdead := 4 }) id

theorem test_meets_WaitsEnd_results :
    after (.longResultReady k0 7) (late (.s 9) (.scalar 77) [] none) (fun t => t.core.slots[7].s[9] == 77 && t.core.slots[7].pending == []) = true
    ∧ after (.longResultReady k0 7) (late (.v 2) (.vector 77 0xFF) [(3, 1)] none) (fun t => t.core.slots[7].v[2] == 77
      && t.core.slots[7].pending == [] && t.core.slots[7].deferred == [⟨3, 0x0F, 5, 3⟩]) = true
    ∧ after (.longResultReady k0 7) (late (.s 9) (.scalar 0) [] (some 64)) (fun t => t.core.slots[7].deferred == [⟨3, 0x0B, 64, 0⟩]) = true
    ∧ after (.deferredTrap k0 7) (with' id (fun t => { t with deferred := [⟨3, 0x0F, 5, 3⟩], pc := 9, tvec := 100 }) id) (fun t =>
      let b := t.core.slots[7]
      b.tcause == 0x0F && b.tpc == 9 && b.taddr == 5 && b.tlane == 3 && b.trapped && b.pc == 100 && b.deferred == []
      && b.lastCause == .trapEntry) = true
    ∧ after (.holdRelease k0 7) (with' id (fun t => { t with held := true }) id) (fun t => !t.core.slots[7].held) = true := by decide +kernel

theorem test_meets_WaitsEnd_waits :
    ends (.waitRetry k0 7) (waits (.bwait 0 0 1) (pad [(0, 16, 2 ^ 112)])) (fun _ => true) = true
    ∧ still (.waitRetry k0 7) (waits (.bwait 0 0 2) (pad [(0, 16, 2 ^ 112)])) = true
    ∧ ends (.waitRetry k0 7) (waits .mwait fun c => { c with mailbox := [5] }) (fun _ => true) = true
    ∧ ends (.waitRetry k0 7) (waits (.qtake 0 0 64 9) (pad [(0, 16, queue), (16, 8, 77)])) (fun t => t.s[9] == 77) = true
    ∧ ends (.recvRetry k0 7) (waits (.recv 0x11F 9) fun c => { c with landing := [⟨0xA7, 1, 31, 0⟩] }) (fun t => t.s[9] == 0xA7) = true
    ∧ ends (.recvRetry k0 7) (waits (.recvt 0x11F 9 50 3) fun c => { c with landing := [⟨0xA7, 1, 31, 0⟩] }) (fun t => t.s[9] == 0xA7 && !t.p[3]) = true
    ∧ ends (.recvtDeadline k0 7) (waits (.recvt 0x11F 9 11 3) id) (fun t => t.s[9] == 0 && t.p[3]) = true
    ∧ ends (.parkWake k0 7) (waits (.park 1 15) id) (fun _ => true) = true
    ∧ ends (.tampRelease k0 7) (waits (.tamp .die 0) id) (fun t => t.tampAt.length == 1) = true
    ∧ ends (.waittReached k0 7) (waits (.waitt .vtick 11 3) id) (fun _ => true) = true := by decide +kernel

/-- An episode of the one core, which arrived at cycle c with a payload and waits. -/
def wired (c : Nat) (limit : Option Nat) (here : Bool) : State :=
  { (waits (.wire 1 (some 9)) id).modDie 0 (fun d => { d with tick := 107 }) with
    episodes := [⟨1, k0.ctx, 0, .all, 0, if here then [⟨0, some 77, .addI64, c⟩] else [], [(k0, 7, limit)]⟩] }

/-- The episode's core stands, with its team frozen as a whole, and the one waiter is stopped by a debugger. -/
def wiredStill (whole : Bool) (stop : Option Nat) : State :=
  let s := wired 81 none true
  { s with
    core := { s.core.modSlot 7 (fun t => { t with stopped := stop }) with res := if whole then .frozen else .running }
    contexts := s.contexts.map fun c => { c with whole := whole, state := if whole then .frozen else c.state } }

theorem test_meets_WireEpisodes_still :
    (wiredStill true none).episodes.all (wiredStill true none).wireStill = true ∧ still (.wireRelease 1) (wiredStill true none) = true
    ∧ (wired 81 none true).episodes.all (fun e => !(wired 81 none true).wireStill e) = true
    ∧ after (.wireRelease 1) (wiredStill false (some 3)) (fun t => t.episodes == [] && t.core.slots[7].got == some 77
      && t.core.slots[7].s == (wiredStill false (some 3)).core.slots[7].s) = true := by decide +kernel

theorem test_meets_WireEpisodes :
    (let tick := 107;
     after (.wireRelease 1) (wired (tick - 26) none true) (fun t => t.episodes == [] && t.core.slots[7].s[9] == 77
        && (match t.core.slots[7].phase with | .waiting w => w.done == some t.core.vx | _ => false))
     && still (.wireRelease 1) (wired (tick - 25) none true)
     && ((wired 0 (some 11) false).episodes.all fun e => e.waiters.any (wired 0 (some 11) false).expired)
     && after (.wiretoExpiry 1) (wired 0 (some 11) false) (fun t => t.episodes == [] && match t.core.slots[7].recorded with
        | some q => q.code == 0x09 && q.next
        | none => false)) = true := by decide +kernel


/-! ## … what the networks bring -/

/-- An item of id 9 at core 0 of the context, due. -/
def flying (kind : FlightKind) (f : Core → Core) : State :=
  { with' f id id with flights := [⟨9, kind, k0.ctx, 0, 0, 0, 1, 0, 0, 0, 0, false, [], 0⟩] }

/-- An access of thread 7 that awaits its result under id 1. -/
def access (op : RemoteOp) (f : Core → Core) : State := flying (.access op 7 (some 1)) f

/-- The access performs: the scratchpad reads so afterwards, and so many words are left. -/
def lands (s : State) (a n v left : Nat) : Bool := after (.remoteAccessArrival 9) s fun t =>
  memRead t.core.sp a n == v && t.flights.length == left

theorem test_meets_AccessesPerform :
    (access (.boarr 0) id).copiesFrom (spaceOf k0) (spaceOf k0) = [] ∧ (let s := access (.boarr 0) (fun c => { c with res := .frozen });
     after (.remoteAccessArrival 9) s fun t => t.flights.all (·.held)) = true
    ∧ (access (.boarr 0) id).flightStill ⟨9, .access (.boarr 0) 7 (some 1), k0.ctx, 0, 0, 0, 1, 0, 0, 0, 0, false, [], 0⟩ = false
    ∧ (access (.boarr 0) id).stuckBehind ⟨9, .access (.boarr 0) 7 (some 1), k0.ctx, 0, 0, 0, 1, 0, 0, 0, 0, false, [], 0⟩ = false
    ∧ lands (access (.store 8 8 77) id) 8 8 77 0 = true ∧ lands (access (.nibble 8 true 5) (pad [(8, 1, 0x23)])) 8 1 0x53 0 = true
    ∧ lands (access (.load 8 1 true) (pad [(8, 1, 0x80)])) 8 1 0x80 1 = true
    ∧ after (.remoteAccessArrival 9) (access (.load 8 1 true) (pad [(8, 1, 0x80)])) (fun t => t.flights.any fun f =>
      f.kind == .reply 7 1 (-128) none 0) = true
    ∧ after (.remoteAccessArrival 9) (access (.load 8 1 true) fun c => { c with poison := [0] }) (fun t => t.flights.any fun f =>
      f.kind == .reply 7 1 0 (some 0) 0) = true
    ∧ lands (access (.atomic .add 8 true 5 .rne 0 0 0 7) (pad [(8, 8, 77)])) 8 8 82 1 = true
    ∧ lands (access (.qpub 0 64 0) (pad [(0, 16, qMake 0 1 0 false 1)])) 0 16 (qMake 1 1 0 false 1) 0 = true
    ∧ lands (access (.qpub 0 64 1) (pad [(0, 16, qMake 0 1 0 false 1)])) 0 16 (qMake 0 1 0 true 1) 0 = true
    ∧ lands (access (.depdec 0 5) (pad [(0, 16, 3)])) 0 16 2 0 = true
    ∧ lands (access (.boarr 0) (pad [(0, 16, (⟨0, 0, 2, false, false, false, false, 0, 2⟩ : BarrierObject).toNat)])) 0 16
      (⟨0, 0, 1, false, false, false, false, 0, 2⟩ : BarrierObject).toNat 0 = true := by decide +kernel

/-- A window word of id 9 for core 0 of the context, of this origin, at the end of its route. -/
def windowed (origin : BitVec 2) (f : Core → Core) : State :=
  ({ with' f id id with windows := [⟨9, k0.ctx, 5, 1, 0, 31, 0xA7, origin, none, 0, [0], 0, 0, 0, some 0, 0, 4, none, .moving⟩] } : State).modDie 1
    fun d => { d with tick := 16 }

/-- That word at another place of its route, from this timetable, due at this DTICK. -/
def rerouted (route : List Nat) (h : Option (BitVec 24)) (due : Option Nat) (s : State) : State :=
  { s with windows := s.windows.map fun w => { w with route := route, handle := h, due := due } }

/-- A timetable's word, from a core that still runs, at a frozen core of the same counted team. -/
def stood : State :=
  let s := rerouted [0] (some 3) none (windowed 1 fun c =>
    { c with res := .frozen, tables := [⟨0, none, false, true, 0, false, 0, 0, 0, false⟩] })
  { s with
    others := [{ Core.reset with key := ⟨k0.ctx, 5⟩, res := .running }]
    contexts := s.contexts.map fun c => { c with record := { c.record with elastic := false } } }

/-- The landing buffer is full. -/
def full (c : Core) : Core := { c with landing := List.replicate 64 ⟨0, 0, 0, 0⟩ }

theorem test_meets_WordsArrive_words :
    after (.remoteReplyArrival 9) ({ flying (.reply 7 1 77 none 1) id with
        core := start.core.modSlot 7 fun t => { t with pending := [⟨1, some (.s 9), .scalar 0, none, 5, 3, [], false, none⟩] } } : State)
      (fun t => t.flights == [] && t.core.slots[7].pending == [⟨1, some (.s 9), .scalar 77, some 16, 5, 3, [(0, 1)], false, none⟩]) = true
    ∧ after (.scheduledWordLanding 9) (flying (.word 31 0xA7) id) (fun t => t.core.landing == [⟨0xA7, 0, 31, 0⟩] && t.flights == []) = true
    ∧ after (.scheduledWordLanding 9) (flying (.word 31 0xA7) full) (fun t => t.core.landing.length == 64 && t.flights.all (·.held)) = true
    ∧ (windowed 0 id).windows.all (fun w => !(windowed 0 id).windowStill w && !(windowed 0 id).portTaken w) = true
    ∧ after (.windowWordLanding 9) (windowed 0 id) (fun t => t.windows == [] && t.core.landing == [⟨0xA7, 5, 31, 0⟩]) = true
    ∧ after (.windowWordLanding 9) (windowed 0 full) (fun t => t.windows.map (·.stand) == [.waiting]) = true
    ∧ after (.windowWordLanding 9) (let s := windowed 0 id; { s with windows := s.windows.map fun w => { w with stand := .waiting } })
      (fun t => t.windows.map (·.stand) == [.landed] && t.core.landing.length == 1) = true
    ∧ after (.windowWordLanding 9) (rerouted [8] none none (windowed 2 id))
      (fun t => t.windows == [] && t.fabricOut.map (·.2) == [.windowWord 0 5 31 0xA7 ⟨k0.ctx, 0⟩ 4]) = true
    ∧ after (.windowWordLanding 9) (rerouted [8] (some 3) none (windowed 2 id))
      (fun t => t.windows == [] && t.fabricOut.map (·.2) == [.groupWord 3 0 5 31 0xA7 ⟨k0.ctx, 0⟩ 4]) = true
    ∧ after (.windowWordLanding 9) (rerouted [0] none (some 0) (windowed 2 id)) (fun t => t.windows == [] && t.core.landing.length == 1) = true
    ∧ still (.windowWordLanding 9) (rerouted [0] none (some 4) (windowed 2 id)) = true
    ∧ still (.windowWordLanding 9) (windowed 1 fun c => { c with res := .frozen }) = true
    ∧ (stood.windows.all fun w => !stood.windowStill w && !stood.portTaken w) = true
    ∧ after (.windowWordLanding 9) stood (fun t => t.windows == [] && t.core.landing.length == 1) = true
    ∧ (rerouted [8] none none (windowed 2 id)).firm.removals = [] := by decide +kernel

theorem test_meets_WordsArrive_port :
    (let s := windowed 0 id
     s.windows.all fun w => ({ s with windows := [w, { w with id := 10, stand := .landed }] } : State).portTaken w
       && ({ s with windows := [w, { w with id := 10, stand := .waiting }] } : State).portTaken { w with reached := none }) = true := by
  decide +kernel

theorem test_meets_WordsArrive_items :
    (let bound : State := { start with handles := [⟨3, 0, [5]⟩] };
     let closed (s : State) : State := s.modFirm fun x => { x with removals := [0x3900001F, 0x38000003] };
     let bad (i : Instr) (s : State) : Bool := after i s fun t => t.firm.wordsDropped == 1 && t.windows == [] && t.out.length == 1;
     after (.hubWordArrival 1 15 (.windowWord 0 5 31 0xA7 k0 4)) start (fun t => t.windows.map (fun w => (w.data, w.due)) == [(0xA7, some 4)])
     && after (.hubWordArrival 0 0 (.message 0 77 k0)) start (fun t => t.messages.map (·.msg) == [77])
     && after (.hubWordArrival 0 0 (.groupWord 3 9 5 31 0xA7 k0 4)) bound (fun t => t.windows.map (·.data) == [0xA7])
     && bad (.hubWordArrival 0 0 (.groupWord 4 0 5 31 0xA7 k0 4)) start && bad (.hubWordArrival 0 0 (.windowWord 9 5 31 0xA7 k0 4)) start
     && after (.hubWordArrival 0 0 (.halted 0 5 k0)) start (fun t => t.contexts.map (·.heard) == [[5]])
     && still (.hubWordArrival 1 15 (.windowWord 0 5 31 0xA7 k0 4)) (closed start)
     && still (.ptpTimestamp 0 ⟨true, 0, false, 3, .sync (some 0)⟩) (closed start)) = true
    ∧ after (.activeMessageArrival 9) ({ start with messages := [⟨9, k0.ctx, 0, 0, 77⟩] } : State)
      (fun t => t.messages == [] && t.core.heldMail == [⟨(start.die 0).tick + 1, 2, 0, 77⟩]) = true
    ∧ after (.mailboxHeldPost k0) (with' (fun c => { c with heldMail := [⟨1, 0, 0, 5⟩, ⟨1, 2, 0, 6⟩] }) id id)
      (fun t => t.core.heldMail == [] && t.core.mailbox == [5, 6]) = true
    ∧ after (.mailboxHeldPost k0) (with' (fun c => { c with heldMail := [⟨1, 0, 0, 5⟩], mailbox := List.replicate 32 0 }) id id)
      (fun t => t.core.heldMail.length == 1 && t.core.mailbox.length == 32) = true := by decide +kernel


/-! ## … engines and translation -/

/-- A request of id 9 with these words over LOCAL segments of the whole scratchpad. -/
def request (op : EngOp) (w0 w1 w2 w3 : Word) (st : ReqState) : Request :=
  { base.requestOf op 1 with
    id := 9, op := op, w0 := w0, w1 := w1, w2 := w2, w3 := w3, dseg := base.rg 0, sseg := base.rg 0, state := st
    rowsLeft := wNrow w2, rowLeft := wLen w2 }

/-- The request alone in the FIFO. -/
def engine (r : Request) (f : Core → Core) : State := with' (fun c => f { c with fifo := [r] }) id id

/-- Memory with a table of three levels for ASID 1 of slice 0, whose last entry is e; the context has that ASID. -/
def mapped (e : Nat) (s : State) : State :=
  ({ s with
    mem := [(0x17FFF800008, 8, 2 ^ 63 + 0x8000), (0x8000, 8, 2 ^ 62 + 0x10000), (0x10000, 8, 2 ^ 62 + 0x18000), (0x18000, 8, e)].foldl
      (fun m p => memWrite m p.1 p.2.1 p.2.2) s.mem
    contexts := s.contexts.map fun c => { c with record := { c.record with asid := 1 } } } : State).modSlice 0 fun x =>
      { x with dieMask := 1, asidBase := 1, asidCnt := 4 }

/-- A leaf of 64 KiB with both rights. -/
def leaf : Nat := 2 ^ 63 + 2 ^ 59 + 2 ^ 58 + 0x100000

theorem test_meets_EngineSteps :
    (let q := request .copy 128 64 (2 ^ 20 + 8) 0 .queued;
     after (.engineRequestStart k0) (engine q id) (fun t => t.core.fifo == [{ q with state := .started, begun := true }])
     && after (.engineRequestStart k0) (engine { q with marks := [⟨.core, 3, 7, 0, []⟩] } id) (fun t => t.core.fifo.all fun r => r.state == .started)
     && after (.engineUnitAccess k0 9) (engine { q with state := .started } (pad [(64, 8, 77)])) (fun t =>
       t.core.fifo.map (·.buf) == [[⟨spaceOf k0, 64, 77⟩]] && memRead t.core.sp 128 8 == 0)
     && after (.engineUnitAccess k0 9) (engine { q with state := .started } fun c => { c with poison := [1] }) (fun t =>
       t.core.fifo.map (·.status) == [2])) = true
    ∧ (let q (w2 : Word) (w3 : Word) : Request := { request .copy 128 64 w2 w3 .started with buf := [⟨spaceOf k0, 64, 77⟩] };
     let ends (w2 : Word) (p : Request → Bool) : Bool := after (.engineUnitAccess k0 9) (engine (q w2 0) id) fun t =>
       memRead t.core.sp 128 8 == 77 && t.core.fifo.all p
     ends (2 ^ 20 + 8) (·.state == .finishing) && ends (2 ^ 20 + 16) (·.rowLeft == 8)
     && ends (2 * 2 ^ 20 + 8) (fun r => r.rowsLeft == 1 && r.rowLeft == 8)
     && after (.engineUnitAccess k0 9) (engine (q (2 ^ 20 + 8) (2 ^ 62)) id) (fun t =>
       memRead t.core.sp 0 16 == ((BarrierObject.ofNat 0).change (-8) 0).toNat)
     && (engine (q (2 ^ 20 + 8) (2 ^ 62)) id).spoiltBy (spaceOf k0) [(128, 8), (0, 16)] (spaceOf k0) == []
     && (List.range 8).all (fun i => !(q (2 ^ 20 + 8) 0).inDestination Record.single k0 (.sp k0 64) i)) = true
    ∧ (let q := { request .gath 128 64 (2 ^ 36) 0 .started with idx := some 0, sseg := BitVec.ofNat 128 (8192 * 2 ^ 36 + 2 * 2 ^ 32
            + 0xF * 2 ^ 28 + 12 * 2 ^ 21) };
     after (.engineSublist k0 9) (engine q (pad [(64, 8, 77)])) (fun t => t.core.fifo.map (·.buf.map (·.val)) == [[77]])
     && after (.engineSublist k0 9) (engine { q with buf := [⟨spaceOf k0, 64, 77⟩] } id) (fun t =>
       memRead t.core.sp 128 8 == 77 && t.core.fifo.all fun r => r.next == 1)) = true
    ∧ after (.engineRequestComplete k0 9) (engine (request .copy 0 64 (2 ^ 20 + 8) 0 .finishing) id) (fun t => t.core.fifo == []) = true
    ∧ after (.engineRequestComplete k0 9) (engine (request .copy 0 64 (2 ^ 20 + 8) (2 ^ 63 + 5 * 2 ^ 46) .finishing) id) (fun t =>
      t.core.heldMail == [⟨(start.die 0).tick, 0, 9, completionMessage 5 0 7 0 0 8⟩]) = true := by decide +kernel

theorem test_meets_EngineSteps_walks :
    (let q := { request .copy 128 64 (2 ^ 20 + 8) 0 .started with sseg := BitVec.ofNat 128 (2 ^ 16 * 2 ^ 36 + 3 * 2 ^ 32 + 0xF * 2 ^ 28) };
     let s := mapped leaf (engine q id);
     s.walk (s.sliceOf k0) 1 64 false false == .leaf 0x100040 (2 ^ 16) true true
     && ((s.die 0).cache.find? fun y => y.holds 1 64).isNone && (s.die 0).refused == [] && (s.recordOf k0.ctx).asid == 1
     && (mapped 0 s).walk 0 1 64 false false == .fault .notMapped 3 && (mapped (leaf - 2 ^ 59) s).walk 0 1 64 false false == .fault .rights 3) = true := by
  decide +kernel

/-- A unit of request 9 that is parked in CD0's fault queue. -/
def parkedUnit (r : Option (Nat × Nat)) : Parked := ⟨k0, 9, 7, 1, 64, 64, false, 0, 0, r⟩

/-- That unit parked, the table's last entry e, and 64-bit words of the control block. -/
def faulted (e : Nat) (r : Option (Nat × Nat)) (w : List (Nat × Nat)) : State :=
  let s := mapped e (engine { request .copy 128 64 (2 ^ 20 + 8) 0 .started with parked := true } id)
  ({ s with mem := w.foldl (fun m p => memWrite m (0x17FFF800000 + p.1) 8 p.2) s.mem } : State).modDie 0 fun d => { d with faults := [parkedUnit r] }

theorem test_meets_FaultsServed :
    ((faulted 0 none []).die 0).faults.filter (fun q => q.record.isNone) = [parkedUnit none]
    ∧ (faulted leaf none []).walk 0 1 64 false false = .leaf 0x100040 (2 ^ 16) true true
    ∧ (faulted (leaf + 2 ^ 36) none []).walk 0 1 64 false false = .fault .hole 3
    ∧ (faulted 0 none []).walk 0 1 64 false false = .fault .notMapped 3 ∧ ((faulted 0 none []).tcb 0 8).testBit 62 = false
    ∧ ((faulted 0 none [(8, 2 ^ 63 + 2 ^ 62 + 0x8000)]).tcb 0 8).testBit 62 = true
    ∧ (faulted 0 none [(8, 2 ^ 63 + 2 ^ 62 + 0x8000)]).walk 0 1 64 false false = .fault .notMapped 3
    ∧ (faulted 0 (some (5, 0)) []).pendingFaults 0 = [(0, parkedUnit (some (5, 0)), 5, 0)]
    ∧ memRead (faulted 0 (some (5, 0)) [(0xA0000 + 32 * 5 + 24, 2)]).mem (0x17FFF800000 + 0xA0000 + 32 * 5 + 24) 8 % 4 = 2
    ∧ (faulted 0 none []).parkedBefore (parkedUnit none) = false
    ∧ memRead (faulted 0 (some (5, 0)) [(0x80018, 1), (0x90008, 2 ^ 56)]).mem (0x17FFF800000 + 0x90000) 16 / 2 ^ 120 = 1
    ∧ commandCovers (2 ^ 120 + 3 * 2 ^ 104 + 1 * 2 ^ 16) 3 0x10000 0x10000 = true
    ∧ commandCovers (2 ^ 120 + 3 * 2 ^ 104 + 1 * 2 ^ 16) 3 0x20000 0x10000 = false := by decide +kernel

theorem test_meets_FaultsServed_steps :
    after (.faultService 0) (faulted 0 none []) (fun t => (t.die 0).faults == [] && t.core.fifo.all fun r => r.state == .finishing && r.status == 3) = true
    ∧ after (.faultService 0) (faulted leaf none []) (fun t => (t.die 0).faults == [] && t.core.fifo.all fun r => !r.parked && r.admitted.length == 1) = true
    ∧ after (.faultService 0) (faulted 0 none [(8, 2 ^ 63 + 2 ^ 62 + 0x8000)]) (fun t => (t.die 0).faults == [parkedUnit (some (0, 0))]
      && t.tcb 0 0x80008 == 1) = true
    ∧ after (.faultAnswerPoll 0) (faulted 0 (some (5, 0)) [(0xA0000 + 32 * 5 + 24, 2)]) (fun t => (t.die 0).faults == []) = true
    ∧ still (.faultAnswerPoll 0) (faulted 0 (some (5, 0)) [(0x80008, 6)]) = true
    ∧ after (.faultAnswerPoll 0) (faulted 0 (some (5, 0)) [(0x80008, 7), (0x80010, 6)]) (fun t => (t.die 0).faults == []) = true
    ∧ after (.faultAnswerPoll 0) (faulted leaf (some (5, 0)) [(0xA0000 + 32 * 5 + 24, 1)]) (fun t => t.core.fifo.all fun r => r.admitted.length == 1) = true
    ∧ after (.faultService 0) (faulted 0 none [(8, 2 ^ 63 + 2 ^ 62 + 0x8000), (0x80008, 8192)]) (fun t => (t.die 0).faults.length == 1
      && t.free == 1) = true
    ∧ still (.faultTimeout 0) (faulted 0 (some (5, 0)) [(0x80000, 1), (0x80008, 6)]) = true
    ∧ after (.faultTimeout 0) ((faulted 0 (some (5, 0)) [(0x80000, 1), (0x80008, 6)]).modDie 0 fun d => { d with dtick := 3600000 }) (fun t => (t.die 0).faults == [])
      = true
    ∧ after (.shootdownPages 0) (faulted 0 (some (5, 0)) [(0x80018, 1), (0x90008, 2 ^ 56)]) (fun t => (t.slice 0).shoot) = true
    ∧ after (.shootdownAck 0) ((faulted 0 none []).modSlice 0 fun x => { x with shoot := true }) (fun t => t.tcb 0 0x80020 == 1 && !(t.slice 0).shoot)
      = true := by decide +kernel


/-! ## … clocks, the debugger, traces and timetables -/

/-- A trace session of the context with this much room, at a pulse of its period of 2 to the 10. -/
def session (size : Nat) : Session := ⟨9, 0, k0.ctx, 0, 0, 10, 0x100000, size, 0, 0, 0, 0, 0, true, []⟩

def traced (size p : Nat) : State := { start.modDie 0 (fun d => { d with dhist := [0, 0, 0, 0, p] }) with sessions := [session size] }

/-- Port 3 of hub 0 with the time at which its peer's request came; the hub's DTICK is 9. -/
def peered (t : Option Nat) : State :=
  (start.modFirm fun f => { f with ptp := f.ptp.set 3 { PtpPort.reset with peer := t } }).modDie 8 fun d => { d with dtick := 9 }

theorem test_meets_ClocksDebugTrace :
    (start.die 9).tick % 4096 = 0 ∧ (State.reset.die 7).tick % 4096 = 0
    ∧ after (.ptpTimestamp 0 ⟨true, 7, false, 3, .sync (some 0)⟩) start (fun t => t.firm.plock && t.firm.offset == (start.die 8).dtick) = true
    ∧ ([(.request, { PtpPort.reset with asked := some 9 }), (.response 2, PtpPort.reset), (.sync none, { PtpPort.reset with came := some 9 }),
        (.syncLeaves, { PtpPort.reset with left := some 9 }), (.peerRequest, { PtpPort.reset with peer := some 9 }), (.followUp 0, PtpPort.reset)]
      : List (PtpMessage × PtpPort)).all (fun p =>
      after (.ptpTimestamp 0 ⟨true, 0, false, 3, p.1⟩) (start.modDie 8 fun d => { d with dtick := 9 }) fun t => t.firm.ptp[3] == p.2) = true
    ∧ ([(.syncLeaves, none, .followUp 9), (.responseLeaves, some 4, .held 5)] : List (PtpMessage × Option Nat × PtpSent)).all (fun p =>
      after (.ptpTimestamp 0 ⟨true, 0, false, 3, p.1⟩) (peered p.2.1) fun t => t.firm.ptpOut == [(3, p.2.2)]) = true
    ∧ after (.ptpTimestamp 0 ⟨true, 0, true, 3, .request⟩) start (fun t => t.firm.skewb == 0) = true
    ∧ after (.ptpTimestamp 0 ⟨false, 0, false, 3, .request⟩) start (fun t => t.firm.skewb == 255) = true
    ∧ after (.debugStopRequest k0 7) start (fun t => t.core.slots[7].stopAsked == some 16) = true
    ∧ after (.debugResume k0 7) (with' id (fun t => { t with stopped := some 3 }) id) (fun t => t.core.slots[7].stopAsked == some 16) = true
    ∧ (with' id (fun t => { t with stopAsked := some 11 }) id).core.slots[7].stopped = none
    ∧ after (.serviceClockSwitch 1) (start.modDie 9 fun d => { d with slowClock := true, tick := 15 }) (fun t => !(t.die 9).slowClock && (t.die 9).rateFrom.1 == 15) = true
    ∧ still (.tracePulse 9) (traced 8192 1) = true
    ∧ (traced 6207 1024).sessions.all (fun x => x.size - (x.wr - x.rd) < 6208) = true := by decide +kernel

/-- A thread stopped at VTICK 3 whose wait has ended at 5, and one that a resume lets go at its boundary 16. -/
def stopped (resumed : Option Nat) : Thread :=
  { start.core.slots[7] with stopped := some 3, resumed := resumed, phase := .waiting ⟨.mwait, 5, 3, some 5⟩ }

theorem test_meets_ClocksDebugTrace_resume :
    ({ stopped (some 16) with got := none } : Thread).debugged 15 = stopped (some 16)
    ∧ ((stopped (some 16)).debugged 16).stopped = none ∧ ((stopped none).resumes 3 16).phase = .waiting ⟨.mwait, 5, 3, some 16⟩
    ∧ (let s (b : Nat) : State := with' id (fun t => { t with stopped := some 3, stopAsked := some b }) id
       (s 12).resumeDue k0 7 = s 12 ∧ ((s 11).slotOf 7).phase = .ready ∧ (((s 11).resumeDue k0 7).slotOf 7).resumed = some 11
       ∧ (s 11).core.vx = 11) := by decide +kernel

/-- A hub die whose clock is slow, and whose context's core has halted, or not. -/
def slowHub (halted : Bool) : State :=
  ({ (with' (fun c => { c with die := 9 }) (fun t => if halted then { t with phase := .vacant } else t) id) with
    contexts := start.contexts } : State).modDie 9 fun d => { d with slowClock := true, tick := 15 }

theorem test_meets_ClocksDebugTrace_clock :
    after (.serviceClockSwitch 1) (slowHub true) (fun t => !(t.die 9).slowClock) = true ∧ still (.serviceClockSwitch 1) (slowHub false) = true := by
  decide +kernel

theorem test_meets_ClocksDebugTrace_full : after (.tracePulse 9) (traced 6207 1024) (fun t => t.sessions == [{ session 6207 with lost := 1 }]) = true := by
  decide +kernel

/-- A timetable of one entry with header bits h and entry e, running or in its check. -/
def table (st h e : Nat) (t : Timetable) (f : Core → Core) : State :=
  { with' (fun c => f { pad [(0, 16, thWithState h st), (16, 16, e)] c with tables := [t] }) id id with handles := [⟨3, 0, [0, 1]⟩] }

/-- Two entries, CMODE 0, for handle 3. -/
def hdr2 : Nat := 3 * 2 ^ 104 + 2 * 2 ^ 92

/-- An entry that moves eight bytes at offset 128 with peer 0, SEQ 31 and tick 0: of this kind, N64 sums. -/
def entry (kind : Nat) : Nat := kind * 2 ^ 124 + 2 * 2 ^ 119 + 31 * 2 ^ 84 + 8 * 2 ^ 58 + 128 * 2 ^ 38

def run : Timetable := ⟨0, none, false, true, 0, false, 0, 0, 0, false⟩

theorem test_meets_TimetablesRun :
    ((start.tableFault start.core 0) == some 0) = true
    ∧ (let s := table 2 hdr2 (entry 3) run id;
       !s.emptyRun s.core 0 && thState (memRead s.core.sp 0 16) == 2 && decide (run.entry + 1 < thNent (memRead s.core.sp 0 16))
       && teKind (memRead s.core.sp 16 16) == 3 && teLen (memRead s.core.sp 16 16) == 8 && teLoff (memRead s.core.sp 16 16) == 128
       && decide (run.base + teWt (entry 3) + (s.guardTo s.core 0).1 ≤ (s.die 0).tick)) = true
    ∧ after (.timetableGet k0 0) (table 2 hdr2 (entry 3) run fun c => { c with landing := [⟨0xA7, 0, 31, 0⟩] }) (fun t =>
      memRead t.core.sp 128 8 == 0xA7 && t.core.landing == [] && t.core.tables == [{ run with entry := 1, bytes := 8 }]) = true
    ∧ after (.timetableEntryWake k0 0) (table 2 hdr2 (entry 3) { run with asleep := true } fun c => { c with landing := [⟨0xA7, 0, 31, 0⟩] }) (fun t =>
      memRead t.core.sp 128 8 == 0xA7) = true
    ∧ after (.timetableAcc k0 0) (table 2 hdr2 (entry 2) run fun c => { pad [(128, 8, 3)] c with landing := [⟨0xA7, 0, 31, 0⟩] }) (fun t =>
      memRead t.core.sp 128 8 == 0xAA) = true
    ∧ after (.timetableGet k0 0) (table 2 hdr2 (entry 3) run id) (fun t => t.core.tables == [{ run with asleep := true }]) = true
    ∧ after (.timetablePut k0 0) (table 2 hdr2 (entry 1) run (pad [(128, 8, 77)])) (fun t => t.windows.map (fun w => (w.data, w.dst, w.seq, w.order))
      == [(77, 0, 31, 0)]) = true
    ∧ after (.carmCheckComplete k0 0) (table 0 (5 * 2 ^ 104) 0 { run with running := false, checking := some 5 } id)
      (fun t => t.core.tables == [] && thState (memRead t.core.sp 0 16) == 3 && t.core.heldMail.length == 1) = true
    ∧ after (.channelResponsePost k0) (with' (fun c => { c with asked := [(1, 7, some 5)] }) id id) (fun t => t.core.resp == [(7, 5)] && t.core.asked == [])
      = true
    ∧ after (.channelResponsePost k0) (with' (fun c => { c with asked := [(1, 7, none), (2, 7, some 5)] }) id id) (fun t => t.core.resp == []
      && t.core.asked.length == 2) = true := by decide +kernel

theorem test_meets_TimetablesRun_writes :
    (let s := table 2 hdr2 (entry 3) run id
     s.spoiltBy (spaceOf k0) [(0, 16)] (spaceOf k0) == [] && s.spoiltBy (spaceOf k0) [(128, 8)] (spaceOf k0) == []
     && decide (spaceOf k0 ≠ 0) && thBooff hdr2 == 0) = true
    ∧ thBooff (hdr2 + 8 * 2 ^ 22) % 16 ≠ 0 := by decide +kernel


/-! ## … placement, package events, frames and invariants -/

/-- A queued launch of one core on slice 0, from a frame. -/
def queued : Queued := ⟨Record.single, .frame 0 5, 3, 0, 0, none⟩

/-- That launch in the queue of slice 0, which has die 0. -/
def waiting : State := start.modSlice 0 fun x => { x with dieMask := 1, queue := [queued] }

/-- The context in a team state, with wanted cores, its core in a residency and its die at TICK 12. -/
def team (st : TeamState) (victim : List Nat) (res : Residency) (f : Core → Core) : State :=
  ({ with' (fun c => f { c with res := res }) id id with
    contexts := start.contexts.map fun x => { x with state := st, victim := victim, whole := st != .running } } : State).modDie 0 fun d => { d with tick := 12 }

/-- How the context stands. -/
def stands (t : State) (st : TeamState) : Bool := (t.findCtx k0.ctx).any fun x => x.state == st

/-- Die 1 with its TICK at this count, and an edge with that of die 0. -/
def apart (n : Nat) : State := start.modDie 1 fun d => { d with tick := n, edge := (start.die 0).edge }

theorem test_meets_Placement_together :
    start.together [0] startLead = true ∧ start.together [0] stopLead = true
    ∧ (apart (start.die 0).tick).together [0, 1] startLead = true ∧ (apart ((start.die 0).tick + 4)).together [0, 1] startLead = false
    ∧ waiting.together [0] startLead = true ∧ waiting.submitted = [] ∧ waiting.firm.thermalHold = false ∧ waiting.firm.service = .full := by
  decide +kernel

theorem test_meets_Placement :
    waiting.findPlace queued.record (fun _ => false) = some [(0, 1, 0)]
    ∧ after (.placerRun 0) waiting (fun t => t.contexts.length == 2 && (t.slice 0).queue == []) = true
    ∧ still (.placerRun 0) (waiting.modSlice 0 fun x => { x with stopped := true }) = true
    ∧ start.freeRect 0 1 1 (fun _ => false) = some (1, 0)
    ∧ after (.creditExpiry 0) (start.modSlice 0 fun x => { x with credits := [(1, 0), (2, 5)] }) (fun t => (t.slice 0).credits.length == 2) = true
    ∧ after (.freezeBoundary k0) (with' (fun c => { c with stopAt := some 7 }) id id) (fun t => t.core.res == .frozen && t.core.frozenAt == 7) = true
    ∧ still (.freezeBoundary k0) (with' (fun c => { c with stopAt := some 8 }) id id) = true
    ∧ after (.elasticEviction k0) (team .running [0] .running id) (fun t => t.core.stopAt == some 16) = true := by decide +kernel

/-- That launch, for three packages, while PLOCK is as given. -/
def spanning (lock : Bool) : State :=
  ({ waiting with firm := { waiting.firm with plock := lock } } : State).modSlice 0 fun x =>
    { x with queue := [{ queued with record := { queued.record with npkg := 3 } }] }

theorem test_meets_Placement_lock :
    still (.placerRun 0) (spanning false) = true ∧ after (.placerRun 0) (spanning true) (fun t => (t.slice 0).queue == []) = true
    ∧ (let s := team .freezing [] (.away 0 0 0 false) id
       (s.contexts.all fun x => !x.thermal && !s.sliceHeld x) && s.cores.any (fun c => c.key.ctx == k0.ctx && !c.holdsPlace)
       && after (.quiesce k0.ctx) s fun t => stands t .frozen && (t.slice 0).queue.map (·.team) == [some k0.ctx]) = true
    ∧ (let s := team .quiesced [0] .frozen id
       s.together (s.runDies k0.ctx) stopLead && (s.slice 0).stop.isNone && s.cores.all (·.fifo.isEmpty)) = true := by decide +kernel

theorem test_meets_Placement_run :
    (let s := (table 2 hdr2 (entry 3) run fun c => { c with stopAt := some 7 })
     let u : State := { s with contexts := s.contexts.map fun c => { c with record := { c.record with elastic := false } } }
     u.runsOn u.core && decide (7 + 4 ≤ u.core.vx) && !s.runsOn s.core && start.core.stopAt.isNone) = true := by decide +kernel

theorem test_meets_Placement_freeze :
    after (.quiesce k0.ctx) (team .freezing [] .frozen id) (fun t => stands t .placed) = true
    ∧ after (.quiesce k0.ctx) (team .freezing [0] .frozen id) (fun t => stands t .quiesced) = true
    ∧ after (.streamOut k0) (team .quiesced [0] .frozen id) (fun t => stands t .frozen && t.core.res == .away 0 8 0 false) = true
    ∧ (let s := team .placed [] .frozen id; stands s .placed && !s.firm.thermalHold && s.contexts.all fun x => !s.sliceHeld x) = true
    ∧ after (.resume k0.ctx) (team .resuming [] .frozen fun c => { c with resumeAt := some 8 }) (fun t => stands t .running && t.core.res == .running)
      = true
    ∧ after (.coreReturn k0) (team .running [] (.away 0 0 0 false) fun c => { c with resumeAt := some 0 }) (fun t => t.core.res == .frozen
      && t.core.slots[7].acct[13] == 1) = true := by decide +kernel

/-- A start at which a step fails, or none. -/
def outcome (f : Option (Fin 8)) : StartOutcome := ⟨f, true, [], []⟩

/-- Die 0 with the removal of its core (1, 0), or (0, 0), waiting. -/
def leaving (rid : BitVec 32) : State := start.modDie 0 fun d => { d with pendingRemoval := [rid] }

theorem test_meets_PackageEvents :
    after (.coldStart (outcome none)) start (fun t => t.firm.service == .boot && t.firm.step == 1 && t.contexts == []) = true
    ∧ after (.warmStart (outcome (some 2))) start (fun t => t.firm.service == .failed 2) = true
    ∧ after .thermalLimit start (fun t => t.firm.thermalHold && t.out.length == 1) = true
    ∧ after .thermalCritical start (fun t => stands t .freezing && t.core.stopAt.isSome && t.firm.critical) = true
    ∧ after .thermalClear { team .frozen [] .frozen id with contexts := start.contexts.map fun x => { x with state := .frozen, thermal := true } }
      (fun t => stands t .placed) = true
    ∧ ridOk 0x10010000 = true ∧ still (.errorEvent 0) start = true
    ∧ ([([0], 2), ([0, 0], 3)] : List (List Nat × Nat)).all (fun p =>
      ((((start.die 8).dtick :: p.1).take start.firm.thresholds[0]).filter fun e => (start.die 8).dtick < e + 311040000000000).length == p.2) = true
    ∧ covered populated 16 0 64 = true ∧ (start.spoil 0x10010000 (.memory 0)).memPoison = [0]
    ∧ after (.resourceRemoval 0x10010000) (leaving 0x10010000) (fun t => (t.die 0).removedCores == [(1, 0)]) = true
    ∧ still (.resourceRemoval 0x10000000) (leaving 0x10000000) = true := by decide +kernel

/-- A start with removals on record, under this tag. -/
def removing (tag : List Byte) : State := start.modFirm fun f => { f with removals := [0x10010000], removalTag := tag }

theorem test_meets_PackageEvents_removals :
    start.firm.removals = [] ∧ (removing (removalsTag [0x10010000])).firm.removals ≠ []
    ∧ (removing (removalsTag [0x10010000])).firm.removalTag = removalsTag (removing (removalsTag [0x10010000])).firm.removals
    ∧ (removing (0 :: removalsTag [0x10010000])).firm.removalTag ≠ removalsTag (removing (0 :: removalsTag [0x10010000])).firm.removals :=
  ⟨rfl, List.cons_ne_nil _ _, rfl, List.cons_ne_self _ _⟩

theorem test_meets_PackageEvents_limit : (start.findCtx k0.ctx).isSome = true ∧ k0.ctx ≠ 0 ∧ start.together (start.runDies k0.ctx) stopLead = true
    ∧ (start.spoil 0x20000000 (.memory 0)).memPoison = [0] := by decide +kernel

/-- A CTRL frame of slice 0, SEQ 9 and SLICE's ASID 0, with an opcode and operands. -/
def ctrl (op : Nat) (ws : List Word) : Frame :=
  frameOf (BitVec.ofNat 128 (5 * 2 ^ 124 + 9 * 2 ^ 64 + (ws.length + 1) * 2 ^ 54)) (BitVec.ofNat 64 (op * 2 ^ 56) :: ws)

/-- A frame of a TYPE with an address, a LEN8 and a payload. -/
def typed (ty a n : Nat) (p : List Word) : Frame := frameOf (BitVec.ofNat 128 (ty * 2 ^ 124 + 9 * 2 ^ 64 + n * 2 ^ 54 + a)) p

/-- A launch record of slice 0 with ASID 1 of one core, with image and segments in the same 64 KiB. -/
def rec0 : List Word := [7, 64, 4096, 0xEA07, 0, BitVec.ofNat 64 (2 ^ 48 + 2 ^ 40 + 2 ^ 27 + 2 ^ 22 + 2 ^ 18 + 0x80), 0, BitVec.ofNat 64 (3 * 2 ^ 32), 0,
  0, 0, 0, 0, 0, 0, 0]

/-- The state with ASID 1 of slice 0 mapped, and slice 0 with die 0. -/
def host : State := mapped leaf start

/-- Answered with this STATUS. -/
def answers (i : Instr) (s : State) (st : Nat) : Bool := after i s fun t => (t.out.head?).any fun a => a.status == st && a.seq == 9

/-- The core with channel 7's push 1 open. -/
def pushed : State := with' (fun c => { c with asked := [(1, 7, none)] }) id id

/-- A trace session of the context, and the operands that name it. -/
def traceOp : List Word := [0, 10, 0x100000, 0x10000]

/-- The start waits for its image. -/
def booting : State := { start with firm := { start.firm with service := .boot, accepted := false, imageBytes := [] } }

theorem test_meets_Frames :
    (typed 1 0x1000 2 []).accepted = true ∧ (typed 1 0x1000 2 []).kind = some .memrd ∧ host.firm.service = .full
    ∧ host.owns 0 0x1000 16 = true ∧ host.owns 0 (2 ^ 36) 16 = false ∧ booting.firm.serves .launch = false
    ∧ answers (.memrd (typed 1 0x1000 2 [])) host 0 = true ∧ answers (.memrd (typed 1 0x1004 2 [])) host 1 = true
    ∧ answers (.memrd (typed 1 (2 ^ 36) 2 [])) host 2 = true ∧ answers (.memwr (typed 2 (2 ^ 36) 1 [5])) host 2 = true
    ∧ after (.memwr (typed 2 0x1000 1 [5])) host (fun t => memRead t.mem 0x1000 8 == 5) = true
    ∧ still (.memwr (typed 1 0x1000 2 [])) host = true
    ∧ after (.memrd (typed 1 0x1000 2 [5])) host (fun t => t.firm.dropped == 1 && t.out.length == 1) = true
    ∧ answers (.image (ctrl 32 [])) host 1 = true ∧ answers (.heartbeat (ctrl 26 [])) booting 0 = true
    ∧ answers (.unbind (ctrl 2 [3])) booting 1 = true := by decide +kernel

theorem test_meets_Frames_ctrl :
    (ctrl 2 [3]).accepted = true ∧ (ctrl 2 [3]).kind = some .unbind
    ∧ after (.unbind (ctrl 2 [3])) { start with handles := [⟨3, 0, [0]⟩] } (fun t => t.handles == []) = true
    ∧ after (.destroy (ctrl 3 [BitVec.ofNat 64 k0.ctx])) start (fun t => t.contexts == []) = true
    ∧ after (.destroy (ctrl 3 [BitVec.ofNat 64 k0.ctx])) (team .freezing [] .frozen id) (fun t => t.contexts.all (·.doomed)) = true
    ∧ after (.reset (ctrl 4 [BitVec.ofNat 64 k0.ctx])) start (fun t => t.contexts == []) = true
    ∧ after (.hostresp (ctrl 8 [BitVec.ofNat 64 k0.ctx, 0, 7, 5])) pushed (fun t => t.core.asked == [(1, 7, some (BitVec.ofNat 64 (5 * 2 ^ 61 + 5)))]) = true
    ∧ after (.topen (let f := ctrl 5 traceOp
        { f with payload := BitVec.ofNat 64 (5 * 2 ^ 56 + k0.ctx) :: f.payload.tail })) host (fun t => t.sessions.length == 1) = true
    ∧ after (.tclose (let f := ctrl 6 [0, 10, 0x100000, 0x10000]
        { f with payload := BitVec.ofNat 64 (6 * 2 ^ 56 + k0.ctx) :: f.payload.tail }))
        { host with sessions := [{ session 0x10000 with die := 0 }] } (fun t => t.sessions == []) = true
    ∧ after (.trdptr (ctrl 7 [9, 8])) { host with sessions := [{ session 0x10000 with wr := 64 }] } (fun t => t.sessions.map (·.rd) == [8]) = true
    ∧ after (.cancel (ctrl 9 [0])) waiting (fun t => (t.slice 0).queue == []) = true
    ∧ answers (.flightrd (ctrl 28 [2])) { start with firm := { start.firm with flights := [(2, 77)] } } 0 = true := by decide +kernel

/-- Slice 0 with a launch queued by channel 7's push 1 of the core. -/
def child : State := pushed.modSlice 0 fun x => { x with dieMask := 1, queue := [{ queued with origin := .child k0 1 }] }

/-- A handle of the context's job, beside another context of this job key. -/
def bound (key : Word) : State :=
  { start with
    handles := [⟨3, 0, [0]⟩]
    contexts := start.contexts ++ start.contexts.map fun c => { c with num := 7, record := { c.record with jobKey := key } } }

theorem test_meets_Frames_held :
    after (.cancel (ctrl 9 [0])) child (fun t => (t.slice 0).queue == [] && t.core.asked.all fun x => x.2.2.isSome) = true
    ∧ after (.destroy (ctrl 3 [BitVec.ofNat 64 k0.ctx])) (bound 0) (fun t => t.handles.length == 1) = true
    ∧ after (.destroy (ctrl 3 [BitVec.ofNat 64 k0.ctx])) (bound 5) (fun t => t.handles == []) = true := by decide +kernel

theorem test_meets_Frames_launch :
    (typed 0 0 16 rec0).accepted = true ∧ (typed 0 0 16 rec0).kind = some .launch
    ∧ (match host.checkRecord 0 rec0 none with | .error 5 => true | _ => false) = true
    ∧ answers (.launch (typed 0 0 16 rec0)) host 1 = true := by decide +kernel

/-- A SLICECFG of die 1 with ASIDs 16 to 31 and no capacity. -/
def sliceCfg : Frame := let f := ctrl 16 [BitVec.ofNat 64 (2 * 2 ^ 56 + 16 * 2 ^ 32 + 16 * 2 ^ 16), 0]
  { f with hdr := f.hdr ||| BitVec.ofNat 128 (1 * 2 ^ 120) }

/-- Slice 0 with a GiB of capacity, which holds its two bitmaps. -/
def sharing : State := ((host.modSlice 0 fun x => { x with cap0n := 1 }).setTcb 0 0xE0008 0x8000400000).setTcb 0 0xE0010 0x8000800000

/-- Slice 0 stopped, with a queued launch. -/
def halted : State := waiting.modSlice 0 fun x => { x with stopped := true }

theorem test_meets_SliceFrames :
    sliceCfg.accepted = true ∧ sliceCfg.kind = some .slicecfg ∧ host.sliceEmpty 1 = true ∧ host.sliceEmpty 0 = false
    ∧ after (.slicecfg sliceCfg) host (fun t => (t.slice 1).dieMask == 2 && (t.slice 1).asidCnt == 16) = true
    ∧ after (.dirty (ctrl 17 [0])) host (fun t => t.tcb 0 0xE0000 == 0) = true
    ∧ after (.dirty (ctrl 17 [1])) sharing (fun t => t.tcb 0 0xE0000 == 2 ^ 63) = true
    ∧ answers (.dsnap (ctrl 18 [])) host 1 = true
    ∧ after (.dsnap (ctrl 18 [])) (host.setTcb 0 0xE0000 (2 ^ 63)) (fun t => t.tcb 0 0xE0000 == 2 ^ 63 + 1
      && (t.slice 0).snap == some (0, 9, List.finRange 10) && t.out == []) = true
    ∧ after (.dsnap (ctrl 18 [])) ((host.setTcb 0 0xE0000 (2 ^ 63)).modSlice 0 fun x => { x with snap := none })
      (fun t => ((t.modSlice 0 fun x => { x with snap := some (0, 9, []) }).flipPort 0).out.length == 1) = true
    ∧ answers (.slicestop (ctrl 19 [0, 0])) halted 1 = true ∧ answers (.slicestop (ctrl 19 [8, 0])) host 1 = true
    ∧ after (.slicestop (ctrl 19 [0x8000000000, 0x10000])) sharing (fun t => (t.slice 0).stopped && stands t .freezing && t.out == []) = true
    ∧ answers (.sliceload (ctrl 20 [0x10000])) host 1 = true
    ∧ after (.slicerun (ctrl 21 [])) halted (fun t => !(t.slice 0).stopped && (t.slice 0).queue.length == 1) = true
    ∧ answers (.slicerun (ctrl 21 [])) waiting 1 = true
    ∧ after (.sliceclear (ctrl 22 [])) halted (fun t => (t.slice 0).queue == [] && t.contexts == []) = true
    ∧ after (.healthcfg (ctrl 24 [BitVec.ofNat 64 (2 * 2 ^ 32 + 9)])) start (fun t => t.firm.thresholds == #v[3, 9, 64]) = true
    ∧ answers (.healthrd (ctrl 25 [0])) start 1 = true ∧ answers (.healthrd (ctrl 25 [0x10010000])) start 0 = true
    ∧ after (.slicerun (ctrl 21 [])) ((halted.modSlice 0 fun x => { x with stoppedAt := 4, queue := [{ queued with since := 7 }] }).modDie 8 fun d =>
      { d with dtick := 10 }) (fun t => (t.slice 0).queue.map (·.since) == [10]) = true
    ∧ after (.restore (ctrl 27 [0x10010000])) { start with firm := { start.firm with removals := [0x10010000] } } (fun t =>
      t.firm.restores == [0x10010000]) = true
    ∧ answers (.heartbeat (ctrl 26 [])) start 0 = true
    ∧ answers (.heartbeat (ctrl 26 [])) { start with firm := { start.firm with service := .failed 4 } } 1 = true := by decide +kernel

/-- An IMAGE frame with its chunk's place in the operand of the first word. -/
def chunk (a : Nat) (ws : List Word) : Frame := let f := ctrl 32 ws
  { f with payload := BitVec.ofNat 64 (32 * 2 ^ 56 + a) :: f.payload.tail }

/-- Chunk 0 of an image of 4,096 bytes, come after the chunk of its end. -/
def earlyEnd : List (Nat × List Byte) := [(0, (List.replicate 4088 (0 : Byte)).set 181 0x10), (4088, List.replicate 8 0)]

theorem test_meets_SliceFrames_flip :
    ((host.modSlice 0 fun x => { x with snap := some (0, 9, [3]) }).flipPort 0).slices[0].ports = BitVec.twoPow 10 3
    ∧ (ctrl 23 [0x10000, 0x10000]).accepted = true ∧ (ctrl 23 [0x10000, 0x10000]).kind = some .digest ∧ host.owns 0 0x10000 0x10000 = true
    ∧ poisonIn host.memPoison 0x10000 0x10000 = [] ∧ (start.slice 0).snap = none ∧ (sharing.bitmapOk 0 0 && sharing.bitmapOk 0 1) = true := by decide +kernel

theorem test_meets_SliceFrames_image :
    (chunk 8 [0]).accepted = true ∧ (chunk 8 [0]).kind = some .image ∧ lastChunk [(0, List.replicate 8 0)] 0 8 = false
    ∧ imageLen earlyEnd = some 4096 ∧ lastChunk earlyEnd 0 4088 = true ∧ lastChunk (earlyEnd.filter fun c => c.1 ≠ 0) 4088 8 = false
    ∧ answers (.image (chunk 8 [0])) booting 1 = true
    ∧ after (.image (chunk 0 [0])) booting (fun t => t.firm.imageBytes == [(0, List.replicate 8 0)]) = true := by decide +kernel

theorem test_meets_frames : (slotInfo (.add g0 1 2 3)).slot < 5 ∧ base.cur.trap = none
    ∧ after (.add g0 1 2 3) base (fun t => t.cur.trap.isNone) = true ∧ mayStore (.add g0 1 2 3) = false ∧ writesSpecial (.add g0 1 2 3) = false
    ∧ mayRaise (.add g0 1 2 3) = false ∧ base.core.slots[7].phase ≠ .vacant
    ∧ ([.st g0 1 m0 2 3 false, .stv g0 4 m0 2 0 3 .g4 false, .depdec g0 1 m0, .cfire g0 1 2, .trig g0 1 255] : List Instr).all (fun i =>
      after i base fun t => t.cur.trap.isNone) = true := by decide +kernel

theorem test_meets_RegisterFrame : base.copiesFrom (spaceOf base.core.key) 0 = [] ∧ base.spoiltBy (spaceOf base.core.key) [(0, 8)] 0 = []
    ∧ readOnlyWord 0x1000 = false ∧ (base.findCtx base.core.key.ctx).isSome = true := by decide +kernel

theorem test_meets_ResetState : (start.cores.all fun c => c.slots.toList.all Thread.wired) = true
    ∧ (match step start with
      | .next t => t.cores.all fun c => c.slots.toList.all Thread.wired
      | _ => false) = true := by decide +kernel

theorem test_meets_MemoryCanonical : Memory.wf State.reset.mem = true ∧ Memory.wf host.mem = true
    ∧ (match step start with | .next t => t.agenda.length == 0 | _ => false) = true := by decide +kernel


/-! ## The spec's own worked examples -/

/-- The scalar that an instruction writes to s5 in one cycle, or brings to it later, from two operands in s1 and s2. -/
def gives (i : Instr) (a b v : Word) : Bool := after i (opened id (scal [(1, a), (2, b)])) fun t =>
  t.cur.trap.isNone && (match t.thread.pending with
    | [] => t.thread.s[5] == v
    | p :: _ => p.reg == some (.s 5) && p.val == .scalar v)

/-- Table 11-2. -/
theorem test_divide : ([(7, -2, -3, 0, 1, 7), (-7, 2, -3, 0x7FFFFFFFFFFFFFFC, -1, 1), (0x8000000000000000, -1, 0x8000000000000000, 0, 0,
      0x8000000000000000), (9, 0, -1, -1, 9, 9)] : List (Word × Word × Word × Word × Word × Word)).all (fun (a, b, q, qn, r, rn) =>
    gives (.div g0 5 1 2) a b q && gives (.divn g0 5 1 2) a b qn && gives (.rem g0 5 1 2) a b r && gives (.remn g0 5 1 2) a b rn) = true := by
  decide +kernel

/-- The example of R238, and the constant of R241. -/
theorem test_bits : gives (.bext g0 5 1 2) 0xF0F0 0xFF00 0xF0 = true ∧ gives (.bdep g0 5 1 2) 0xF0F0 0xFF00 0xF000 = true
    ∧ gives (.li g0 5 0x89ABCDEF) 0 0 0x89ABCDEF = true ∧ gives (.lih g0 5 1 0x01234567) 0x89ABCDEF 0 0x0123456789ABCDEF = true := by decide +kernel

/-- Chapter 10, one bundle to the bit: its S slot with EXT. -/
theorem test_bundle_word : decodeS 0xC9868606D840 (some 0xFFFF) = some (.addi ⟨true, 9⟩ 26 3 (-600000)) := by decide +kernel

/-- Chapter 10: s3 = 1,000,000 and a false p9 bring 400,000 to s26; a true one brings nothing; the extended immediate needs EXTSEL. With
RRB 2, p9 is p15 and s26 is s24 by R57, whose formula the model follows over the registers that the chapter prints. -/
theorem test_bundle_effect :
    (let s (p : Bool) := opened id fun t => { scal [(3, 1000000)] t with rrb := 2, p := t.p.set 15 p }
     after (.addi ⟨true, 9⟩ 26 3 (-600000)) (s false) (fun t => t.thread.s[24] == 400000)
     && after (.addi ⟨true, 9⟩ 26 3 (-600000)) (s true) (fun t => t.thread.s[24] == 0)
     && (decodeS 0xC9868606D840 none == some (.addi ⟨true, 9⟩ 26 3 448576))
     && (decodeBundle (BitVec.ofNat 256 (0x1000C98686 * 2 ^ 216 + 0x06D840 * 2 ^ 192 + 0xFFFF))).isSome
     && (decodeBundle (BitVec.ofNat 256 (0x4000C98686 * 2 ^ 216 + 0x06D840 * 2 ^ 192 + 0xFFFF))).isNone
     && (decodeBundle (BitVec.ofNat 256 (0x0000C98686 * 2 ^ 216 + 0x06D840 * 2 ^ 192 + 0xFFFF))).isNone) = true := by decide +kernel

/-- Eight lanes of 64 bits, lane 0 first. -/
def d64 (l : List Nat) : VWord := BitVec.ofNat 512 (l.foldr (fun x n => x + n * 2 ^ 64) 0)

/-- Table 12-11. -/
theorem test_vfma_word : decodeV 0x1020C8531000 none = some (.vfma ⟨false, 2⟩ 3 4 5 6 1 .fp64 .rne) := by decide +kernel

/-- Chapter 12, one masked fused multiply-add: lanes 0 and 2; the others keep what they hold, or become 0 when v3 is dead. -/
theorem test_vfma_lanes :
    (let s (dead : BitVec 32) := opened id fun t => { t with
       k := t.k.set 1 5
       vdead := dead
       v := (((t.v.set 3 (d64 [1, 2, 3, 4, 5, 6, 7, 8])).set 4 (d64 [0x4000000000000000, 0, 0x3FF0000000000001])).set 5
         (d64 [0x4008000000000000, 0, 0x3FEFFFFFFFFFFFFF])).set 6 (d64 [0x3FF0000000000000, 0, 0xBFF0000000000000]) }
     let i := Instr.vfma g0 3 4 5 6 1 .fp64 .rne
     after i (s 0) (fun t => t.thread.v[3] == d64 [0x401C000000000000, 2, 0x3C9FFFFFFFFFFFFE, 4, 5, 6, 7, 8] && t.thread.fpctl == 0)
     && after i (s 8) (fun t => t.thread.v[3] == d64 [0x401C000000000000, 0, 0x3C9FFFFFFFFFFFFE, 0, 0, 0, 0, 0] && t.thread.vdead == 0)) = true := by
  decide +kernel

/-- Table 12-12. -/
theorem test_reduce :
    (let s := opened id fun t => { t with
       k := t.k.set 2 0xEF
       v := t.v.set 2 (d64 [0x3FF0000000000000, 0x3CA0000000000000, 0x3CA0000000000000, 0x3CA0000000000000, 0x4008000000000000]) }
     after (.vred g0 .sum 1 2 2 .fp64 .rne false) s (fun t => t.thread.v[1] == d64 [0x3FF0000000000001])
     && after (.vscan g0 .sum 7 2 2 .fp64 .rne false) s (fun t => t.thread.v[7] == d64 ([0x3FF0000000000000, 0x3FF0000000000000,
         0x3FF0000000000000] ++ List.replicate 5 0x3FF0000000000001))) = true := by decide +kernel

/-- Chapter 13, the word of its MMA; chapter 14, the word of its gather; Table 15-6. -/
theorem test_other_words : decodeM 0x004805B0 none = some (.mma g0 2 0 1 3 .e2m1)
    ∧ decodeL 0x82D244A00406C none = some (.ldvg ⟨false, 1⟩ 9 ⟨4, 2, 64⟩ 10 3 1 true)
    ∧ decodeX 0x0020280062 none = some (.send g0 5 3 2) ∧ decodeX 0x0049000002 none = some (.recv g0 9 (.imm 0 2))
    ∧ decodeX 0x006930C002 none = some (.recvt g0 9 6 3 (.imm 0 2)) := by decide +kernel

/-- Chapter 14: offset 0x2000 of a segment of 0x2000 bytes traps BOUNDS; a missing word of a counted team traps SCHEDULE, with its
tag in TADDR (Table 15-7). -/
theorem test_traps_shown :
    (let s := opened id fun t => { scal [(4, 0x1000)] t with
       g := t.g.set 2 (BitVec.ofNat 128 (0x8000 * 2 ^ 76 + 0x2000 * 2 ^ 36 + 1 * 2 ^ 32 + 0xF * 2 ^ 28))
       k := t.k.set 3 0x8005
       v := t.v.set 10 (BitVec.ofNat 512 (3 + 0x3F0 * 2 ^ 64 + 5 * 2 ^ 480)) }
     after (.ldvg g0 9 ⟨4, 2, 64⟩ 10 3 1 true) s (fun t => t.cur.trap.any fun q => q.taddr == 0x2000 && q.tlane == 2)
     && traps (.ldvg g0 9 ⟨4, 2, 64⟩ 10 3 1 true) s 2 3
     && after (.recv g0 9 (.imm 0 2)) (teamed id fun r => { r with elastic := false }) (fun t => t.cur.trap.any fun q => q.taddr == 2)) = true := by
  decide +kernel

/-- A word of each slot, where the table numbers its bits: the decoder's answer, and what the next step runs. -/
theorem test_fetch : decodeTableWord 48 0x946400000 = some (.add g0 5 3 4)
    ∧ (match step (State.withFetchWord (with' id (scal [(3, 40), (4, 2)]) id) 48 0x946400000) with
      | .next t => t.core.slots[7].s[5] == 42
      | _ => false) = true := by decide +kernel

end Sys2Proof.Tests
end

section
/-! ## What MFC returns of what MTC wrote (R64, R258) -/

namespace Sys2Proof.Machine
open Sys2Proof

/-- With one write on its way, WATCH changes in the eighth cycle after its issue (R64, R258). -/
theorem Core.watchAt_of_one_pending {c : Core} {w : Nat} {j : Fin 4} {v : Word} (hp : c.watchPend = [(w, j, v)]) (x : Nat) :
    c.watchAt x = if w + 8 ≤ x then c.watch.set j.val (watchWrite c.watch[j.val] v) else c.watch := by
  simp [Core.watchAt, hp]

/-- A cycle's settling brings WATCH to the stand of `watchTime`, which need not be that of the core's own cycle. -/
theorem Core.settleWatch_watch (c : Core) : c.settleWatch.watch = c.watchAt c.watchTime := rfl

theorem Core.watchTime_of_frozen {c : Core} (hf : c.res = .frozen) : c.watchTime = c.vx + 8 := by
  simp [Core.watchTime, hf]

/-- A frozen core settles at once a write that it issued before it stopped. -/
theorem Core.settleWatch_watch_of_frozen {c : Core} {w : Nat} {j : Fin 4} {v : Word} (hf : c.res = .frozen)
    (hp : c.watchPend = [(w, j, v)]) (hw : w ≤ c.vx) :
    c.settleWatch.watch = c.watch.set j.val (watchWrite c.watch[j.val] v) := by
  rw [c.settleWatch_watch, Core.watchTime_of_frozen hf, Core.watchAt_of_one_pending hp, if_pos (by omega)]

/-- Refutes O25 in its clause on `settleWatch`, which is stated for every core but holds of running ones alone: a core that has stopped
has passed the W of all its bundles (`Core.watchTime`), so its WATCH takes a pending write that `watchAt` shows only later. Here WATCH0,
which holds 0, is written with 5 by the bundle of cycle 4, and the core stands frozen at cycle 8: settled, WATCH0 is 5, and
`watchAt 8` still has it at 0. -/
theorem not_controlRoundTrip : ¬ Obligations.ControlRoundTrip := by
  unfold Obligations.ControlRoundTrip
  intro h
  obtain ⟨-, -, -, -, -, -, -, -, -, -, -, -, -, -, -, -, hwatch, -⟩ := h State.reset State.reset.cur.pre 5 rfl
  let c : Core := { Core.reset with res := .frozen, vx := 8, watchPend := [(4, 0, 5)] }
  obtain ⟨-, -, hclaimed⟩ := hwatch c 0 4 8 rfl
  have hsettled : c.settleWatch.watch[0] = 5 := by
    rw [Core.settleWatch_watch_of_frozen (c := c) rfl rfl (by decide)]
    decide
  have hinForce : (c.watchAt c.vx)[0] = 0 := by
    rw [Core.watchAt_of_one_pending (c := c) rfl]
    decide
  rw [hclaimed, hinForce] at hsettled
  exact absurd hsettled (by decide)

end Sys2Proof.Machine
end

section
/-! ## Canonical memory through records, choices, folds and outcomes -/

namespace Sys2Proof.Machine
open Sys2Proof

variable {s : State}

/-- Memory that is left as it is stays canonical, and was so before: the `_canonical_iff` lemmas below say it of the functions that never
write memory, the `_canonical` lemmas of those that may. -/
theorem State.canonical_iff_of_mem {s t : State} (e : t.mem = s.mem) : t.memCanonical ↔ s.memCanonical := by
  rw [State.memCanonical, State.memCanonical, e]

@[simp] theorem State.wf_mem_iff : Memory.wf s.mem = true ↔ s.memCanonical := ⟨fun h => h, fun h => h⟩

/-- A record update asks only for canonical memory, whatever else it sets. -/
@[simp] theorem State.mk_canonical_iff {core others cur agenda inputs out fabricOut free fresh nextCtx arrivals dies}
    {mem : Memory}
    {memPoison flights windows messages submitted episodes contexts slices handles sessions images firm seqOut seqIn} :
    (State.mk core others cur agenda inputs out fabricOut free fresh nextCtx arrivals dies mem memPoison flights windows
      messages submitted episodes contexts slices handles sessions images firm seqOut seqIn).memCanonical ↔ Memory.wf mem = true :=
  ⟨fun h => h, fun h => h⟩

@[simp] theorem State.ite_canonical_iff {c : Prop} [Decidable c] {s t : State} :
    (if c then s else t).memCanonical ↔ if c then s.memCanonical else t.memCanonical := by
  split <;> rfl

theorem foldl_canonical {α : Type} {f : State → α → State} (hf : ∀ s a, s.memCanonical → (f s a).memCanonical) {l : List α}
    (h : s.memCanonical) : (l.foldl f s).memCanonical := by
  induction l generalizing s with
  | nil => exact h
  | cons a l ih => exact ih (hf s a h)

theorem foldl_canonical_iff {α : Type} {f : State → α → State} (hf : ∀ s a, (f s a).memCanonical ↔ s.memCanonical)
    {l : List α} : (l.foldl f s).memCanonical ↔ s.memCanonical := by
  induction l generalizing s with
  | nil => rfl
  | cons a l ih => exact ih.trans (hf s a)

/-- A fold that carries a value beside the state. -/
theorem foldl_snd_canonical_iff {α β : Type} {f : β × State → α → β × State}
    (hf : ∀ (p : β × State) a, (f p a).2.memCanonical ↔ p.2.memCanonical) {l : List α} {p : β × State} :
    (l.foldl f p).2.memCanonical ↔ p.2.memCanonical := by
  induction l generalizing p with
  | nil => rfl
  | cons a l ih => exact ih.trans (hf p a)

theorem canonical_iff_of_pair {α : Type} {p : α × State} {a : α} {s t : State} (e : p = (a, t))
    (h : p.2.memCanonical ↔ s.memCanonical) : t.memCanonical ↔ s.memCanonical := by
  subst e
  exact h

/-- If an outcome is a next state, that state's memory is canonical. -/
def AnswersCanonical (o : Out) : Prop := ∀ t, o = .next t → t.memCanonical

@[simp] theorem answersCanonical_next {t : State} : AnswersCanonical (.next t) ↔ t.memCanonical :=
  ⟨fun h => h t rfl, fun h _ e => by cases e; exact h⟩

@[simp] theorem answersCanonical_fault (f : Fault) : AnswersCanonical (.fault f) := fun _ e => by cases e

@[simp] theorem answersCanonical_refused (r : Refusal) : AnswersCanonical (.refused r) := fun _ e => by cases e

@[simp] theorem State.did_canonical {o : Out} (h : s.memCanonical) (ho : AnswersCanonical o) : (s.did o).memCanonical := by
  cases o with
  | next t => exact ho t rfl
  | fault _ => exact h
  | refused _ => exact h

end Sys2Proof.Machine
end

section
/-! ## Canonical memory under the state's operations -/

namespace Sys2Proof.Machine
open Sys2Proof

variable {s : State}

@[simp] theorem State.focus_canonical_iff {k : CoreKey} : (s.focus k).memCanonical ↔ s.memCanonical := by
  obtain ⟨-, -, -, -, hmem, -⟩ := State.focus_rest s k
  exact State.canonical_iff_of_mem hmem

@[simp] theorem State.modCore_canonical_iff {k : CoreKey} {f : Core → Core} :
    (s.modCore k f).memCanonical ↔ s.memCanonical :=
  State.canonical_iff_of_mem (State.modCore_mem s k f)

@[simp] theorem State.modCores_canonical_iff {p : Core → Bool} {f : Core → Core} :
    (s.modCores p f).memCanonical ↔ s.memCanonical :=
  State.canonical_iff_of_mem (State.modCores_mem s p f)

@[simp] theorem State.modThread_canonical_iff {f : Thread → Thread} : (s.modThread f).memCanonical ↔ s.memCanonical :=
  State.canonical_iff_of_mem (State.modThread_mem s f)

@[simp] theorem State.modDie_canonical_iff {d : Fin 10} {f : Die → Die} : (s.modDie d f).memCanonical ↔ s.memCanonical :=
  State.canonical_iff_of_mem (State.modDie_mem s d f)

@[simp] theorem State.modSlice_canonical_iff {n : Fin 8} {f : Slice → Slice} :
    (s.modSlice n f).memCanonical ↔ s.memCanonical :=
  State.canonical_iff_of_mem (State.modSlice_mem s n f)

@[simp] theorem State.modCtx_canonical_iff {n : Nat} {f : Context → Context} :
    (s.modCtx n f).memCanonical ↔ s.memCanonical :=
  State.canonical_iff_of_mem (State.modCtx_mem s n f)

@[simp] theorem State.newId_canonical_iff : s.newId.2.memCanonical ↔ s.memCanonical :=
  State.canonical_iff_of_mem (State.newId_mem s)

@[simp] theorem State.pick_canonical_iff {n : Nat} : (s.pick n).2.memCanonical ↔ s.memCanonical :=
  State.canonical_iff_of_mem (State.pick_mem s n)

@[simp] theorem State.modFirm_canonical_iff {f : Firm → Firm} : (s.modFirm f).memCanonical ↔ s.memCanonical :=
  State.canonical_iff_of_mem (State.modFirm_mem s f)

@[simp] theorem State.setS_canonical_iff {d : SReg} {v : Word} : (s.setS d v).memCanonical ↔ s.memCanonical :=
  State.canonical_iff_of_mem (State.setS_mem s d v)

@[simp] theorem State.setP_canonical_iff {d : PReg} {v : Bool} : (s.setP d v).memCanonical ↔ s.memCanonical := by
  simp [State.setP]

@[simp] theorem State.setK_canonical_iff {d : KReg} {v : Word} : (s.setK d v).memCanonical ↔ s.memCanonical :=
  State.canonical_iff_of_mem (State.setK_mem s d v)

@[simp] theorem State.setVm_canonical_iff {d : VReg} {v mask : VWord} : (s.setVm d v mask).memCanonical ↔ s.memCanonical :=
  State.canonical_iff_of_mem (State.setVm_mem s d v mask)

@[simp] theorem State.setV_canonical_iff {d : VReg} {v : VWord} : (s.setV d v).memCanonical ↔ s.memCanonical :=
  State.canonical_iff_of_mem (State.setV_mem s d v)

@[simp] theorem State.setT_canonical_iff {d : TReg} {x : Tile} {stores : Bool} :
    (s.setT d x stores).memCanonical ↔ s.memCanonical :=
  State.canonical_iff_of_mem (State.setT_mem s d x stores)

@[simp] theorem State.takeTrap_canonical_iff {r : Trap} : (s.takeTrap r).memCanonical ↔ s.memCanonical := by
  unfold State.takeTrap
  repeat' split
  all_goals simp

@[simp] theorem State.addPending_canonical_iff {reg : Option Ref} {val : PendVal} {ready : Option Nat}
    {raised : List (Nat × BitVec 5)} {traps : Bool} {id : Nat} :
    (s.addPending reg val ready raised traps id).memCanonical ↔ s.memCanonical := by
  simp [State.addPending]

@[simp] theorem State.beginWait_canonical_iff {k : WaitKind} : (s.beginWait k).memCanonical ↔ s.memCanonical := by
  simp [State.beginWait]

@[simp] theorem State.longS_canonical_iff {d : SReg} {v : Word} {l : Nat} :
    (s.longS d v l).memCanonical ↔ s.memCanonical := by
  simp [State.longS]

@[simp] theorem State.sendFrame_canonical_iff {lane : Fin 2} {type : Nat} {resp : Bool} {slice asid status : Nat}
    {seq : Option Nat} {addr : Nat} {payload : List Word} :
    (s.sendFrame lane type resp slice asid status seq addr payload).memCanonical ↔ s.memCanonical :=
  State.canonical_iff_of_mem (State.sendFrame_mem s lane type resp slice asid status seq addr payload)

@[simp] theorem State.sendEvent_canonical_iff {code ctx mid : Nat} {more : List Word} :
    (s.sendEvent code ctx mid more).memCanonical ↔ s.memCanonical :=
  State.canonical_iff_of_mem (State.sendEvent_mem s code ctx mid more)

@[simp] theorem State.respond_canonical_iff {f : Frame} {status : Nat} {payload : List Word} :
    (s.respond f status payload).memCanonical ↔ s.memCanonical :=
  State.canonical_iff_of_mem (State.respond_mem s f status payload)

@[simp] theorem State.count_canonical_iff {d : Fin 10} : (s.count d).memCanonical ↔ s.memCanonical := by simp [State.count]

@[simp] theorem State.takeStamps_canonical_iff {die : Fin 10} : (s.takeStamps die).memCanonical ↔ s.memCanonical := by
  unfold State.takeStamps
  split
  next e =>
  exact State.modDie_canonical_iff.trans
    (canonical_iff_of_pair e (foldl_snd_canonical_iff fun _ _ => by simp [State.pick]))

@[simp] theorem execAlignStampExchange_canonical {die : Fin 10} (h : s.memCanonical) :
    AnswersCanonical (execAlignStampExchange die s) := by
  simp [execAlignStampExchange, h]

@[simp] theorem execPtpTimestamp_canonical {hub : Fin 2} {rep : PtpReport} (h : s.memCanonical) :
    AnswersCanonical (execPtpTimestamp hub rep s) := by
  simp [execPtpTimestamp, h]

@[simp] theorem State.firmWrite_canonical {a n v : Nat} (h : s.memCanonical) : (s.firmWrite a n v).memCanonical :=
  memWrite_wf _ _ _ _ h

@[simp] theorem State.setTcb_canonical {sl : Fin 8} {off v : Nat} (h : s.memCanonical) :
    (s.setTcb sl off v).memCanonical := by
  simp [State.setTcb, h]

@[simp] theorem State.markDirty_canonical {port : Fin 10} {sl : Fin 8} {pa : Nat} (h : s.memCanonical) :
    (s.markDirty port sl pa).memCanonical := by
  simp [State.markDirty, h]

@[simp] theorem State.watchArrival_canonical_iff {k : CoreKey} {rd wr : Bool} {a n : Nat} :
    (s.watchArrival k rd wr a n).memCanonical ↔ s.memCanonical := by
  unfold State.watchArrival
  split
  · rfl
  · exact foldl_canonical_iff fun _ _ => by simp

@[simp] theorem State.freeBytes_canonical_iff {v : Nat} {undef : Nat → Bool} :
    (s.freeBytes v undef).2.memCanonical ↔ s.memCanonical := by
  unfold State.freeBytes
  refine foldl_snd_canonical_iff fun p i => ?_
  split <;> simp

@[simp] theorem State.freeLandedUnit_canonical {k : CoreKey} {m : MovedUnit} {mask : BitVec 8} (h : s.memCanonical) :
    (s.freeLandedUnit k m mask).memCanonical := by
  unfold State.freeLandedUnit
  split
  next v t e =>
  have ht : t.memCanonical := (canonical_iff_of_pair e State.freeBytes_canonical_iff).mpr h
  repeat' split
  · exact ht
  · exact State.markDirty_canonical (memWrite_wf _ _ _ _ ht)
  · exact ht
  · exact State.modCore_canonical_iff.mpr ht

@[simp] theorem State.meetLanded_canonical {l : List Known} {c : Core} {space a n : Nat} (h : s.memCanonical) :
    (s.meetLanded l c space a n).memCanonical := by
  unfold State.meetLanded
  exact foldl_canonical (fun _ _ hu => State.freeLandedUnit_canonical hu) h

@[simp] theorem State.numberWrite_canonical_iff {w : Writer} {x : Stain} :
    (s.numberWrite w x).memCanonical ↔ s.memCanonical := by
  unfold State.numberWrite
  repeat' split
  all_goals simp

@[simp] theorem State.noteWrite_canonical {w : Writer} {space a n : Nat} (h : s.memCanonical) :
    (s.noteWrite w space a n).memCanonical := by
  have hf {l : List Core} {k : List Known} : (l.foldl (fun (u : State) c => u.meetLanded k c space a n) s).memCanonical :=
    foldl_canonical (fun _ _ hu => State.meetLanded_canonical hu) h
  simp [State.noteWrite, hf]

@[simp] theorem State.noteRead_canonical_iff {space a n : Nat} : (s.noteRead space a n).memCanonical ↔ s.memCanonical :=
  State.canonical_iff_of_mem (State.noteRead_mem s space a n)

@[simp] theorem State.learn_canonical_iff {k : CoreKey} {t : Fin 8} {l : List Known} :
    (s.learn k t l).memCanonical ↔ s.memCanonical :=
  State.canonical_iff_of_mem (State.learn_mem s k t l)

@[simp] theorem State.acquire_canonical_iff {k : CoreKey} {t : Fin 8} {loc phase : Nat} :
    (s.acquire k t loc phase).memCanonical ↔ s.memCanonical :=
  State.canonical_iff_of_mem (State.acquire_mem s k t loc phase)

@[simp] theorem State.publish_canonical_iff {k : CoreKey} {by' : List Known} {e : Nat} :
    (s.publish k by' e).memCanonical ↔ s.memCanonical := by
  simp [State.publish]

@[simp] theorem State.share_canonical_iff {k : CoreKey} {t : Fin 8} : (s.share k t).memCanonical ↔ s.memCanonical :=
  State.canonical_iff_of_mem (State.share_mem s k t)

@[simp] theorem State.passFences_canonical_iff {k : CoreKey} {slot : Fin 8} {id : Nat} {l : List Known} :
    (s.passFences k slot id l).memCanonical ↔ s.memCanonical := by
  simp [State.passFences]

@[simp] theorem State.forget_canonical_iff : s.forget.memCanonical ↔ s.memCanonical := by simp [State.forget]

@[simp] theorem State.physWrite_canonical {w : Writer} {port : Fin 10} {sl : Fin 8} {pa n v : Nat} (h : s.memCanonical) :
    (s.physWrite w port sl pa n v).memCanonical := by
  unfold State.physWrite
  split
  · exact h
  · exact State.noteWrite_canonical (State.markDirty_canonical (memWrite_wf _ _ _ _ h))

@[simp] theorem State.padWrite_canonical {w : Writer} {k : CoreKey} {a n v : Nat} (h : s.memCanonical) :
    (s.padWrite w k a n v).memCanonical := by
  simp [State.padWrite, h]

@[simp] theorem State.padChange_canonical {w : Writer} {k : CoreKey} {a n v : Nat} (h : s.memCanonical) :
    (s.padChange w k a n v).memCanonical := by
  simp [State.padChange, h]

end Sys2Proof.Machine
end

section
/-! ## Canonical memory under the bodies of the slot instructions -/

namespace Sys2Proof.Machine
open Sys2Proof

variable {s : State}

@[simp] theorem slotBegin_canonical_iff {i : Instr} : (slotBegin i s).memCanonical ↔ s.memCanonical := by
  rw [slotBegin_eq]
  exact State.canonical_iff_of_mem (State.begun_mem s i)

/-- A bundle slot leaves canonical memory if its effect does: a trap or a false guard changes no memory. -/
theorem slotOp_canonical {i : Instr} {extra : State → List Trap} {body : State → State}
    (hb : ∀ u : State, u.memCanonical → (body u).memCanonical) (h : s.memCanonical) :
    AnswersCanonical (.next (slotOp i s extra body)) := by
  rw [answersCanonical_next, slotOp]
  split
  · exact State.takeTrap_canonical_iff.mpr h
  · split
    · exact hb _ (slotBegin_canonical_iff.mpr h)
    · exact h

@[simp] theorem State.spStoreBy_canonical {t : Fin 8} {a n v : Nat} (h : s.memCanonical) :
    (s.spStoreBy t a n v).memCanonical := by
  simp [State.spStoreBy, h]

@[simp] theorem State.spStore_canonical {a n v : Nat} (h : s.memCanonical) : (s.spStore a n v).memCanonical := by
  simp [State.spStore, h]

@[simp] theorem State.clearCovered_canonical_iff {ranges : List (Nat × Nat)} :
    (s.clearCovered ranges).memCanonical ↔ s.memCanonical :=
  State.canonical_iff_of_mem (State.clearCovered_mem s ranges)

@[simp] theorem State.orFlags_canonical_iff {c : Classes} : (s.orFlags c).memCanonical ↔ s.memCanonical :=
  State.canonical_iff_of_mem (State.orFlags_mem s c)

@[simp] theorem State.sendFlight_canonical_iff {kind : FlightKind} {dst order : Nat} :
    (s.sendFlight kind dst order).memCanonical ↔ s.memCanonical := by
  simp [State.sendFlight]

@[simp] theorem State.sendAccess_canonical_iff {op : RemoteOp} {dst order : Nat} {pend : Option Nat} :
    (s.sendAccess op dst order pend).memCanonical ↔ s.memCanonical := by
  simp [State.sendAccess]

@[simp] theorem State.storeLanes_canonical {g : Quad} {lanes : List (Lane × Nat)} (h : s.memCanonical) :
    (s.storeLanes g lanes).memCanonical := by
  unfold State.storeLanes
  exact foldl_canonical (fun _ _ hu => State.sendAccess_canonical_iff.mpr hu)
    (State.clearCovered_canonical_iff.mpr (foldl_canonical (fun _ _ hu => State.spStore_canonical hu) h))

@[simp] theorem State.startReply_canonical_iff {d : SReg} {local' : Option (Word × Option Nat × Classes)} :
    (s.startReply d local').2.memCanonical ↔ s.memCanonical := by
  simp only [State.startReply]
  repeat' split
  all_goals simp

@[simp] theorem State.spWrites_canonical {ws : Writes} (h : s.memCanonical) : (s.spWrites ws).memCanonical := by
  unfold State.spWrites
  exact foldl_canonical (fun _ _ hu => State.spStore_canonical hu) h

@[simp] theorem State.writeCtl_canonical_iff {n : Nat} {v : Word} : (s.writeCtl n v).memCanonical ↔ s.memCanonical := by
  simp [State.writeCtl]

@[simp] theorem State.mailPair_canonical_iff {d : SReg} : (s.mailPair d).memCanonical ↔ s.memCanonical := by
  unfold State.mailPair
  split <;> simp

@[simp] theorem State.sendWindow_canonical_iff {c : Core} {r : Record} {dst : Nat} {seq : Byte} {data : Word}
    {handle : Option (BitVec 24)} {issue sent order : Nat} :
    (s.sendWindow c r dst seq data handle issue sent order).memCanonical ↔ s.memCanonical := by
  simp [State.sendWindow]

@[simp] theorem State.leaveBy_canonical_iff {hub : Nat} {pkg : Nat} {item : FabricItem} :
    (s.leaveBy hub pkg item).memCanonical ↔ s.memCanonical := by
  simp [State.leaveBy]

@[simp] theorem State.goto_canonical_iff {pc : Pc} : (s.goto pc).memCanonical ↔ s.memCanonical :=
  State.canonical_iff_of_mem (State.goto_mem s pc)

@[simp] theorem State.markDead_canonical_iff : s.markDead.memCanonical ↔ s.memCanonical :=
  State.canonical_iff_of_mem (State.markDead_mem s)

@[simp] theorem State.callTo_canonical_iff {t : Pc} : (s.callTo t).memCanonical ↔ s.memCanonical := by simp [State.callTo]

@[simp] theorem State.loopTo_canonical_iff {imm : BitVec 36} : (s.loopTo imm).memCanonical ↔ s.memCanonical := by
  simp [State.loopTo]

@[simp] theorem State.spawn_canonical_iff {d a : SReg} {entry : Pc} {u : Fin 8} :
    (s.spawn d a entry u).memCanonical ↔ s.memCanonical := by
  simp [State.spawn]

@[simp] theorem State.eret_canonical_iff : s.eret.memCanonical ↔ s.memCanonical := by simp [State.eret]

@[simp] theorem State.wireArrive_canonical_iff {sc : WireScope} {op : WireOp} {payload : Option Word} {d : Option SReg} :
    (s.wireArrive sc op payload d).memCanonical ↔ s.memCanonical := by
  simp only [State.wireArrive]
  repeat' split
  all_goals simp

end Sys2Proof.Machine
end

section
/-! ## Canonical memory under the pipeline's, the network's and the walker's steps -/

namespace Sys2Proof.Machine
open Sys2Proof

variable {s : State}

theorem State.onCore_canonical {k : CoreKey} {f : State → State} (hf : ∀ u : State, u.memCanonical → (f u).memCanonical)
    (h : s.memCanonical) : AnswersCanonical (.next (s.onCore k f)) := by
  rw [answersCanonical_next, State.onCore]
  split
  · exact hf _ (State.focus_canonical_iff.mpr h)
  · exact h

@[simp] theorem State.modSlot_canonical_iff {t : Fin 8} {f : Thread → Thread} :
    (s.modSlot t f).memCanonical ↔ s.memCanonical :=
  State.canonical_iff_of_mem (State.modSlot_mem s t f)

@[simp] theorem State.putVector_canonical_iff {t : Fin 8} {q : VReg} {v mask : VWord} :
    (s.putVector t q v mask).memCanonical ↔ s.memCanonical :=
  State.canonical_iff_of_mem (State.putVector_mem s t q v mask)

@[simp] theorem State.writeResult_canonical_iff {t : Fin 8} {p : Pend} :
    (s.writeResult t p).memCanonical ↔ s.memCanonical := by
  unfold State.writeResult
  split <;> simp

@[simp] theorem execLongResultReady_canonical {c : CoreKey} {t : Fin 8} (h : s.memCanonical) :
    AnswersCanonical (execLongResultReady c t s) :=
  State.onCore_canonical (fun _ hu => State.modSlot_canonical_iff.mpr
    (foldl_canonical (fun _ _ hv => State.writeResult_canonical_iff.mpr hv) hu)) h

@[simp] theorem State.trapEntry_canonical_iff {t : Fin 8} {r : Trap} {pc next : Pc} :
    (s.trapEntry t r pc next).memCanonical ↔ s.memCanonical := by
  simp [State.trapEntry]

@[simp] theorem execDeferredTrap_canonical {c : CoreKey} {t : Fin 8} (h : s.memCanonical) :
    AnswersCanonical (execDeferredTrap c t s) := by
  refine State.onCore_canonical (fun u hu => ?_) h
  dsimp only
  split <;> simp [hu]

@[simp] theorem execHoldRelease_canonical {c : CoreKey} {t : Fin 8} (h : s.memCanonical) :
    AnswersCanonical (execHoldRelease c t s) :=
  State.onCore_canonical (fun _ hu => by simp [hu]) h

@[simp] theorem State.stayWaiting_canonical_iff {t : Fin 8} {a : Word} :
    (s.stayWaiting t a).memCanonical ↔ s.memCanonical := by
  simp [State.stayWaiting]

@[simp] theorem State.evalWait_canonical {c : CoreKey} {t : Fin 8} {x : Nat} (h : s.memCanonical) :
    (s.evalWait c t x).memCanonical := by
  unfold State.evalWait
  repeat' split
  all_goals simp [h]

@[simp] theorem execWaitRetry_canonical {c : CoreKey} {t : Fin 8} (h : s.memCanonical) :
    AnswersCanonical (execWaitRetry c t s) :=
  State.onCore_canonical (fun _ hu => State.evalWait_canonical hu) h

@[simp] theorem execRecvRetry_canonical {c : CoreKey} {t : Fin 8} (h : s.memCanonical) :
    AnswersCanonical (execRecvRetry c t s) := by
  refine State.onCore_canonical (fun u hu => ?_) h
  dsimp only
  repeat' split
  all_goals simp [hu]

@[simp] theorem execRecvtDeadline_canonical {c : CoreKey} {t : Fin 8} (h : s.memCanonical) :
    AnswersCanonical (execRecvtDeadline c t s) := by
  refine State.onCore_canonical (fun u hu => ?_) h
  split <;> simp [hu]

@[simp] theorem execParkWake_canonical {c : CoreKey} {t : Fin 8} (h : s.memCanonical) :
    AnswersCanonical (execParkWake c t s) :=
  State.onCore_canonical (fun _ hu => by simp [hu]) h

@[simp] theorem execTampRelease_canonical {c : CoreKey} {t : Fin 8} (h : s.memCanonical) :
    AnswersCanonical (execTampRelease c t s) := by
  refine State.onCore_canonical (fun u hu => ?_) h
  split <;> simp [hu]

@[simp] theorem execWaittReached_canonical {c : CoreKey} {t : Fin 8} (h : s.memCanonical) :
    AnswersCanonical (execWaittReached c t s) :=
  State.onCore_canonical (fun _ hu => by simp [hu]) h

@[simp] theorem State.endWire_canonical_iff {ep : Nat} {k : CoreKey} {t : Fin 8} {v : Option Word} {r : Option Trap} :
    (s.endWire ep k t v r).memCanonical ↔ s.memCanonical := by
  simp [State.endWire]

@[simp] theorem execWireRelease_canonical {ep : Nat} (h : s.memCanonical) : AnswersCanonical (execWireRelease ep s) := by
  simp only [execWireRelease, answersCanonical_next]
  repeat' split
  · exact h
  · exact h
  · exact h
  · exact State.mk_canonical_iff.mpr (foldl_canonical (fun _ _ hu => State.endWire_canonical_iff.mpr hu) h)
  · exact h

@[simp] theorem execWiretoExpiry_canonical {ep : Nat} (h : s.memCanonical) : AnswersCanonical (execWiretoExpiry ep s) := by
  rw [execWiretoExpiry, answersCanonical_next]
  repeat' split
  · exact h
  · exact State.mk_canonical_iff.mpr (foldl_canonical (fun _ _ hu => State.endWire_canonical_iff.mpr hu) h)
  · exact h

@[simp] theorem State.seqWrite_canonical {k : CoreKey} {a n v : Nat} (h : s.memCanonical) :
    (s.seqWrite k a n v).memCanonical := by
  simp [State.seqWrite, h]

@[simp] theorem State.tablePost_canonical_iff {k : CoreKey} {hdr status offset : Nat} :
    (s.tablePost k hdr status offset).memCanonical ↔ s.memCanonical := by
  unfold State.tablePost
  split <;> simp

@[simp] theorem State.fire_canonical {hdr : Nat} {b : Word} (h : s.memCanonical) : (s.fire hdr b).memCanonical := by
  simp only [State.fire]
  repeat' split
  all_goals simp [h]

@[simp] theorem State.linkPhase_canonical_iff {d : Fin 10} : (s.linkPhase d).memCanonical ↔ s.memCanonical := by
  simp [State.linkPhase]

@[simp] theorem State.sendReply_canonical_iff {f : Flight} {slot : Fin 8} {pend : Nat} {v : Word} {poison : Option Nat}
    {cls : Classes} {x : Nat} : (s.sendReply f slot pend v poison cls x).memCanonical ↔ s.memCanonical := by
  simp [State.sendReply]

/-- What a remote access writes, a word or a change of some bytes at a time. -/
theorem remoteWrites_canonical {w : Writer} {k : CoreKey} {ws : Writes} (h : s.memCanonical) :
    (ws.foldl (fun (s : State) x => if x.2.1 = 8 then s.padWrite w k x.1 8 x.2.2 else s.padChange w k x.1 x.2.1 x.2.2)
      s).memCanonical :=
  foldl_canonical (fun _ _ hu => by simp [hu]) h

@[simp] theorem State.performAccess_canonical {f : Flight} {op : RemoteOp} {slot : Fin 8} {pend : Option Nat} {x : Nat}
    (h : s.memCanonical) : (s.performAccess f op slot pend x).memCanonical := by
  simp only [State.performAccess]
  split
  · exact h
  next c _ =>
  cases op with
  | store => simp [h]
  | nibble => simp [h]
  | load =>
    dsimp only
    repeat' split
    all_goals simp [h]
  | atomic =>
    dsimp only
    repeat' split
    all_goals simp [h]
  | qpub => simp [remoteWrites_canonical h]
  | depdec loc => cases e : depdecEntry c.sp loc (partSPB (s.recordOf f.ctx).part) <;> simp [e, remoteWrites_canonical h]
  | boarr => simp [remoteWrites_canonical h]

@[simp] theorem State.dropFlight_canonical_iff {id : Nat} : (s.dropFlight id).memCanonical ↔ s.memCanonical :=
  State.canonical_iff_of_mem (State.dropFlight_mem s id)

@[simp] theorem State.holdFlight_canonical_iff {id : Nat} : (s.holdFlight id).memCanonical ↔ s.memCanonical :=
  State.canonical_iff_of_mem (State.holdFlight_mem s id)

@[simp] theorem State.accessArrives_canonical {f : Flight} (h : s.memCanonical) : (s.accessArrives f).memCanonical := by
  unfold State.accessArrives
  split <;> simp [h]

@[simp] theorem State.sendBack_canonical_iff {id x : Nat} : (s.sendBack id x).memCanonical ↔ s.memCanonical := by
  simp [State.sendBack]

@[simp] theorem execRemoteAccessArrival_canonical {id : Nat} (h : s.memCanonical) :
    AnswersCanonical (execRemoteAccessArrival id s) := by
  unfold execRemoteAccessArrival
  split <;> simp [h]

@[simp] theorem execRemoteReplyArrival_canonical {id : Nat} (h : s.memCanonical) :
    AnswersCanonical (execRemoteReplyArrival id s) := by
  unfold execRemoteReplyArrival
  repeat' split
  all_goals simp [h]

@[simp] theorem State.wordLands_canonical_iff {f : Flight} : (s.wordLands f).memCanonical ↔ s.memCanonical := by
  unfold State.wordLands
  split <;> simp

@[simp] theorem execScheduledWordLanding_canonical {id : Nat} (h : s.memCanonical) :
    AnswersCanonical (execScheduledWordLanding id s) := by
  unfold execScheduledWordLanding
  split <;> simp [h]

@[simp] theorem State.windowPhase_canonical_iff {d : Fin 10} : (s.windowPhase d).memCanonical ↔ s.memCanonical := by
  simp [State.windowPhase]

@[simp] theorem State.dropWindow_canonical_iff {id : Nat} : (s.dropWindow id).memCanonical ↔ s.memCanonical :=
  State.canonical_iff_of_mem (State.dropWindow_mem s id)

@[simp] theorem State.windowLands_canonical_iff {w : WindowWord} : (s.windowLands w).memCanonical ↔ s.memCanonical := by
  simp [State.windowLands]

@[simp] theorem execWindowWordLanding_canonical {id : Nat} (h : s.memCanonical) :
    AnswersCanonical (execWindowWordLanding id s) := by
  unfold execWindowWordLanding
  repeat' split
  all_goals simp [h]

@[simp] theorem execHubWordArrival_canonical {hub : Fin 2} {port : Fin 16} {item : FabricItem} (h : s.memCanonical) :
    AnswersCanonical (execHubWordArrival hub port item s) := by
  unfold execHubWordArrival
  refine answersCanonical_next.mpr ?_
  dsimp only
  split
  · exact h
  · split
    · split <;> simp [h]
    · exact State.sendEvent_canonical_iff.mpr (State.modFirm_canonical_iff.mpr h)

@[simp] theorem execActiveMessageArrival_canonical {id : Nat} (h : s.memCanonical) :
    AnswersCanonical (execActiveMessageArrival id s) := by
  unfold execActiveMessageArrival
  split <;> simp [h]

@[simp] theorem State.noteWalk_canonical_iff {sl : Fin 8} {asid va : Nat} :
    (s.noteWalk sl asid va).memCanonical ↔ s.memCanonical := by
  unfold State.noteWalk
  exact foldl_canonical_iff fun _ _ => State.noteRead_canonical_iff

@[simp] theorem State.translate_canonical_iff {d : Fin 10} {sl : Fin 8} {asid va : Nat} {write diag : Bool} :
    (s.translate d sl asid va write diag).2.memCanonical ↔ s.memCanonical := by
  simp only [State.translate]
  repeat' split
  all_goals simp

@[simp] theorem State.modReq_canonical_iff {k : CoreKey} {id : Nat} {f : Request → Request} :
    (s.modReq k id f).memCanonical ↔ s.memCanonical :=
  State.canonical_iff_of_mem (State.modReq_mem s k id f)

@[simp] theorem State.unpark_canonical_iff {d : Fin 10} {p : Parked} : (s.unpark d p).memCanonical ↔ s.memCanonical := by
  simp [State.unpark]

@[simp] theorem State.park_canonical_iff {d : Fin 10} {p : Parked} : (s.park d p).memCanonical ↔ s.memCanonical := by
  simp [State.park]

@[simp] theorem State.noteFailure_canonical {k : CoreKey} {r : Request} {status idx off : Nat} (h : s.memCanonical) :
    (s.noteFailure k r status idx off).memCanonical := by
  unfold State.noteFailure
  split
  · exact h
  · refine State.modReq_canonical_iff.mpr ?_
    split
    · exact foldl_canonical (fun _ _ hu => by simp [hu]) h
    · exact h

@[simp] theorem State.failReq_canonical {k : CoreKey} {id status idx off : Nat} (h : s.memCanonical) :
    (s.failReq k id status idx off).memCanonical := by
  unfold State.failReq
  split <;> simp [h]

@[simp] theorem State.refuseUnit_canonical {d : Fin 10} {p : Parked} (h : s.memCanonical) :
    (s.refuseUnit d p).memCanonical := by
  simp [State.refuseUnit, h]

@[simp] theorem State.logFault_canonical {sl : Fin 8} {d : Fin 10} {p : Parked} {kind : WalkFault} {level answer : Nat}
    (h : s.memCanonical) : (s.logFault sl d p kind level answer).2.memCanonical := by
  simp [State.logFault, h]

@[simp] theorem State.translatePieces_canonical_iff {d : Fin 10} {sl : Fin 8} {asid : Nat} {write diag waited : Bool}
    {l : List (Nat × Nat × Nat)} : (s.translatePieces d sl asid write diag waited l).2.memCanonical ↔ s.memCanonical := by
  induction l generalizing s with
  | nil => rfl
  | cons x l ih =>
    simp only [State.translatePieces]
    split
    next e => exact ih.trans (canonical_iff_of_pair e State.translate_canonical_iff)
    next e => exact canonical_iff_of_pair e State.translate_canonical_iff

@[simp] theorem State.takePieces_canonical_iff {k : Core} {r : Request} {pieces : List (Nat × Nat × Nat)}
    {write waited : Bool} : (s.takePieces k r pieces write waited).memCanonical ↔ s.memCanonical := by
  simp only [State.takePieces]
  split
  · rfl
  · split
    next e => exact State.modReq_canonical_iff.trans (canonical_iff_of_pair e State.translatePieces_canonical_iff)
    next e => exact (State.park_canonical_iff.trans State.newId_canonical_iff).trans
                (canonical_iff_of_pair e State.translatePieces_canonical_iff)

@[simp] theorem State.admitParked_canonical_iff {d : Fin 10} {p : Parked} {pa sz : Nat} :
    (s.admitParked d p pa sz).memCanonical ↔ s.memCanonical := by
  simp only [State.admitParked]
  repeat' split
  all_goals simp

@[simp] theorem State.serve_canonical {d : Fin 10} {p : Parked} (h : s.memCanonical) : (s.serve d p).memCanonical := by
  simp only [State.serve]
  repeat' split
  all_goals simp [h]

@[simp] theorem execFaultService_canonical {die : Fin 10} (h : s.memCanonical) :
    AnswersCanonical (execFaultService die s) := by
  simp only [execFaultService]
  repeat' split
  all_goals simp [h]

@[simp] theorem State.answerUnit_canonical {sl : Fin 8} {d : Fin 10} {p : Parked} {seq : Nat} (h : s.memCanonical) :
    (s.answerUnit sl d p seq).memCanonical := by
  unfold State.answerUnit
  split <;> simp [h]

@[simp] theorem execFaultAnswerPoll_canonical {slice : Fin 8} (h : s.memCanonical) :
    AnswersCanonical (execFaultAnswerPoll slice s) :=
  answersCanonical_next.mpr (foldl_canonical (fun _ _ hu => State.answerUnit_canonical hu) h)

@[simp] theorem execFaultTimeout_canonical {slice : Fin 8} (h : s.memCanonical) :
    AnswersCanonical (execFaultTimeout slice s) :=
  answersCanonical_next.mpr (foldl_canonical (fun _ _ hu => by simp [hu]) h)

@[simp] theorem State.shootdown_canonical_iff {sl : Fin 8} {c : Nat} : (s.shootdown sl c).memCanonical ↔ s.memCanonical := by
  unfold State.shootdown
  exact State.modSlice_canonical_iff.trans ((foldl_canonical_iff fun _ _ => State.modCores_canonical_iff).trans
    (foldl_canonical_iff fun _ _ => State.modDie_canonical_iff))

@[simp] theorem State.shootdownIf_canonical_iff {sl : Fin 8} {p : Nat → Bool} :
    (s.shootdownIf sl p).memCanonical ↔ s.memCanonical := by
  unfold State.shootdownIf
  split <;> simp

@[simp] theorem execShootdownPages_canonical {slice : Fin 8} (h : s.memCanonical) :
    AnswersCanonical (execShootdownPages slice s) := by
  simp [execShootdownPages, h]

@[simp] theorem execShootdownAsid_canonical {slice : Fin 8} (h : s.memCanonical) :
    AnswersCanonical (execShootdownAsid slice s) := by
  simp [execShootdownAsid, h]

@[simp] theorem execShootdownSlice_canonical {slice : Fin 8} (h : s.memCanonical) :
    AnswersCanonical (execShootdownSlice slice s) := by
  simp [execShootdownSlice, h]

@[simp] theorem execShootdownAck_canonical {slice : Fin 8} (h : s.memCanonical) :
    AnswersCanonical (execShootdownAck slice s) := by
  simp [execShootdownAck, h]

end Sys2Proof.Machine
end

section
/-! ## Canonical memory under the engine's, the trace's and the firmware's steps -/

namespace Sys2Proof.Machine
open Sys2Proof

variable {s : State}

@[simp] theorem execEngineRequestStart_canonical {c : CoreKey} (h : s.memCanonical) :
    AnswersCanonical (execEngineRequestStart c s) := by
  unfold execEngineRequestStart
  repeat' split
  all_goals simp [h]

@[simp] theorem State.writeUnit_canonical {k : Core} {r : Request} {counted : Option (CoreKey × Nat × Nat)} {d : Place}
    {v : Nat} {whole : Bool} (h : s.memCanonical) : (s.writeUnit k r counted d v whole).memCanonical := by
  unfold State.writeUnit
  split <;> simp [h]

@[simp] theorem State.countUnit_canonical {k c : CoreKey} {r : Request} (h : s.memCanonical) :
    (s.countUnit k c r).memCanonical := by
  unfold State.countUnit
  split
  · exact h
  · split
    · exact h
    · refine foldl_canonical (fun _ _ hu => State.padChange_canonical hu) ?_
      split <;> simp [h]

@[simp] theorem State.retireUnits_canonical_iff {k : CoreKey} {r : Request} {va : Option Nat} {write : Bool} :
    (s.retireUnits k r va write).memCanonical ↔ s.memCanonical := by
  unfold State.retireUnits
  repeat' split
  all_goals simp

@[simp] theorem State.readUnit_canonical_iff {k : Core} {r : Request} {p : Place} :
    (s.readUnit k r p).memCanonical ↔ s.memCanonical := by
  unfold State.readUnit
  repeat' split
  all_goals simp

@[simp] theorem State.overrides_canonical_iff {r : Request} {space a : Nat} :
    (s.overrides r space a).2.memCanonical ↔ s.memCanonical := by
  unfold State.overrides
  split <;> simp

@[simp] theorem State.landUnit_canonical {k : Core} {r : Request} {u : ReadUnit} {d : Place} (h : s.memCanonical) :
    (s.landUnit k r u d).memCanonical := by
  simp [State.landUnit, h]

@[simp] theorem State.takeElement_canonical {k : Core} {r : Request} (h : s.memCanonical) :
    (s.takeElement k r).memCanonical := by
  simp only [State.takeElement]
  repeat' split
  all_goals simp [h]

@[simp] theorem State.engineStep_canonical {k : Core} {r : Request} {z0 : EngineStep} (h : s.memCanonical) :
    (s.engineStep k r z0).memCanonical := by
  simp only [State.engineStep]
  repeat' split
  all_goals simp [h]

@[simp] theorem State.stepRequest_canonical {k : Core} {r : Request} {p : EngineStep → Bool} (h : s.memCanonical) :
    (s.stepRequest k r p).memCanonical := by
  simp only [State.stepRequest]
  repeat' split
  all_goals simp [h]

@[simp] theorem execEngineUnitAdmission_canonical {c : CoreKey} {req : Nat} (h : s.memCanonical) :
    AnswersCanonical (execEngineUnitAdmission c req s) := by
  unfold execEngineUnitAdmission
  split <;> simp [h]

@[simp] theorem execEngineUnitAccess_canonical {c : CoreKey} {req : Nat} (h : s.memCanonical) :
    AnswersCanonical (execEngineUnitAccess c req s) := by
  unfold execEngineUnitAccess
  split <;> simp [h]

@[simp] theorem execEngineSublist_canonical {c : CoreKey} {req : Nat} (h : s.memCanonical) :
    AnswersCanonical (execEngineSublist c req s) := by
  unfold execEngineSublist
  split <;> simp [h]

@[simp] theorem execEngineRequestComplete_canonical {c : CoreKey} {req : Nat} (h : s.memCanonical) :
    AnswersCanonical (execEngineRequestComplete c req s) := by
  unfold execEngineRequestComplete
  split <;> simp [h]

@[simp] theorem execMailboxHeldPost_canonical {c : CoreKey} (h : s.memCanonical) :
    AnswersCanonical (execMailboxHeldPost c s) := by
  simp [execMailboxHeldPost, h]

@[simp] theorem State.putRecord_canonical {x : Session} {type reason asid dtick tick : Nat} {body : List Byte}
    (h : s.memCanonical) : (s.putRecord x type reason asid dtick tick body).2.memCanonical := by
  refine State.mk_canonical_iff.mpr ?_
  split
  · exact ringPut_wf _ _ _ _ h
  · exact h

@[simp] theorem State.setSession_canonical_iff {x : Session} : (s.setSession x).memCanonical ↔ s.memCanonical :=
  State.canonical_iff_of_mem (State.setSession_mem s x)

@[simp] theorem State.tracePulse_canonical {x : Session} {dtick tick : Nat} (h : s.memCanonical) :
    (s.tracePulse x dtick tick).memCanonical := by
  simp [State.tracePulse, h]

@[simp] theorem execTracePulse_canonical {session : Nat} (h : s.memCanonical) :
    AnswersCanonical (execTracePulse session s) := by
  unfold execTracePulse
  split <;> simp [h]

@[simp] theorem State.endSession_canonical {x : Session} {reason : Nat} (h : s.memCanonical) :
    (s.endSession x reason).memCanonical := by
  unfold State.endSession
  split <;> simp [h]

@[simp] theorem State.endSessions_canonical {p : Session → Bool} {reason : Nat} (h : s.memCanonical) :
    (s.endSessions p reason).memCanonical := by
  unfold State.endSessions
  exact foldl_canonical (fun _ _ hu => State.endSession_canonical hu) h

@[simp] theorem State.dropFrame_canonical_iff {f : Frame} : (s.dropFrame f).memCanonical ↔ s.memCanonical := by
  simp [State.dropFrame]

@[simp] theorem State.refuse_canonical_iff {f : Frame} {reason : Nat} :
    (s.refuse f reason).memCanonical ↔ s.memCanonical := by
  simp [State.refuse]

/-- A frame's step leaves canonical memory if its own effect does: a frame that is dropped or refused changes no memory. -/
theorem frameOp_canonical {k : FrameKind} {f : Frame} {body : State → State} (hb : (body s).memCanonical)
    (h : s.memCanonical) : AnswersCanonical (frameOp k f s body) := by
  simp [frameOp, h, hb]

@[simp] theorem State.keepMonitors_canonical_iff {c : Core} : (s.keepMonitors c).memCanonical ↔ s.memCanonical := by
  simp [State.keepMonitors]

@[simp] theorem State.removeCores_canonical_iff {p : Core → Bool} : (s.removeCores p).memCanonical ↔ s.memCanonical := by
  unfold State.removeCores
  exact State.mk_canonical_iff.trans (foldl_canonical_iff fun _ _ => State.keepMonitors_canonical_iff)

@[simp] theorem State.withdraw_canonical {d : Fin 10} {p : Parked} (h : s.memCanonical) : (s.withdraw d p).memCanonical := by
  unfold State.withdraw
  split <;> simp [h]

@[simp] theorem State.withdrawAll_canonical {ctx : Nat} (h : s.memCanonical) : (s.withdrawAll ctx).memCanonical := by
  unfold State.withdrawAll
  exact foldl_canonical (fun _ _ hu => foldl_canonical (fun _ _ hv => State.withdraw_canonical hv) hu) h

@[simp] theorem State.removeContext_canonical {ctx : Nat} (h : s.memCanonical) : (s.removeContext ctx).memCanonical := by
  unfold State.removeContext
  exact foldl_canonical (fun _ _ hu => State.modSlice_canonical_iff.mpr hu) (by simp [h])

@[simp] theorem State.destroyContext_canonical {ctx : Nat} (h : s.memCanonical) : (s.destroyContext ctx).memCanonical := by
  simp [State.destroyContext, h]

@[simp] theorem State.notify_canonical_iff {sl : Fin 8} {token : Nat} :
    (s.notify sl token).memCanonical ↔ s.memCanonical := by
  simp [State.notify]

@[simp] theorem State.completeContext_canonical {c : Context} (h : s.memCanonical) : (s.completeContext c).memCanonical := by
  simp [State.completeContext, h]

@[simp] theorem State.finishContext_canonical {c : Context} (h : s.memCanonical) : (s.finishContext c).memCanonical := by
  simp [State.finishContext, h]

@[simp] theorem State.tellPartners_canonical_iff {c : Context} : (s.tellPartners c).memCanonical ↔ s.memCanonical := by
  simp [State.tellPartners]

@[simp] theorem State.completeContexts_canonical {d : Fin 10} (h : s.memCanonical) :
    (s.completeContexts d).memCanonical := by
  unfold State.completeContexts
  refine foldl_canonical (fun u c hu => ?_) h
  simp [hu, State.pick]

@[simp] theorem State.endContext_canonical {ctx : Nat} (h : s.memCanonical) : (s.endContext ctx).memCanonical := by
  unfold State.endContext
  split <;> simp [h]

@[simp] theorem State.noteVirt_canonical_iff {sl : Fin 8} {asid : Nat} {diag : Bool} {k va n : Nat} :
    (s.noteVirt sl asid diag k va n).memCanonical ↔ s.memCanonical := by
  induction k generalizing s va n with
  | zero => rfl
  | succ k ih =>
    unfold State.noteVirt
    split
    · rfl
    · dsimp only
      split <;> simp [ih]

@[simp] theorem State.noteImage_canonical_iff {sl : Fin 8} {asid : Nat} {diag : Bool} {imgVa segVa : Nat} :
    (s.noteImage sl asid diag imgVa segVa).memCanonical ↔ s.memCanonical := by
  simp [State.noteImage]

@[simp] theorem State.enqueue_canonical_iff {r : Record} {o : Origin} : (s.enqueue r o).memCanonical ↔ s.memCanonical := by
  simp [State.enqueue]

@[simp] theorem execLaunch_canonical {f : Frame} (h : s.memCanonical) : AnswersCanonical (execLaunch f s) :=
  frameOp_canonical (by split <;> simp [h]) h

@[simp] theorem execCreditExpiry_canonical {slice : Fin 8} (h : s.memCanonical) :
    AnswersCanonical (execCreditExpiry slice s) := by
  simp [execCreditExpiry, h]

@[simp] theorem State.answerPush_canonical_iff {k : CoreKey} {id : Nat} {w : Word} :
    (s.answerPush k id w).memCanonical ↔ s.memCanonical := by
  simp [State.answerPush]

@[simp] theorem State.dropLaunch_canonical_iff {o : Origin} : (s.dropLaunch o).memCanonical ↔ s.memCanonical := by
  unfold State.dropLaunch
  split <;> simp

@[simp] theorem execCancel_canonical {f : Frame} (h : s.memCanonical) : AnswersCanonical (execCancel f s) := by
  refine frameOp_canonical ?_ h
  dsimp only
  split
  · exact State.refuse_canonical_iff.mpr h
  · exact State.respond_canonical_iff.mpr
      (foldl_canonical (fun _ _ hu => State.dropLaunch_canonical_iff.mpr hu) (State.modSlice_canonical_iff.mpr h))

@[simp] theorem State.checkPush_canonical_iff {x : CoreKey × Nat × List Byte × Nat} :
    (s.checkPush x).memCanonical ↔ s.memCanonical := by
  unfold State.checkPush
  dsimp only
  split
  · exact State.answerPush_canonical_iff.trans State.noteImage_canonical_iff
  · exact State.enqueue_canonical_iff.trans State.noteImage_canonical_iff

@[simp] theorem State.takePushes_canonical_iff {sl : Fin 8} : (s.takePushes sl).memCanonical ↔ s.memCanonical := by
  unfold State.takePushes
  exact (foldl_canonical_iff fun _ _ => State.checkPush_canonical_iff).trans State.mk_canonical_iff

@[simp] theorem State.answerLaunch_canonical_iff {slice : Nat} {o : Origin} {num : Nat} :
    (s.answerLaunch slice o num).memCanonical ↔ s.memCanonical := by
  unfold State.answerLaunch
  split <;> simp

end Sys2Proof.Machine
end

section
/-! ## Canonical memory under the timetables, the placer and the preemption -/

namespace Sys2Proof.Machine
open Sys2Proof

variable {s : State}

@[simp] theorem State.freeTable_canonical_iff {k : CoreKey} {hdr : Nat} :
    (s.freeTable k hdr).memCanonical ↔ s.memCanonical := by
  simp [State.freeTable]

@[simp] theorem execCarmCheckComplete_canonical {c : CoreKey} {hdr : Nat} (h : s.memCanonical) :
    AnswersCanonical (execCarmCheckComplete c hdr s) := by
  simp only [execCarmCheckComplete]
  repeat' split
  all_goals simp [h]

@[simp] theorem State.modTable_canonical_iff {k : CoreKey} {hdr : Nat} {f : Timetable → Timetable} :
    (s.modTable k hdr f).memCanonical ↔ s.memCanonical :=
  State.canonical_iff_of_mem (State.modTable_mem s k hdr f)

@[simp] theorem State.tableCount_canonical {k : CoreKey} {z : Nat} (h : s.memCanonical) :
    (s.tableCount k z).memCanonical := by
  unfold State.tableCount
  split
  · exact h
  · exact foldl_canonical (fun _ _ hu => State.seqWrite_canonical hu) h

@[simp] theorem State.haltRun_canonical {k : CoreKey} {hdr h off : Nat} (hs : s.memCanonical) :
    (s.haltRun k hdr h off).memCanonical := by
  simp [State.haltRun, hs]

@[simp] theorem State.stopRun_canonical {k : CoreKey} {hdr off : Nat} (h : s.memCanonical) :
    (s.stopRun k hdr off).memCanonical := by
  unfold State.stopRun
  split <;> simp [h]

@[simp] theorem State.restride_canonical {k : CoreKey} {hdr stride n i : Nat} (h : s.memCanonical) :
    (s.restride k hdr stride n i).memCanonical := by
  induction n generalizing s i with
  | zero => exact h
  | succ n ih =>
    unfold State.restride
    split
    · exact h
    · exact ih (State.seqWrite_canonical h)

@[simp] theorem State.completeRun_canonical {k : CoreKey} {t : Timetable} (h : s.memCanonical) :
    (s.completeRun k t).memCanonical := by
  unfold State.completeRun
  split
  · exact h
  · extract_lets z counted posted strided
    have hc : counted.memCanonical := by
      simp only [counted]
      split <;> simp [h]
    have hp : posted.memCanonical := by
      simp only [posted]
      split <;> simp [hc]
    have hs : strided.memCanonical := State.restride_canonical hp
    split
    · exact hs
    · extract_lets z'
      split
      · exact State.haltRun_canonical hs
      · exact State.modTable_canonical_iff.mpr (State.seqWrite_canonical hs)

@[simp] theorem State.entryDone_canonical {k : CoreKey} {hdr bytes : Nat} (h : s.memCanonical) :
    (s.entryDone k hdr bytes).memCanonical := by
  unfold State.entryDone
  split <;> simp [h]

@[simp] theorem State.putEntry_canonical {c : Core} {t : Timetable} {e : Nat} (h : s.memCanonical) :
    (s.putEntry c t e).memCanonical := by
  unfold State.putEntry
  exact State.entryDone_canonical (foldl_canonical (fun _ _ hu => State.sendWindow_canonical_iff.mpr hu) (by simp [h]))

@[simp] theorem execTimetablePut_canonical {c : CoreKey} {hdr : Nat} (h : s.memCanonical) :
    AnswersCanonical (execTimetablePut c hdr s) := by
  unfold execTimetablePut
  repeat' split
  all_goals simp [h]

@[simp] theorem State.takeWords_canonical {k : CoreKey} {hdr e n : Nat} (h : s.memCanonical) :
    (s.takeWords k hdr e n).memCanonical := by
  induction n generalizing s with
  | zero => exact h
  | succ n ih =>
    simp only [State.takeWords]
    split
    · exact h
    · split
      · split
        · exact h
        · exact ih (by simp [h])
      · exact h

@[simp] theorem State.takeEntry_canonical {c : Core} {t : Timetable} {e : Nat} (h : s.memCanonical) :
    (s.takeEntry c t e).memCanonical := by
  simp only [State.takeEntry]
  repeat' split
  all_goals simp [h]

@[simp] theorem execTimetableGet_canonical {c : CoreKey} {hdr : Nat} (h : s.memCanonical) :
    AnswersCanonical (execTimetableGet c hdr s) := by
  unfold execTimetableGet
  split <;> simp [h]

@[simp] theorem execTimetableAcc_canonical {c : CoreKey} {hdr : Nat} (h : s.memCanonical) :
    AnswersCanonical (execTimetableAcc c hdr s) := by
  unfold execTimetableAcc
  split <;> simp [h]

@[simp] theorem execTimetableEntryWake_canonical {c : CoreKey} {hdr : Nat} (h : s.memCanonical) :
    AnswersCanonical (execTimetableEntryWake c hdr s) := by
  unfold execTimetableEntryWake
  split <;> simp [h]

@[simp] theorem execChannelResponsePost_canonical {c : CoreKey} (h : s.memCanonical) :
    AnswersCanonical (execChannelResponsePost c s) := by
  simp [execChannelResponsePost, h]

@[simp] theorem State.clearKept_canonical_iff {c : Core} : (s.clearKept c).memCanonical ↔ s.memCanonical := by
  simp [State.clearKept]

@[simp] theorem State.startContext_canonical_iff {q : Queued} {ranks : List (Fin 10 × Nat × Nat)} :
    (s.startContext q ranks).memCanonical ↔ s.memCanonical := by
  simp only [State.startContext]
  exact State.answerLaunch_canonical_iff.trans ((foldl_canonical_iff fun _ _ => State.clearKept_canonical_iff).trans
    (State.mk_canonical_iff.trans State.pick_canonical_iff))

@[simp] theorem State.freezeVtick_canonical_iff {ctxs : List Nat} :
    (s.freezeVtick ctxs).2.memCanonical ↔ s.memCanonical := by
  simp [State.freezeVtick]

@[simp] theorem State.stopElastic_canonical_iff {ctx : Nat} : (s.stopElastic ctx).memCanonical ↔ s.memCanonical := by
  simp [State.stopElastic]

@[simp] theorem State.stopLater_canonical_iff {ctx : Nat} : (s.stopLater ctx).memCanonical ↔ s.memCanonical := by
  unfold State.stopLater
  split <;> simp

@[simp] theorem State.freezeTeam_canonical_iff {ctx b : Nat} : (s.freezeTeam ctx b).memCanonical ↔ s.memCanonical := by
  unfold State.freezeTeam
  split <;> simp

@[simp] theorem State.freezeOne_canonical_iff {ctx : Nat} : (s.freezeOne ctx).memCanonical ↔ s.memCanonical := by
  simp [State.freezeOne]

@[simp] theorem State.want_canonical_iff {ctx : Nat} {cells : List Nat} :
    (s.want ctx cells).memCanonical ↔ s.memCanonical := by
  simp [State.want]

@[simp] theorem State.dequeue_canonical_iff {q : Queued} : (s.dequeue q).memCanonical ↔ s.memCanonical := by
  simp [State.dequeue]

@[simp] theorem State.moveItems_canonical_iff {ctx : Nat} {f : Nat → Nat → Nat} :
    (s.moveItems ctx f).memCanonical ↔ s.memCanonical := by
  simp [State.moveItems]

@[simp] theorem State.replace_canonical_iff {ctx : Nat} {ranks : List (Fin 10 × Nat × Nat)} :
    (s.replace ctx ranks).memCanonical ↔ s.memCanonical := by
  simp [State.replace]

@[simp] theorem State.returnCores_canonical_iff {ctx : Nat} : (s.returnCores ctx).memCanonical ↔ s.memCanonical := by
  simp [State.returnCores]

theorem State.wants_canonical_iff {l : List (Nat × List Nat)} :
    (l.foldl (fun (u : State) w => u.want w.1 w.2) s).memCanonical ↔ s.memCanonical :=
  foldl_canonical_iff fun _ _ => State.want_canonical_iff

@[simp] theorem State.examine_canonical_iff {q : Queued} : (s.examine q).2.memCanonical ↔ s.memCanonical := by
  unfold State.examine
  dsimp only
  split
  · rfl
  · split
    · split
      · simp
      · split
        · simp
        · exact State.wants_canonical_iff.trans State.returnCores_canonical_iff
    · split
      · split <;> split <;> simp
      · split
        · rfl
        · exact State.wants_canonical_iff

@[simp] theorem State.examineAll_canonical_iff {l : List Queued} : (s.examineAll l).memCanonical ↔ s.memCanonical := by
  induction l generalizing s with
  | nil => rfl
  | cons q l ih =>
    unfold State.examineAll
    split
    next e => exact canonical_iff_of_pair e State.examine_canonical_iff
    next e => exact ih.trans (canonical_iff_of_pair e State.examine_canonical_iff)

@[simp] theorem execPlacerRun_canonical {slice : Fin 8} (h : s.memCanonical) : AnswersCanonical (execPlacerRun slice s) := by
  simp [execPlacerRun, h]

@[simp] theorem execFreezeBoundary_canonical {c : CoreKey} (h : s.memCanonical) :
    AnswersCanonical (execFreezeBoundary c s) := by
  unfold execFreezeBoundary
  split <;> simp [h]

@[simp] theorem State.teamFrozen_canonical_iff {ctx : Nat} : (s.teamFrozen ctx).memCanonical ↔ s.memCanonical := by
  simp [State.teamFrozen]

@[simp] theorem State.requeue_canonical_iff {ctx : Nat} : (s.requeue ctx).memCanonical ↔ s.memCanonical := by
  unfold State.requeue
  split <;> simp

@[simp] theorem State.giveBack_canonical_iff {ctx : Nat} : (s.giveBack ctx).memCanonical ↔ s.memCanonical := by
  simp [State.giveBack]

@[simp] theorem execQuiesce_canonical {ctx : Nat} (h : s.memCanonical) : AnswersCanonical (execQuiesce ctx s) := by
  unfold execQuiesce
  split <;> simp [h]

@[simp] theorem execElasticEviction_canonical {c : CoreKey} (h : s.memCanonical) :
    AnswersCanonical (execElasticEviction c s) := by
  unfold execElasticEviction
  split <;> simp [h]

@[simp] theorem State.gate_canonical_iff {c : CoreKey} : (s.gate c).memCanonical ↔ s.memCanonical := by
  unfold State.gate
  split <;> simp

@[simp] theorem execStreamOut_canonical {c : CoreKey} (h : s.memCanonical) : AnswersCanonical (execStreamOut c s) := by
  have hw {k : Core} : ((List.finRange 10).foldl (fun u d =>
      ((u.die d).faults.filter fun p => p.core = c).foldl (fun u p => u.withdraw d p) u) (s.keepMonitors k)).memCanonical :=
    foldl_canonical (fun _ _ hu => foldl_canonical (fun _ _ hv => State.withdraw_canonical hv) hu)
      (State.keepMonitors_canonical_iff.mpr h)
  rw [execStreamOut, answersCanonical_next]
  split <;> simp [h, hw]

@[simp] theorem State.restoreCore_canonical_iff {k : Core} : (s.restoreCore k).memCanonical ↔ s.memCanonical := by
  unfold State.restoreCore
  split <;> simp

@[simp] theorem State.streamIn_canonical_iff {d : Fin 10} : (s.streamIn d).memCanonical ↔ s.memCanonical := by
  unfold State.streamIn
  split
  · rfl
  · exact foldl_canonical_iff fun _ _ => State.restoreCore_canonical_iff

@[simp] theorem State.wakeCore_canonical {c : CoreKey} (h : s.memCanonical) : (s.wakeCore c).memCanonical := by
  unfold State.wakeCore
  refine foldl_canonical (fun u f hu => ?_) (State.modCore_canonical_iff.mpr h)
  split <;> simp [hu]

@[simp] theorem execCoreReturn_canonical {c : CoreKey} (h : s.memCanonical) : AnswersCanonical (execCoreReturn c s) := by
  simp only [execCoreReturn]
  repeat' split
  all_goals simp [h]

@[simp] theorem State.shiftTeam_canonical_iff {ctx : Nat} : (s.shiftTeam ctx).memCanonical ↔ s.memCanonical := by
  simp [State.shiftTeam]

@[simp] theorem execResume_canonical {ctx : Nat} (h : s.memCanonical) : AnswersCanonical (execResume ctx s) := by
  have hw {l : List Core} : (l.foldl (fun (u : State) k => u.wakeCore k.key) s).memCanonical :=
    foldl_canonical (fun _ _ hu => State.wakeCore_canonical hu) h
  rw [execResume, answersCanonical_next]
  split <;> simp [h, hw, State.pick]

@[simp] theorem execDebugStopRequest_canonical {c : CoreKey} {t : Fin 8} (h : s.memCanonical) :
    AnswersCanonical (execDebugStopRequest c t s) := by
  simp [execDebugStopRequest, h]

@[simp] theorem execDebugResume_canonical {c : CoreKey} {t : Fin 8} (h : s.memCanonical) :
    AnswersCanonical (execDebugResume c t s) := by
  simp [execDebugResume, h]

@[simp] theorem execServiceClockSwitch_canonical {hub : Fin 2} (h : s.memCanonical) :
    AnswersCanonical (execServiceClockSwitch hub s) := by
  simp [execServiceClockSwitch, h]

end Sys2Proof.Machine
end

section
/-! ## Canonical memory under frames, slices and starts -/

namespace Sys2Proof.Machine
open Sys2Proof

variable {s : State}

@[simp] theorem State.window_canonical_iff {f : Frame} {write : Bool} :
    (s.window f write).2.memCanonical ↔ s.memCanonical := by
  simp only [State.window]
  split
  · rfl
  · split
    · rfl
    · split
      next e => exact canonical_iff_of_pair e State.translate_canonical_iff
      next e => exact canonical_iff_of_pair e State.translate_canonical_iff

@[simp] theorem execMemrd_canonical {f : Frame} (h : s.memCanonical) : AnswersCanonical (execMemrd f s) := by
  refine frameOp_canonical ?_ h
  split
  next e => simp [canonical_iff_of_pair e State.window_canonical_iff, h]
  next e => simp [canonical_iff_of_pair e State.window_canonical_iff, h]
  next e => split <;> simp [canonical_iff_of_pair e State.window_canonical_iff, h]

@[simp] theorem State.windowWrite_canonical {sl : Fin 8} {a : Nat} {ws : List Word} (h : s.memCanonical) :
    (s.windowWrite sl a ws).memCanonical := by
  induction ws generalizing s a with
  | nil => exact h
  | cons w ws ih => exact ih (State.physWrite_canonical h)

@[simp] theorem execMemwr_canonical {f : Frame} (h : s.memCanonical) : AnswersCanonical (execMemwr f s) := by
  refine frameOp_canonical ?_ h
  split
  next e => simp [canonical_iff_of_pair e State.window_canonical_iff, h]
  next e => simp [canonical_iff_of_pair e State.window_canonical_iff, h]
  next e => simp [canonical_iff_of_pair e State.window_canonical_iff, h]

@[simp] theorem execBind_canonical {f : Frame} (h : s.memCanonical) : AnswersCanonical (execBind f s) :=
  frameOp_canonical (by simp [h]) h

@[simp] theorem execUnbind_canonical {f : Frame} (h : s.memCanonical) : AnswersCanonical (execUnbind f s) :=
  frameOp_canonical (by simp [h]) h

@[simp] theorem execDestroy_canonical {f : Frame} (h : s.memCanonical) : AnswersCanonical (execDestroy f s) :=
  frameOp_canonical (by split <;> simp [h]) h

@[simp] theorem execReset_canonical {f : Frame} (h : s.memCanonical) : AnswersCanonical (execReset f s) :=
  frameOp_canonical (by split <;> simp [h]) h

@[simp] theorem execTopen_canonical {f : Frame} (h : s.memCanonical) : AnswersCanonical (execTopen f s) := by
  refine frameOp_canonical ?_ h
  dsimp only
  split
  · exact State.respond_canonical_iff.mpr (State.mk_canonical_iff.mpr (State.newId_canonical_iff.mpr h))
  · exact State.refuse_canonical_iff.mpr h

@[simp] theorem execTclose_canonical {f : Frame} (h : s.memCanonical) : AnswersCanonical (execTclose f s) :=
  frameOp_canonical (by simp [h]) h

@[simp] theorem execTrdptr_canonical {f : Frame} (h : s.memCanonical) : AnswersCanonical (execTrdptr f s) :=
  frameOp_canonical (by split <;> simp [h]) h

@[simp] theorem execHostresp_canonical {f : Frame} (h : s.memCanonical) : AnswersCanonical (execHostresp f s) := by
  refine frameOp_canonical ?_ h
  dsimp only
  repeat' split
  all_goals simp [h]

@[simp] theorem execFlightrd_canonical {f : Frame} (h : s.memCanonical) : AnswersCanonical (execFlightrd f s) :=
  frameOp_canonical (by split <;> simp [h]) h

@[simp] theorem execAttest_canonical {f : Frame} (h : s.memCanonical) : AnswersCanonical (execAttest f s) :=
  frameOp_canonical (by simp [h]) h

@[simp] theorem execSlicecfg_canonical {f : Frame} (h : s.memCanonical) : AnswersCanonical (execSlicecfg f s) := by
  refine frameOp_canonical ?_ h
  dsimp only
  split
  · exact State.refuse_canonical_iff.mpr h
  · exact State.respond_canonical_iff.mpr (State.modSlice_canonical_iff.mpr
      (foldl_canonical (fun _ _ hu => State.modDie_canonical_iff.mpr hu) h))

@[simp] theorem State.endSnap_canonical {sl : Fin 8} (h : s.memCanonical) : (s.endSnap sl).memCanonical := by
  unfold State.endSnap
  split <;> simp [h]

@[simp] theorem State.flipPort_canonical {sl : Fin 8} (h : s.memCanonical) : (s.flipPort sl).memCanonical := by
  unfold State.flipPort
  split <;> simp [h]

@[simp] theorem execDirty_canonical {f : Frame} (h : s.memCanonical) : AnswersCanonical (execDirty f s) := by
  refine frameOp_canonical ?_ h
  have he := State.endSnap_canonical (sl := f.sliceNo) h
  dsimp only
  split
  · split
    · exact State.respond_canonical_iff.mpr
        (State.setTcb_canonical (State.setTcb_canonical (State.modSlice_canonical_iff.mpr he)))
    · exact State.refuse_canonical_iff.mpr h
  · exact State.respond_canonical_iff.mpr (State.setTcb_canonical he)

@[simp] theorem execDsnap_canonical {f : Frame} (h : s.memCanonical) : AnswersCanonical (execDsnap f s) :=
  frameOp_canonical (by simp [h]) h

@[simp] theorem execDigest_canonical {f : Frame} (h : s.memCanonical) : AnswersCanonical (execDigest f s) := by
  refine frameOp_canonical ?_ h
  dsimp only
  repeat' split
  all_goals simp [h]

@[simp] theorem State.stopTeams_canonical_iff {sl : Fin 8} : (s.stopTeams sl).memCanonical ↔ s.memCanonical := by
  simp only [State.stopTeams]
  exact (foldl_canonical_iff fun _ _ => by simp).trans State.freezeVtick_canonical_iff

@[simp] theorem execSlicestop_canonical {f : Frame} (h : s.memCanonical) : AnswersCanonical (execSlicestop f s) := by
  refine frameOp_canonical ?_ h
  dsimp only
  repeat' split
  all_goals simp [h]

@[simp] theorem State.runSlice_canonical_iff {sl : Fin 8} : (s.runSlice sl).memCanonical ↔ s.memCanonical := by
  unfold State.runSlice
  refine (foldl_canonical_iff fun u c => ?_).trans
    (State.modSlice_canonical_iff.trans (foldl_canonical_iff fun _ _ => State.modCtx_canonical_iff))
  dsimp only
  repeat' split
  all_goals simp

@[simp] theorem State.settleCopies_canonical_iff {sl : Fin 8} : (s.settleCopies sl).memCanonical ↔ s.memCanonical := by
  simp [State.settleCopies]

@[simp] theorem State.finishStop_canonical {sl : Fin 8} (h : s.memCanonical) : (s.finishStop sl).memCanonical := by
  have hp {u : State} {a : Nat} {l : List Byte} (hu : u.memCanonical) : Memory.wf (memPut u.mem a l) := memPut_wf _ _ _ hu
  unfold State.finishStop
  split <;> simp [h, hp]

@[simp] theorem State.endStreams_canonical {sl : Fin 8} (h : s.memCanonical) : (s.endStreams sl).memCanonical := by
  simp [State.endStreams, h]

@[simp] theorem State.bringIn_canonical {sl : Fin 8} {img : SliceImage} (h : s.memCanonical) :
    (s.bringIn sl img).memCanonical := by
  unfold State.bringIn
  exact foldl_canonical (fun _ _ hu => State.setTcb_canonical hu) (by simp [h])

theorem placeTeams_canonical_iff {ctxs : List Context} {s u : State} (e : placeTeams ctxs s = some u) :
    u.memCanonical ↔ s.memCanonical := by
  induction ctxs generalizing s with
  | nil =>
    cases e
    rfl
  | cons c l ih =>
    unfold placeTeams at e
    split at e
    · simpa using ih e
    · cases e

@[simp] theorem execSliceload_canonical {f : Frame} (h : s.memCanonical) : AnswersCanonical (execSliceload f s) := by
  refine frameOp_canonical ?_ h
  dsimp only
  split
  · exact State.refuse_canonical_iff.mpr h
  · split
    · exact State.refuse_canonical_iff.mpr h
    · repeat' split
      · exact State.refuse_canonical_iff.mpr h
      · exact State.refuse_canonical_iff.mpr h
      · exact State.refuse_canonical_iff.mpr h
      · exact State.refuse_canonical_iff.mpr h
      next e => exact State.respond_canonical_iff.mpr ((placeTeams_canonical_iff e).mpr (State.bringIn_canonical h))
      · exact State.refuse_canonical_iff.mpr h

@[simp] theorem execSlicerun_canonical {f : Frame} (h : s.memCanonical) : AnswersCanonical (execSlicerun f s) :=
  frameOp_canonical (by simp [h]) h

@[simp] theorem execSliceclear_canonical {f : Frame} (h : s.memCanonical) : AnswersCanonical (execSliceclear f s) := by
  refine frameOp_canonical ?_ h
  dsimp only
  split
  · exact State.respond_canonical_iff.mpr (State.setTcb_canonical (State.modSlice_canonical_iff.mpr
      (foldl_canonical (fun _ _ hu => State.destroyContext_canonical hu) h)))
  · exact State.refuse_canonical_iff.mpr h

@[simp] theorem execThermalLimit_canonical (h : s.memCanonical) : AnswersCanonical (execThermalLimit s) := by
  simp [execThermalLimit, h]

@[simp] theorem execThermalCritical_canonical (h : s.memCanonical) : AnswersCanonical (execThermalCritical s) :=
  answersCanonical_next.mpr (foldl_canonical (fun _ _ hu => by simp [hu]) (by simp [h]))

@[simp] theorem execThermalClear_canonical (h : s.memCanonical) : AnswersCanonical (execThermalClear s) :=
  answersCanonical_next.mpr (foldl_canonical (fun _ _ hu => by simp [hu]) (by simp [h]))

@[simp] theorem State.dropDie_canonical {d : Fin 10} (h : s.memCanonical) : (s.dropDie d).memCanonical := by
  simp [State.dropDie, h]

@[simp] theorem State.remove_canonical {r : BitVec 32} (h : s.memCanonical) : (s.remove r).memCanonical := by
  simp [State.remove, h]

@[simp] theorem execResourceRemoval_canonical {rid : BitVec 32} (h : s.memCanonical) :
    AnswersCanonical (execResourceRemoval rid s) := by
  simp [execResourceRemoval, h]

@[simp] theorem State.becomeLasting_canonical {r : BitVec 32} (h : s.memCanonical) : (s.becomeLasting r).memCanonical := by
  simp [State.becomeLasting, h]

@[simp] theorem State.freeLine_canonical_iff : s.freeLine.2.memCanonical ↔ s.memCanonical := by
  simp only [State.freeLine]
  refine foldl_snd_canonical_iff (p := (0, s)) fun p i => ?_
  exact State.mk_canonical_iff

@[simp] theorem State.storeError_canonical_iff : s.storeError.memCanonical ↔ s.memCanonical := by
  simp only [State.storeError]
  repeat' split
  all_goals simp

@[simp] theorem State.spoil_canonical {rid : BitVec 32} {e : DetectedError} (h : s.memCanonical) :
    (s.spoil rid e).memCanonical := by
  cases e with
  | corrected => exact h
  | pool g =>
    simp only [State.spoil]
    split <;> simp [h]
  | memory g =>
    simp only [State.spoil]
    split
    · exact State.mk_canonical_iff.mpr (memWrite_wf _ _ _ _ (State.freeLine_canonical_iff.mpr h))
    · exact h

@[simp] theorem State.capacityError_canonical (h : s.memCanonical) : s.capacityError.memCanonical := by
  simp [State.capacityError, h]

@[simp] theorem State.pickError_canonical_iff {rid : BitVec 32} : (s.pickError rid).2.memCanonical ↔ s.memCanonical := by
  simp [State.pickError]

@[simp] theorem execErrorEvent_canonical {rid : BitVec 32} (h : s.memCanonical) :
    AnswersCanonical (execErrorEvent rid s) := by
  simp [execErrorEvent, h]

@[simp] theorem execHealthcfg_canonical {f : Frame} (h : s.memCanonical) : AnswersCanonical (execHealthcfg f s) := by
  refine frameOp_canonical ?_ h
  dsimp only
  repeat' split
  all_goals simp [h]

@[simp] theorem execHealthrd_canonical {f : Frame} (h : s.memCanonical) : AnswersCanonical (execHealthrd f s) :=
  frameOp_canonical (by simp [h]) h

@[simp] theorem execHeartbeat_canonical {f : Frame} (h : s.memCanonical) : AnswersCanonical (execHeartbeat f s) :=
  frameOp_canonical (by split <;> simp [h]) h

@[simp] theorem execRestore_canonical {f : Frame} (h : s.memCanonical) : AnswersCanonical (execRestore f s) :=
  frameOp_canonical (by simp [h]) h

@[simp] theorem execImage_canonical {f : Frame} (h : s.memCanonical) : AnswersCanonical (execImage f s) := by
  refine frameOp_canonical ?_ h
  dsimp only
  repeat' split
  all_goals simp [h]

@[simp] theorem State.failStart_canonical {n : Nat} (h : s.memCanonical) : (s.failStart n).memCanonical := by
  unfold State.failStart
  exact State.sendEvent_canonical_iff.mpr (State.modFirm_canonical_iff.mpr
    (foldl_canonical (fun _ _ hu => State.removeContext_canonical hu) h))

/-- A start leaves memory as reset does, whatever it was before. -/
theorem State.begin_canonical (s : State) (warm : Bool) (o : StartOutcome) : (s.begin warm o).memCanonical := by
  simp only [State.begin]
  split
  · exact State.failStart_canonical (State.mk_canonical_iff.mpr reset_mem_wf)
  · exact State.failStart_canonical (State.mk_canonical_iff.mpr reset_mem_wf)
  · exact State.mk_canonical_iff.mpr reset_mem_wf

@[simp] theorem State.modDies_canonical_iff {f : Nat → Die → Die} : (s.modDies f).memCanonical ↔ s.memCanonical := by
  unfold State.modDies
  exact foldl_canonical_iff fun _ _ => State.modDie_canonical_iff

@[simp] theorem State.startPulse_canonical_iff : s.startPulse.memCanonical ↔ s.memCanonical := by
  simp only [State.startPulse]
  refine Iff.trans (foldl_canonical_iff fun u _ => ?_) State.modDies_canonical_iff
  exact State.modDie_canonical_iff.trans State.pick_canonical_iff

@[simp] theorem State.trainHbm_canonical_iff {warm : Bool} {o : StartOutcome} :
    (s.trainHbm warm o).memCanonical ↔ s.memCanonical := by
  simp [State.trainHbm]

@[simp] theorem State.passStep_canonical_iff {warm : Bool} {o : StartOutcome} {n : Nat} :
    (s.passStep warm o n).memCanonical ↔ s.memCanonical := by
  have hf {u : State} : ((List.finRange 10).foldl State.takeStamps u).memCanonical ↔ u.memCanonical :=
    foldl_canonical_iff fun _ _ => State.takeStamps_canonical_iff
  unfold State.passStep
  dsimp only
  split <;> simp [hf]

@[simp] theorem State.startStep_canonical (h : s.memCanonical) : s.startStep.memCanonical := by
  unfold State.startStep
  split <;> simp [h]

@[simp] theorem execColdStart_canonical {o : StartOutcome} : AnswersCanonical (execColdStart o s) :=
  answersCanonical_next.mpr (State.begin_canonical s false o)

@[simp] theorem execWarmStart_canonical {o : StartOutcome} : AnswersCanonical (execWarmStart o s) :=
  answersCanonical_next.mpr (State.begin_canonical s true o)

end Sys2Proof.Machine
end

section
/-! ## Canonical memory under the forms of the slot instructions -/

namespace Sys2Proof.Machine
open Sys2Proof

variable {s : State}

theorem scalarOp_canonical {i : Instr} {d : SReg} {v : State → Word} (h : s.memCanonical) :
    AnswersCanonical (scalarOp i d v s) :=
  slotOp_canonical (fun _ hu => State.setS_canonical_iff.mpr hu) h

theorem longScalarOp_canonical {i : Instr} {d : SReg} {v : State → Word} (h : s.memCanonical) :
    AnswersCanonical (longScalarOp i d v s) :=
  slotOp_canonical (fun _ hu => State.longS_canonical_iff.mpr hu) h

theorem predOp_canonical {i : Instr} {d : PReg} {v : State → Bool} (h : s.memCanonical) :
    AnswersCanonical (predOp i d v s) :=
  slotOp_canonical (fun _ hu => State.setP_canonical_iff.mpr hu) h

theorem vecOp_canonical {i : Instr} {d : VReg} {k : KReg} {f : Fmt} {g : State → Nat → Nat × Classes} (h : s.memCanonical) :
    AnswersCanonical (vecOp i d k f g s) :=
  slotOp_canonical (fun _ hu => State.orFlags_canonical_iff.mpr (State.setVm_canonical_iff.mpr hu)) h

theorem vecLong_canonical {i : Instr} {d : VReg} {k : KReg} {f : Fmt} {l : Nat} {g : State → Nat → Nat × Classes}
    (h : s.memCanonical) : AnswersCanonical (vecLong i d k f l g s) :=
  slotOp_canonical (fun _ hu => State.addPending_canonical_iff.mpr (State.newId_canonical_iff.mpr hu)) h

theorem vecWhole_canonical {i : Instr} {d : VReg} {v : State → VWord} (h : s.memCanonical) :
    AnswersCanonical (vecWhole i d v s) :=
  slotOp_canonical (fun _ hu => State.setV_canonical_iff.mpr hu) h

theorem vecWholeFp_canonical {i : Instr} {d : VReg} {f : Fmt} {res : State → List (Nat × Nat × Classes)}
    (h : s.memCanonical) : AnswersCanonical (vecWholeFp i d f res s) :=
  slotOp_canonical (fun _ hu => State.orFlags_canonical_iff.mpr (State.setV_canonical_iff.mpr hu)) h

theorem maskOp_canonical {i : Instr} {d k : KReg} {f : Fmt} {g : State → Nat → Bool × Classes} (h : s.memCanonical) :
    AnswersCanonical (maskOp i d k f g s) :=
  slotOp_canonical (fun _ hu => State.orFlags_canonical_iff.mpr (State.setK_canonical_iff.mpr hu)) h

theorem maskLogic_canonical {i : Instr} {d : KReg} {f : Fmt} {v : State → Nat → Bool} (h : s.memCanonical) :
    AnswersCanonical (maskLogic i d f v s) :=
  slotOp_canonical (fun _ hu => State.setK_canonical_iff.mpr hu) h

theorem tileOp_canonical {i : Instr} {d : TReg} {ok : State → Bool} {res : State → List (Nat × Nat × Classes)}
    {tile : State → List (Nat × Nat × Classes) → Tile} (h : s.memCanonical) : AnswersCanonical (tileOp i d ok res tile s) :=
  slotOp_canonical (fun _ hu => State.orFlags_canonical_iff.mpr (State.setT_canonical_iff.mpr hu)) h

theorem tileMove_canonical {i : Instr} {d : TReg} {ok : State → Bool} {tile : State → Tile} (h : s.memCanonical) :
    AnswersCanonical (tileMove i d ok tile s) :=
  slotOp_canonical (fun _ hu => State.setT_canonical_iff.mpr hu) h

theorem scalarStore_canonical {i : Instr} {d : SReg} {m : MemOp} {x : SReg} {sz : Fin 4} {scl : Bool} (h : s.memCanonical) :
    AnswersCanonical (scalarStore i d m x sz scl s) :=
  slotOp_canonical (fun _ hu => State.storeLanes_canonical hu) h

theorem nibbleStore_canonical {i : Instr} {d : SReg} {m : MemOp} {x : SReg} {hi nidx : Bool} (h : s.memCanonical) :
    AnswersCanonical (nibbleStore i d m x hi nidx s) := by
  refine slotOp_canonical (fun u hu => ?_) h
  dsimp only
  split <;> simp [hu]

theorem atomicOp_canonical {i : Instr} {d : SReg} {m : MemOp} {w64 : Bool} {f : State → Nat → Nat × Classes}
    (h : s.memCanonical) : AnswersCanonical (atomicOp i d m w64 f s) :=
  slotOp_canonical (fun _ hu => State.orFlags_canonical_iff.mpr (State.setS_canonical_iff.mpr (State.spStore_canonical hu))) h

theorem atomicForm_canonical {i : Instr} {op : AtomicOp} {d : SReg} {m : MemOp} {x : SReg} {w64 : Bool}
    (h : s.memCanonical) : AnswersCanonical (atomicForm i op d m x w64 s) := by
  unfold atomicForm
  exact atomicOp_canonical h

theorem execAcas_canonical {g : Guard} {d : SReg} {m : MemOp} {x : SReg} {w64 : Bool} (h : s.memCanonical) :
    AnswersCanonical (execAcas g d m x w64 s) :=
  atomicOp_canonical h

theorem execTadd_canonical {g : Guard} {d a b : TReg} {f : Fmt} {r : Rnd} (h : s.memCanonical) :
    AnswersCanonical (execTadd g d a b f r s) :=
  tileOp_canonical h

theorem execTscale_canonical {g : Guard} {mode : ScaleMode} {d a b : TReg} {f : Fmt} (h : s.memCanonical) :
    AnswersCanonical (execTscale g mode d a b f s) :=
  tileOp_canonical h

theorem engineOp_canonical {i : Instr} {op : EngOp} {d : PReg} {q : Fin 8} (h : s.memCanonical) :
    AnswersCanonical (engineOp i op d q s) := by
  refine slotOp_canonical (fun u hu => ?_) h
  dsimp only
  split
  · exact State.setP_canonical_iff.mpr (State.mk_canonical_iff.mpr (State.newId_canonical_iff.mpr hu))
  · exact State.setP_canonical_iff.mpr hu

theorem execLdv_canonical {g : Guard} {d : VReg} {m : MemOp} {x : SReg} {k : KReg} {lw : Fin 4} {n : GroupSize}
    {scl : Bool} (h : s.memCanonical) : AnswersCanonical (execLdv g d m x k lw n scl s) :=
  slotOp_canonical (fun _ hu => foldl_canonical (fun _ _ hv => State.setVm_canonical_iff.mpr hv) hu) h

theorem execStt_canonical {g : Guard} {d : TReg} {m : MemOp} {x : SReg} {scl : Bool} (h : s.memCanonical) :
    AnswersCanonical (execStt g d m x scl s) :=
  slotOp_canonical (fun _ hu => State.modThread_canonical_iff.mpr (State.storeLanes_canonical hu)) h

theorem execRld_canonical {g : Guard} {d : SReg} {m : MemOp} {x : SReg} {sz : Fin 4} {sgn scl : Bool} (h : s.memCanonical) :
    AnswersCanonical (execRld g d m x sz sgn scl s) := by
  refine slotOp_canonical (fun u hu => ?_) h
  dsimp only
  split <;> simp [hu]

theorem execRaop_canonical {g : Guard} {op : AtomicOp} {d : SReg} {m : MemOp} {x : SReg} {w64 : Bool} (h : s.memCanonical) :
    AnswersCanonical (execRaop g op d m x w64 s) := by
  refine slotOp_canonical (fun u hu => ?_) h
  dsimp only
  split
  · split <;> simp [hu]
  · simp [hu]

theorem execQrsv_canonical {g : Guard} {d : SReg} {m : MemOp} (h : s.memCanonical) :
    AnswersCanonical (execQrsv g d m s) := by
  refine slotOp_canonical (fun u hu => ?_) h
  dsimp only
  split <;> simp [hu]

theorem execQpub_canonical {g : Guard} {d : SReg} {m : MemOp} (h : s.memCanonical) :
    AnswersCanonical (execQpub g d m s) := by
  refine slotOp_canonical (fun u hu => ?_) h
  split <;> simp [hu]

theorem execQtake_canonical {g : Guard} {d : SReg} {m : MemOp} (h : s.memCanonical) :
    AnswersCanonical (execQtake g d m s) := by
  refine slotOp_canonical (fun u hu => ?_) h
  dsimp only
  split <;> simp [hu]

theorem execDepdec_canonical {g : Guard} {d : SReg} {m : MemOp} (h : s.memCanonical) :
    AnswersCanonical (execDepdec g d m s) := by
  refine slotOp_canonical (fun u hu => ?_) h
  dsimp only
  split
  · cases e : depdecEntry u.core.sp (u.objLoc m) (partSPB u.record.part) <;> simp [hu]
  · exact State.sendAccess_canonical_iff.mpr hu

theorem execBoarr_canonical {g : Guard} {m : MemOp} (h : s.memCanonical) : AnswersCanonical (execBoarr g m s) := by
  refine slotOp_canonical (fun u hu => ?_) h
  split <;> simp [hu]

theorem execBwait_canonical {g : Guard} {m : MemOp} {x : SReg} (h : s.memCanonical) :
    AnswersCanonical (execBwait g m x s) := by
  refine slotOp_canonical (fun u hu => ?_) h
  split <;> simp [hu]

theorem execBtest_canonical {g : Guard} {d : PReg} {m : MemOp} {x : SReg} (h : s.memCanonical) :
    AnswersCanonical (execBtest g d m x s) := by
  refine slotOp_canonical (fun u hu => State.setP_canonical_iff.mpr ?_) h
  split <;> simp [hu]

theorem execMwait_canonical {g : Guard} (h : s.memCanonical) : AnswersCanonical (execMwait g s) := by
  refine slotOp_canonical (fun u hu => ?_) h
  split <;> simp [hu]

theorem execMpop_canonical {g : Guard} {d : SReg} (h : s.memCanonical) : AnswersCanonical (execMpop g d s) :=
  slotOp_canonical (fun _ hu => State.mk_canonical_iff.mpr (State.mailPair_canonical_iff.mpr hu)) h

theorem execFence_canonical {g : Guard} {sc : FenceScope} (h : s.memCanonical) : AnswersCanonical (execFence g sc s) := by
  refine slotOp_canonical (fun u hu => ?_) h
  dsimp only
  split <;> simp [hu]

theorem execAcsnap_canonical {g : Guard} {m : MemOp} {x : SReg} (h : s.memCanonical) :
    AnswersCanonical (execAcsnap g m x s) :=
  slotOp_canonical (fun _ hu => State.clearCovered_canonical_iff.mpr (State.spStore_canonical hu)) h

theorem execRecv_canonical {g : Guard} {d : SReg} {tag : TagSel} (h : s.memCanonical) :
    AnswersCanonical (execRecv g d tag s) := by
  refine slotOp_canonical (fun u hu => ?_) h
  split <;> simp [hu]

theorem execRecvt_canonical {g : Guard} {d a : SReg} {b : PReg} {tag : TagSel} (h : s.memCanonical) :
    AnswersCanonical (execRecvt g d a b tag s) := by
  refine slotOp_canonical (fun u hu => ?_) h
  dsimp only
  split
  · simp [hu]
  · split <;> simp [hu]

theorem execWsend_canonical {g : Guard} {a b : SReg} {seq : Byte} {nw : Option (BitVec 5)} (h : s.memCanonical) :
    AnswersCanonical (execWsend g a b seq nw s) :=
  slotOp_canonical (fun _ hu => foldl_canonical (fun _ _ hv => State.sendWindow_canonical_iff.mpr hv) hu) h

theorem execAmsg_canonical {g : Guard} {a b : SReg} {tag : BitVec 14} (h : s.memCanonical) :
    AnswersCanonical (execAmsg g a b tag s) := by
  refine slotOp_canonical (fun u hu => ?_) h
  dsimp only
  split <;> simp [hu]

theorem execQpush_canonical {g : Guard} {q : QReg} {b : SReg} {prio : Fin 8} (h : s.memCanonical) :
    AnswersCanonical (execQpush g q b prio s) := by
  refine slotOp_canonical (fun u hu => ?_) h
  dsimp only
  split <;> simp [hu]

theorem execQpop_canonical {g : Guard} {d : SReg} {q : QReg} {cnt : Bool} (h : s.memCanonical) :
    AnswersCanonical (execQpop g d q cnt s) := by
  refine slotOp_canonical (fun u hu => ?_) h
  dsimp only
  split
  · simp [hu]
  · split <;> simp [hu]

theorem execPark_canonical {g : Guard} {a : SReg} {c : CReg} (h : s.memCanonical) : AnswersCanonical (execPark g a c s) := by
  refine slotOp_canonical (fun u hu => ?_) h
  split <;> simp [hu]

theorem execTamp_canonical {g : Guard} {sc : TampScope} {a : SReg} {imm : BitVec 30} (h : s.memCanonical) :
    AnswersCanonical (execTamp g sc a imm s) := by
  refine slotOp_canonical (fun u hu => ?_) h
  dsimp only
  split <;> simp [hu]

theorem execWaitt_canonical {g : Guard} {c : Counter} {d : PReg} {a : SReg} {imm : BitVec 30} (h : s.memCanonical) :
    AnswersCanonical (execWaitt g c d a imm s) := by
  refine slotOp_canonical (fun u hu => ?_) h
  dsimp only
  split
  · simp [hu]
  · split <;> simp [hu]

theorem answersCanonical_execCarm {g : Guard} {d : PReg} {a : SReg} (h : s.memCanonical) : AnswersCanonical (execCarm g d a s) := by
  refine slotOp_canonical (fun u hu => ?_) h
  dsimp only
  split
  · simp [hu]
  · split <;> simp [hu]

theorem execTrig_canonical {g : Guard} {a : SReg} {n : Byte} (h : s.memCanonical) : AnswersCanonical (execTrig g a n s) :=
  slotOp_canonical (fun _ hu => foldl_canonical (fun _ _ hv => by simp [hv]) hu) h

theorem execVmov_canonical {g : Guard} {d a : VReg} {k : KReg} {f : Fmt} {n : GroupSize} (h : s.memCanonical) :
    AnswersCanonical (execVmov g d a k f n s) :=
  slotOp_canonical (fun _ hu => foldl_canonical (fun _ _ hv => State.setVm_canonical_iff.mpr hv) hu) h

end Sys2Proof.Machine
end

section
/-! ## Canonical memory under every instruction -/

namespace Sys2Proof.Machine
open Sys2Proof

variable {s : State}

/-- Whatever an instruction answers from canonical memory has canonical memory. -/
theorem exec_canonical {i : Instr} (h : s.memCanonical) : AnswersCanonical (exec i s) := by
  cases i with
  | nop =>
    exact answersCanonical_next.mpr h
  | add | sub | mul | mulh | mulhn | and | or | xor | andn | orn | shl | shr | sra | rol | min | max | minn | maxn | bext
  | bdep | sel | lea | clz | ctz | popc | brev | addi | andi | ori | xori | shli | shri | srai | li | lih | mfc | mfs =>
    exact scalarOp_canonical h
  | div | divn | rem | remn =>
    exact longScalarOp_canonical h
  | cmp | cmpi | pand | por | pxor | pnot | pset =>
    exact predOp_canonical h
  | vadd | vsub | vmul | vfma | vfms | vfnma | vrcp | vrsq | vmin | vmax | vabs | vneg | vcpys | viadd | visub | vimul
  | vimulh | vimin | vimax | viabs | vshl | vshr | vsra | vand | vor | vxor | vandn | vpopc | vpack | vbcast | vperm | vshuf
  | vrot | vdot | vhash =>
    exact vecOp_canonical h
  | vdiv | vsqrt | vexp2 | vlog2 =>
    exact vecLong_canonical h
  | vsel | vcomp | vexpd | viota =>
    exact vecWhole_canonical h
  | vred | vscan =>
    exact vecWholeFp_canonical h
  | vcmp | vclass =>
    exact maskOp_canonical h
  | kand | kor | kxor | knot | kmov =>
    exact maskLogic_canonical h
  | mma | mmaz | tcvt =>
    exact tileOp_canonical h
  | tmov | ttrn =>
    exact tileMove_canonical h
  | st | rst =>
    exact scalarStore_canonical h
  | stnb | rstnb =>
    exact nibbleStore_canonical h
  | copy | gath | scat | iload =>
    exact engineOp_canonical h
  | aadd | amin | amax | aminn | amaxn | aand | aor | axor | aswap | afadd =>
    exact atomicForm_canonical h
  | acas => exact execAcas_canonical h
  | tadd => exact execTadd_canonical h
  | tscale => exact execTscale_canonical h
  | br | jmp | jr =>
    exact slotOp_canonical (fun _ hu => State.goto_canonical_iff.mpr hu) h
  | call | callr =>
    exact slotOp_canonical (fun _ hu => State.callTo_canonical_iff.mpr hu) h
  | ret =>
    exact slotOp_canonical (fun _ hu => State.goto_canonical_iff.mpr (State.markDead_canonical_iff.mpr hu)) h
  | loop =>
    exact slotOp_canonical (fun _ hu => State.loopTo_canonical_iff.mpr hu) h
  | lset | halt | segset =>
    exact slotOp_canonical (fun _ hu => State.modThread_canonical_iff.mpr hu) h
  | spawn =>
    exact slotOp_canonical (fun _ hu => State.spawn_canonical_iff.mpr hu) h
  | trap =>
    exact slotOp_canonical (fun _ hu => State.takeTrap_canonical_iff.mpr hu) h
  | eret =>
    exact slotOp_canonical (fun _ hu => State.eret_canonical_iff.mpr hu) h
  | mtc =>
    exact slotOp_canonical (fun _ hu => State.writeCtl_canonical_iff.mpr hu) h
  | mts =>
    exact slotOp_canonical (fun _ hu => State.mk_canonical_iff.mpr hu) h
  | segget =>
    exact slotOp_canonical (fun _ hu => State.setS_canonical_iff.mpr (State.setS_canonical_iff.mpr hu)) h
  | vunpk =>
    exact slotOp_canonical (fun _ hu => State.setVm_canonical_iff.mpr (State.setVm_canonical_iff.mpr hu)) h
  | vcvt =>
    exact slotOp_canonical (fun _ hu => State.orFlags_canonical_iff.mpr (State.setVm_canonical_iff.mpr hu)) h
  | vins | ldvg =>
    exact slotOp_canonical (fun _ hu => State.setVm_canonical_iff.mpr hu) h
  | vext | kpopc | ld =>
    exact slotOp_canonical (fun _ hu => State.setS_canonical_iff.mpr hu) h
  | tzero | tcfg | trowi | tinv | ldt =>
    exact slotOp_canonical (fun _ hu => State.setT_canonical_iff.mpr hu) h
  | trowx =>
    exact slotOp_canonical (fun _ hu => State.setV_canonical_iff.mpr hu) h
  | stv | stvs =>
    exact slotOp_canonical (fun _ hu => State.storeLanes_canonical hu) h
  | boinit =>
    exact slotOp_canonical (fun _ hu => State.spStore_canonical hu) h
  | boexp =>
    exact slotOp_canonical (fun _ hu => State.spWrites_canonical hu) h
  | mpeek =>
    exact slotOp_canonical (fun _ hu => State.mailPair_canonical_iff.mpr hu) h
  | send =>
    exact slotOp_canonical (fun _ hu => State.sendFlight_canonical_iff.mpr hu) h
  | barw | barwr =>
    exact slotOp_canonical (fun _ hu => State.wireArrive_canonical_iff.mpr hu) h
  | cfire =>
    exact slotOp_canonical (fun _ hu => State.fire_canonical hu) h
  | park => exact execPark_canonical h
  | vmov => exact execVmov_canonical h
  | ldv => exact execLdv_canonical h
  | stt => exact execStt_canonical h
  | rld => exact execRld_canonical h
  | raop => exact execRaop_canonical h
  | qrsv => exact execQrsv_canonical h
  | qpub => exact execQpub_canonical h
  | qtake => exact execQtake_canonical h
  | depdec => exact execDepdec_canonical h
  | boarr => exact execBoarr_canonical h
  | bwait => exact execBwait_canonical h
  | btest => exact execBtest_canonical h
  | mwait => exact execMwait_canonical h
  | mpop => exact execMpop_canonical h
  | fence => exact execFence_canonical h
  | acsnap => exact execAcsnap_canonical h
  | recv => exact execRecv_canonical h
  | recvt => exact execRecvt_canonical h
  | tamp => exact execTamp_canonical h
  | waitt => exact execWaitt_canonical h
  | wsend => exact execWsend_canonical h
  | amsg => exact execAmsg_canonical h
  | qpush => exact execQpush_canonical h
  | qpop => exact execQpop_canonical h
  | carm => exact answersCanonical_execCarm h
  | trig => exact execTrig_canonical h
  | longResultReady => exact execLongResultReady_canonical h
  | deferredTrap => exact execDeferredTrap_canonical h
  | holdRelease => exact execHoldRelease_canonical h
  | waitRetry => exact execWaitRetry_canonical h
  | recvRetry => exact execRecvRetry_canonical h
  | recvtDeadline => exact execRecvtDeadline_canonical h
  | parkWake => exact execParkWake_canonical h
  | wireRelease => exact execWireRelease_canonical h
  | wiretoExpiry => exact execWiretoExpiry_canonical h
  | tampRelease => exact execTampRelease_canonical h
  | waittReached => exact execWaittReached_canonical h
  | remoteAccessArrival => exact execRemoteAccessArrival_canonical h
  | remoteReplyArrival => exact execRemoteReplyArrival_canonical h
  | scheduledWordLanding => exact execScheduledWordLanding_canonical h
  | windowWordLanding => exact execWindowWordLanding_canonical h
  | hubWordArrival => exact execHubWordArrival_canonical h
  | activeMessageArrival => exact execActiveMessageArrival_canonical h
  | engineRequestStart => exact execEngineRequestStart_canonical h
  | engineUnitAdmission => exact execEngineUnitAdmission_canonical h
  | engineUnitAccess => exact execEngineUnitAccess_canonical h
  | engineSublist => exact execEngineSublist_canonical h
  | engineRequestComplete => exact execEngineRequestComplete_canonical h
  | mailboxHeldPost => exact execMailboxHeldPost_canonical h
  | faultService => exact execFaultService_canonical h
  | faultAnswerPoll => exact execFaultAnswerPoll_canonical h
  | faultTimeout => exact execFaultTimeout_canonical h
  | shootdownPages => exact execShootdownPages_canonical h
  | shootdownAsid => exact execShootdownAsid_canonical h
  | shootdownSlice => exact execShootdownSlice_canonical h
  | shootdownAck => exact execShootdownAck_canonical h
  | alignStampExchange => exact execAlignStampExchange_canonical h
  | ptpTimestamp => exact execPtpTimestamp_canonical h
  | timetablePut => exact execTimetablePut_canonical h
  | timetableGet => exact execTimetableGet_canonical h
  | timetableAcc => exact execTimetableAcc_canonical h
  | timetableEntryWake => exact execTimetableEntryWake_canonical h
  | carmCheckComplete => exact execCarmCheckComplete_canonical h
  | channelResponsePost => exact execChannelResponsePost_canonical h
  | tracePulse => exact execTracePulse_canonical h
  | placerRun => exact execPlacerRun_canonical h
  | creditExpiry => exact execCreditExpiry_canonical h
  | freezeBoundary => exact execFreezeBoundary_canonical h
  | quiesce => exact execQuiesce_canonical h
  | streamOut => exact execStreamOut_canonical h
  | resume => exact execResume_canonical h
  | elasticEviction => exact execElasticEviction_canonical h
  | coreReturn => exact execCoreReturn_canonical h
  | debugStopRequest => exact execDebugStopRequest_canonical h
  | debugResume => exact execDebugResume_canonical h
  | serviceClockSwitch => exact execServiceClockSwitch_canonical h
  | launch => exact execLaunch_canonical h
  | memrd => exact execMemrd_canonical h
  | memwr => exact execMemwr_canonical h
  | attest => exact execAttest_canonical h
  | bind => exact execBind_canonical h
  | unbind => exact execUnbind_canonical h
  | destroy => exact execDestroy_canonical h
  | reset => exact execReset_canonical h
  | topen => exact execTopen_canonical h
  | tclose => exact execTclose_canonical h
  | trdptr => exact execTrdptr_canonical h
  | hostresp => exact execHostresp_canonical h
  | cancel => exact execCancel_canonical h
  | flightrd => exact execFlightrd_canonical h
  | slicecfg => exact execSlicecfg_canonical h
  | dirty => exact execDirty_canonical h
  | dsnap => exact execDsnap_canonical h
  | slicestop => exact execSlicestop_canonical h
  | sliceload => exact execSliceload_canonical h
  | slicerun => exact execSlicerun_canonical h
  | sliceclear => exact execSliceclear_canonical h
  | digest => exact execDigest_canonical h
  | healthcfg => exact execHealthcfg_canonical h
  | healthrd => exact execHealthrd_canonical h
  | heartbeat => exact execHeartbeat_canonical h
  | restore => exact execRestore_canonical h
  | image => exact execImage_canonical h
  | coldStart => exact execColdStart_canonical
  | warmStart => exact execWarmStart_canonical
  | thermalLimit => exact execThermalLimit_canonical h
  | thermalCritical => exact execThermalCritical_canonical h
  | thermalClear => exact execThermalClear_canonical h
  | errorEvent => exact execErrorEvent_canonical h
  | resourceRemoval => exact execResourceRemoval_canonical h

end Sys2Proof.Machine
end

section
/-! ## Canonical memory under a bundle, a die's cycle and every step (log 2) -/

namespace Sys2Proof.Machine
open Sys2Proof

variable {s : State}

@[simp] theorem State.openBundle_canonical_iff : s.openBundle.memCanonical ↔ s.memCanonical := by simp [State.openBundle]

@[simp] theorem State.noteAccess_canonical_iff {i : Instr} : (s.noteAccess i).memCanonical ↔ s.memCanonical := by
  unfold State.noteAccess
  split
  · rfl
  · exact (foldl_canonical_iff fun _ _ => State.noteRead_canonical_iff).trans (by simp)

@[simp] theorem State.withCounts_canonical_iff {b : Bundle} : (s.withCounts b).memCanonical ↔ s.memCanonical := by
  simp [State.withCounts]

@[simp] theorem State.finishBundle_canonical_iff {rp : Bool} : (s.finishBundle rp).memCanonical ↔ s.memCanonical := by
  simp [State.finishBundle]

@[simp] theorem State.dropBundle_canonical_iff {t : Fin 8} {r : Trap} {pc : Pc} :
    (s.dropBundle t r pc).memCanonical ↔ s.memCanonical := by
  unfold State.dropBundle
  split <;> simp

@[simp] theorem State.leaveWires_canonical_iff {k : CoreKey} {t : Fin 8} :
    (s.leaveWires k t).memCanonical ↔ s.memCanonical := by
  simp [State.leaveWires]

@[simp] theorem State.lateTrap_canonical_iff {r : Trap} : (s.lateTrap r).memCanonical ↔ s.memCanonical := by
  simp [State.lateTrap]

theorem State.endBundle_canonical {s before : State} {rp : Bool} (h : s.memCanonical) (hb : before.memCanonical) :
    (s.endBundle before rp).memCanonical := by
  unfold State.endBundle
  split <;> simp [h, hb]

theorem execSlots_canonical {l : List Instr} (h : s.memCanonical) : AnswersCanonical (execSlots l s) := by
  induction l generalizing s with
  | nil => exact answersCanonical_next.mpr h
  | cons i l ih =>
    unfold execSlots
    split
    next t e => exact ih (exec_canonical h t e)
    next => exact answersCanonical_fault _
    next => exact answersCanonical_refused _

theorem State.execBundle_canonical {b : Bundle} (h : s.memCanonical) : AnswersCanonical (s.execBundle b) := by
  refine execSlots_canonical ?_
  split <;> simp [h]

theorem State.runBundle_canonical {k : CoreKey} (h : s.memCanonical) : AnswersCanonical (s.runBundle k) := by
  have hk : (s.focus k).memCanonical := State.focus_canonical_iff.mpr h
  have ho : (s.focus k).openBundle.memCanonical := State.openBundle_canonical_iff.mpr hk
  unfold State.runBundle
  dsimp only
  split
  · split
    · exact answersCanonical_next.mpr (State.endBundle_canonical (State.takeTrap_canonical_iff.mpr ho) hk)
    · split
      next e => exact answersCanonical_next.mpr (State.endBundle_canonical (State.execBundle_canonical ho _ e) hk)
      next => exact answersCanonical_fault _
      next => exact answersCanonical_refused _
  · exact answersCanonical_fault _

@[simp] theorem State.threadDue_canonical {k : CoreKey} {t : Fin 8} (h : s.memCanonical) :
    (s.threadDue k t).memCanonical := by
  unfold State.threadDue
  have hd {u : State} {p : Bool} {o : Out} (hu : u.memCanonical) (ho : AnswersCanonical o) :
      (if p then u.did o else u).memCanonical := by
    split <;> simp [hu, ho]
  extract_lets _ u v w
  have hu : u.memCanonical := hd h (execLongResultReady_canonical h)
  have hv : v.memCanonical := hd hu (execParkWake_canonical hu)
  have hw : w.memCanonical := hd hv (execTampRelease_canonical hv)
  split
  · exact hv
  · exact hd hw (execWaittReached_canonical hw)

@[simp] theorem State.resumeTake_canonical {k : CoreKey} {t : Fin 8} {b : Nat} (h : s.memCanonical) :
    (s.resumeTake k t b).memCanonical := by
  unfold State.resumeTake
  repeat' split
  all_goals simp [h]

@[simp] theorem State.resumeDue_canonical {k : CoreKey} {t : Fin 8} (h : s.memCanonical) :
    (s.resumeDue k t).memCanonical := by
  unfold State.resumeDue
  split <;> simp [h]

@[simp] theorem State.chargeSlot_canonical_iff {t : Fin 8} {c : Cause} {pc : Option Pc} :
    (s.chargeSlot t c pc).memCanonical ↔ s.memCanonical :=
  State.canonical_iff_of_mem (State.chargeSlot_mem s t c pc)

@[simp] theorem State.retry_canonical {k : CoreKey} {t : Fin 8} (h : s.memCanonical) : (s.retry k t).memCanonical := by
  have hr : (s.did (execRecvRetry k t s)).memCanonical := State.did_canonical h (execRecvRetry_canonical h)
  simp only [State.retry]
  split
  · split
    · exact h
    · exact State.did_canonical hr (execRecvtDeadline_canonical hr)
  · split <;> simp [h]
  · split <;> simp [h]
  · split <;> simp [h]
  · exact h

@[simp] theorem State.readyTurn_canonical {k : CoreKey} {t : Fin 8} (h : s.memCanonical) :
    (s.readyTurn k t).memCanonical := by
  unfold State.readyTurn
  extract_lets th u
  have hu : u.memCanonical := by
    simp only [u]
    split <;> simp [h]
  split
  · exact State.chargeSlot_canonical_iff.mpr h
  · split
    · exact State.did_canonical hu (execDeferredTrap_canonical hu)
    · exact State.mk_canonical_iff.mpr hu

@[simp] theorem State.slotTurn_canonical {k : CoreKey} {t : Fin 8} (h : s.memCanonical) : (s.slotTurn k t).memCanonical := by
  simp only [State.slotTurn]
  repeat' split
  all_goals simp [h]

@[simp] theorem State.frozenTurn_canonical_iff : s.frozenTurn.memCanonical ↔ s.memCanonical := by simp [State.frozenTurn]

@[simp] theorem State.settleCore_canonical_iff : s.settleCore.memCanonical ↔ s.memCanonical := by simp [State.settleCore]

@[simp] theorem State.runningTurn_canonical {k : CoreKey} (h : s.memCanonical) : (s.runningTurn k).memCanonical := by
  have hf : ((List.finRange 8).foldl (fun s t => (s.threadDue k t).resumeDue k t) s.settleCore).memCanonical :=
    foldl_canonical (fun _ _ hu => State.resumeDue_canonical (State.threadDue_canonical hu)) (State.settleCore_canonical_iff.mpr h)
  simp [State.runningTurn, hf]

@[simp] theorem State.noteStart_canonical_iff : s.noteStart.memCanonical ↔ s.memCanonical := by simp [State.noteStart]

@[simp] theorem State.turn_canonical {k : CoreKey} (h : s.memCanonical) : (s.turn k).memCanonical := by
  simp only [State.turn]
  repeat' split
  all_goals simp [h]

@[simp] theorem State.reachPorts_canonical_iff {d : Fin 10} : (s.reachPorts d).memCanonical ↔ s.memCanonical := by
  simp [State.reachPorts]

@[simp] theorem State.arrivalsOf_canonical {d : Fin 10} (h : s.memCanonical) : (s.arrivalsOf d).memCanonical := by
  simp only [State.arrivalsOf, State.windowPhase_canonical_iff, State.linkPhase_canonical_iff]
  refine foldl_canonical (fun _ _ hu => by simp [hu]) (foldl_canonical (fun _ _ hu => by simp [hu]) ?_)
  refine State.reachPorts_canonical_iff.mpr (foldl_canonical (fun _ _ hu => by simp [hu]) ?_)
  exact foldl_canonical (fun _ _ hu => by simp [hu]) h

@[simp] theorem State.engineAct_canonical {a : CoreKey × Nat × Nat} (h : s.memCanonical) : (s.engineAct a).memCanonical := by
  unfold State.engineAct
  split
  · simp [h]
  · simp [h]
  · have ha := State.did_canonical h (execEngineUnitAccess_canonical (c := a.1) (req := a.2.2) h)
    exact State.did_canonical ha (execEngineSublist_canonical ha)
  · simp [h]

@[simp] theorem State.engines_canonical {d : Fin 10} {n : Nat} (h : s.memCanonical) : (s.engines d n).memCanonical := by
  induction n generalizing s with
  | zero => exact h
  | succ n ih =>
    simp only [State.engines]
    split
    · exact ih (State.engineAct_canonical (State.pick_canonical_iff.mpr h))
    · exact State.pick_canonical_iff.mpr h

@[simp] theorem State.completions_canonical {d : Fin 10} (h : s.memCanonical) : (s.completions d).memCanonical := by
  unfold State.completions
  exact foldl_canonical (fun _ _ hu => by simp [hu]) h

@[simp] theorem State.sequencers_canonical {d : Fin 10} {n : Nat} (h : s.memCanonical) :
    (s.sequencers d n).memCanonical := by
  induction n generalizing s with
  | zero => exact h
  | succ n ih =>
    unfold State.sequencers
    split
    · exact h
    next k hdr _ =>
      have hp := State.did_canonical h (execTimetablePut_canonical (c := k) (hdr := hdr) h)
      have hg := State.did_canonical hp (execTimetableGet_canonical (c := k) (hdr := hdr) hp)
      have ha := State.did_canonical hg (execTimetableAcc_canonical (c := k) (hdr := hdr) hg)
      exact ih (State.did_canonical ha (execTimetableEntryWake_canonical ha))

@[simp] theorem State.checks_canonical {d : Fin 10} (h : s.memCanonical) : (s.checks d).memCanonical := by
  unfold State.checks
  refine foldl_canonical (fun _ _ hu => ?_) h
  simp [hu, State.pick]

@[simp] theorem State.closeDie_canonical {d : Fin 10} (h : s.memCanonical) : (s.closeDie d).memCanonical := by
  unfold State.closeDie
  split
  next e =>
  have hp := (canonical_iff_of_pair e State.pick_canonical_iff).mpr h
  dsimp only
  refine State.modCores_canonical_iff.mpr (State.forget_canonical_iff.mpr (State.completeContexts_canonical ?_))
  refine foldl_canonical (fun _ _ hu => by simp [hu]) ?_
  refine foldl_canonical (fun _ _ hu => by simp [hu]) ?_
  refine foldl_canonical (fun _ _ hu => by simp [hu]) ?_
  exact State.sequencers_canonical (State.checks_canonical (State.completions_canonical (State.engines_canonical hp)))

@[simp] theorem State.openDie_canonical {d : Fin 10} (h : s.memCanonical) : (s.openDie d).memCanonical := by
  unfold State.openDie
  extract_lets mine s₁ s₂ s₃ s₄ s₅ s₆ s₇
  have h₁ : s₁.memCanonical := foldl_canonical (fun _ _ hu => State.did_canonical hu (execFreezeBoundary_canonical hu)) h
  have h₂ : s₂.memCanonical := foldl_canonical (fun _ _ hu => State.did_canonical hu (execStreamOut_canonical hu)) h₁
  have h₃ : s₃.memCanonical := foldl_canonical (fun _ _ hu => by simp [hu]) h₂
  have h₄ : s₄.memCanonical := foldl_canonical (fun _ _ hu => State.did_canonical hu (execCoreReturn_canonical hu)) h₃
  have h₅ : s₅.memCanonical := State.streamIn_canonical_iff.mpr h₄
  have h₆ : s₆.memCanonical := foldl_canonical (fun _ _ hu => State.did_canonical hu (execResume_canonical hu)) h₅
  have h₇ : s₇.memCanonical := foldl_canonical (fun _ _ hu => State.did_canonical hu (execWireRelease_canonical hu)) h₆
  split
  · exact State.did_canonical h₇ (execAlignStampExchange_canonical h₇)
  · exact h₇

@[simp] theorem State.removals_canonical (h : s.memCanonical) : s.removals.memCanonical := by
  unfold State.removals
  exact foldl_canonical (fun _ _ hu => by simp [hu]) h

@[simp] theorem State.dieCycle_canonical {d : Fin 10} (h : s.memCanonical) : (s.dieCycle d).memCanonical := by
  have hr := State.removals_canonical h
  simp only [State.dieCycle]
  refine State.mk_canonical_iff.mpr (State.openDie_canonical (State.count_canonical_iff.mpr ?_))
  split
  · exact hr
  · exact State.did_canonical hr (execServiceClockSwitch_canonical hr)

theorem State.firmActs_canonical {f : State → State} (hf : f ∈ s.firmActs) {u : State} (hu : u.memCanonical) :
    (f u).memCanonical := by
  simp only [State.firmActs, List.mem_append, List.mem_flatMap, List.mem_map, List.mem_cons, List.not_mem_nil, or_false] at hf
  obtain (((((⟨n, -, hf⟩ | ⟨d, -, rfl⟩) | ⟨c, -, hf⟩) | ⟨k, -, rfl⟩) | ⟨m, -, rfl⟩) | ⟨c, -, rfl⟩) | hf := hf
  · rcases hf with rfl | rfl | rfl | rfl | rfl | rfl | rfl | rfl | rfl <;> simp [hu]
  · simp [hu]
  · rcases hf with rfl | rfl <;> simp [hu]
  · simp [hu]
  · simp [hu]
  · simp [hu]
  · rcases hf with rfl | rfl | rfl <;> simp [hu]

@[simp] theorem State.pollReads_canonical_iff {sl : Fin 8} : (s.pollReads sl).memCanonical ↔ s.memCanonical := by
  simp only [State.pollReads]
  exact (foldl_canonical_iff fun _ _ => State.noteRead_canonical_iff).trans
    (foldl_canonical_iff fun _ _ => State.noteWalk_canonical_iff)

@[simp] theorem State.firmware_canonical {n : Nat} (h : s.memCanonical) : (s.firmware n).memCanonical := by
  induction n generalizing s with
  | zero => exact h
  | succ n ih =>
    have hp : ((List.finRange 8).foldl State.pollReads s).memCanonical :=
      foldl_canonical (fun _ _ hu => State.pollReads_canonical_iff.mpr hu) h
    simp only [State.firmware]
    split
    next e => exact ih (State.firmActs_canonical (List.mem_of_getElem? e) (State.pick_canonical_iff.mpr hp))
    next => exact State.pick_canonical_iff.mpr hp

@[simp] theorem State.noteFrame_canonical_iff {f : Frame} : (s.noteFrame f).memCanonical ↔ s.memCanonical := by
  unfold State.noteFrame
  repeat' split
  all_goals simp

@[simp] theorem State.countFrame_canonical_iff {f : Frame} : (s.countFrame f).memCanonical ↔ s.memCanonical :=
  State.canonical_iff_of_mem (State.countFrame_mem s f)

theorem State.work_canonical {w : Work} (h : s.memCanonical) : AnswersCanonical (s.work w) := by
  cases w with
  | turn => exact answersCanonical_next.mpr (State.turn_canonical h)
  | bundle => exact State.runBundle_canonical h
  | arrivals => exact answersCanonical_next.mpr (State.arrivalsOf_canonical h)
  | close => exact answersCanonical_next.mpr (State.closeDie_canonical h)
  | ev => exact exec_canonical h

theorem State.takeFrame_canonical {f : Frame} (h : s.memCanonical) : AnswersCanonical (s.takeFrame f) := by
  have hn : (s.noteFrame f).memCanonical := State.noteFrame_canonical_iff.mpr h
  unfold State.takeFrame
  dsimp only
  cases f.kind with
  | none =>
    refine answersCanonical_next.mpr ?_
    split <;> simp [hn]
  | some k => cases k <;> simp [hn]

theorem State.plan_canonical (h : s.memCanonical) : AnswersCanonical s.plan := by
  have hc : ((List.finRange 8).foldl (fun s n => s.did (execCreditExpiry n s)) s).memCanonical :=
    foldl_canonical (fun _ _ hu => by simp [hu]) h
  unfold State.plan
  simp only
  split
  · exact State.takeFrame_canonical (by simp [hc])
  · simp [hc]
  · simp [hc]

theorem step_canonical (h : s.memCanonical) : AnswersCanonical (step s) := by
  unfold step
  split
  · exact State.plan_canonical h
  · exact State.work_canonical (State.mk_canonical_iff.mpr h)

end Sys2Proof.Machine
end

section
/-! ## Every step keeps global memory canonical (O60) -/

namespace Sys2Proof.Machine
open Sys2Proof

/-- Settles O60: memory is written by `memWrite`, `memPut` and `ringPut` alone, which keep the form (log 2), and a start puts reset's
memory there; so whatever a step answers from canonical memory has canonical memory. -/
theorem memoryCanonical : Obligations.MemoryCanonical := by
  unfold Obligations.MemoryCanonical
  intro s t h e
  exact step_canonical h t e

end Sys2Proof.Machine
end
